-- ==== Sys2Proof/Syntax.lean ====
section
/-! DEFINITION. The commands of the module: the ONE inductive `Instr`, one constructor per row of the table of
operations and events, and the operand types the rows need. Threads are named by their global number
(R28): thread t of core c is 16 × c + t; compute-die cores are 0–4,095 (R27) and system core k is named 4,096 + k
(DESIGN CHOICE, assumption 1: the manual numbers the system cores nowhere). -/

namespace Sys2Proof

/-- How `cmp` and `cmpi` combine the condition with the destination predicate (R113). -/
inductive Combine where
  | set | and | or
  deriving DecidableEq, Repr

/-- The conditions of R115. -/
inductive Cond where
  | eq | ne | lt | ge | ltu | geu | tst | ntst
  deriving DecidableEq, Repr

/-- The values `rdst` can read (R139). -/
inductive RdstSel where
  | context | thread | threadLocal | core | coreInContext | partition | tick | pc
  deriving DecidableEq, Repr

/-- The scopes of `sy.fence` (R200). -/
inductive FenceScope where
  | core | basin | part | dev | st
  deriving DecidableEq, Repr

/-- An engine queue of R173: the per-core queues of a compute-die core, the per-basin queues, and the three queues
of a system core k (0 to 7). -/
inductive QueueRef where
  | mx (core : Nat) | cx (core : Nat) | vx (core : Nat) | tw (core : Nat)
  | mv (basin : Nat) | up (basin : Nat) | rd (basin : Nat) | tm (basin : Nat)
  | sysRd (k : Nat) | sysTm (k : Nat) | sysCk (k : Nat)
  deriving DecidableEq, Repr

/-- A unit that stops at stop points (R529, R536, R540): a command queue's unit, or a towpath queue. -/
inductive StopRef where
  | unit (q : QueueRef) | towpath (core : Nat) (q : BitVec 2)
  deriving DecidableEq, Repr

/-- A power-gateable unit (R924): unit 0 or 1 of `BS_PWR_s`, or of `BS_PWR_BASIN`. -/
inductive GateRef where
  | core (core : Nat) (second : Bool) | basin (basin : Nat) (second : Bool)
  deriving DecidableEq, Repr

/-- Who posted an entry that firmware has taken: entry n of command ring c of function f, or entry n of a
context's service queue (R623, R840). -/
inductive Poster where
  | ring (fn : Nat) (c : Nat) (n : Nat) | service (ctx : Nat) (n : Nat)
  deriving DecidableEq, Repr

/-- Who makes a register access: firmware through its system-core view, or the host driver of function f
(f = 0 is the PF, R834). -/
inductive Actor where
  | fw | host (fn : Nat)
  deriving DecidableEq, Repr

/-- Who issues a key command (R801): firmware (with SOURCE = DEVICE or not), or a party in a secure session. -/
inductive KeyIssuer where
  | fw (deviceSource : Bool) | party (partyId : U128)
  deriving DecidableEq, Repr

/-- The memory a patrol read covers (R551). -/
inductive MemSpace where
  | t1 | t2
  deriving DecidableEq, Repr

/-- The SPDM connections (R820): PCIe DOE of the physical function, or MCTP on the sideband. -/
inductive Conn where
  | doe | mctp
  deriving DecidableEq, Repr

/-- Where a tollhouse operation comes from (R971, R972): the mailbox `TH_CMD`, or the sideband with its argument and
(for REPORT) its nonce. -/
inductive ThSource where
  | mailbox | sideband (arg : U64) (nonce : List Byte)
  deriving DecidableEq, Repr

/-- What the environment shows the rate monitors over one 1 ms window (R78, R79, R1014): per compute die the
wavefront periods, VCORE in mV, hottest junction and whether the cap limited the die; per I/O die its junction. -/
structure RateSample where
  waves : List Nat
  vcoreMv : List Nat
  tjC : List Nat
  capped : List Bool
  ioC : List Nat
  deriving DecidableEq, Repr

/-- The algorithms a requester offers (R820). -/
structure AlgoOffer where
  asymRsaPss3072 : Bool
  hashSha384 : Bool
  dheP384 : Bool
  aeadAes256Gcm : Bool
  dmtf : Bool
  deriving DecidableEq, Repr

/-- What an `eng` word says of its command beside its registers (R141): the predicate it writes, and the command code. The first
row of each unit carries the code, since it stands for the unit's reserved codes too (assumption 83). -/
structure EngCode where
  pk : Pred
  code : BitVec 8
  deriving DecidableEq, Repr

/-- What the FEC made of the codewords that carry a flit (R875): how many of those that no earlier flit has a bit in it
corrected, how many of them it could not correct, and whether any codeword the flit has a bit in could not be corrected. -/
structure FecOutcome where
  corrected : Nat
  uncorrectable : Nat
  lost : Bool
  deriving DecidableEq, Repr

/-- One margin the lengthsman measures (R929): basin, physical slot (0x1F for MVU or update unit), margin in ps, and
whether the delay line is at its longest setting. -/
structure Margin where
  basin : Nat
  path : Nat
  ps : Nat
  longest : Bool
  deriving DecidableEq, Repr

/-- What one calibration measures. Where R70's table leaves open whether die d's rate cap, lowered by one step, is at or above the
floor of R931 step 2, `capFloorOk d` tells. -/
structure CalSample where
  margins : List Margin
  capFloorOk : List Bool
  deriving DecidableEq, Repr

/-- The outcome of stage 6 (R930, R951, R952): whether HBM3E and LPDDR5X trained, the (basin, physical slot) of every core whose
TEST failed, and what the start-up calibration measures with every delay line at its shortest setting. -/
structure TrainResult where
  hbmOk : Bool
  lpddrOk : Bool
  failed : List (Nat × Nat)
  cal : CalSample
  deriving DecidableEq, Repr

/-- How an I3C dynamic address is assigned (R976). -/
inductive I3cMethod where
  | setdasa | entdaa
  deriving DecidableEq, Repr

/-- The PLDM sensors of R976. -/
inductive SensorId where
  | vin | power | junction | weir | stage
  deriving DecidableEq, Repr

/-- What an IDE_KM message does to a stream's keys (R832 and the IDE section): program a key, activate or stop it. -/
inductive IdeOp where
  | program (key : BitVec 256) | activate | stop
  deriving DecidableEq, Repr

/-- The commands: one constructor per row of the table of operations and events. -/
inductive Instr where
  /-- ADD (R110): Integer add of two registers modulo 2^64 into gD. -/
  | add (th : Nat) (d a b : Reg)
  /-- SUB (R110): Integer subtract of two registers modulo 2^64 into gD. -/
  | sub (th : Nat) (d a b : Reg)
  /-- MUL (R110): Low 64 bits of the product into gD. -/
  | mul (th : Nat) (d a b : Reg)
  /-- MULH (R110): High 64 bits of the signed 128-bit product into gD. -/
  | mulh (th : Nat) (d a b : Reg)
  /-- MULHU (R110): High 64 bits of the unsigned 128-bit product into gD. -/
  | mulhu (th : Nat) (d a b : Reg)
  /-- DIV (R111): Signed quotient rounded toward zero, with the fixed results for a zero divisor and overflow. -/
  | div (th : Nat) (d a b : Reg)
  /-- DIVU (R111): Unsigned quotient, all ones for a zero divisor. -/
  | divu (th : Nat) (d a b : Reg)
  /-- REM (R111): Signed remainder with the sign of gA, the dividend for a zero divisor. -/
  | rem (th : Nat) (d a b : Reg)
  /-- REMU (R111): Unsigned remainder, the dividend for a zero divisor. -/
  | remu (th : Nat) (d a b : Reg)
  /-- AND (R110): Bitwise AND of two registers into gD. -/
  | andd (th : Nat) (d a b : Reg)
  /-- OR (R110): Bitwise OR of two registers into gD. -/
  | orr (th : Nat) (d a b : Reg)
  /-- XOR (R110): Bitwise XOR of two registers into gD. -/
  | xor (th : Nat) (d a b : Reg)
  /-- ANDN (R110): gA AND NOT gB into gD. -/
  | andn (th : Nat) (d a b : Reg)
  /-- SLL (R110): Shift left by gB[5:0] into gD. -/
  | sll (th : Nat) (d a b : Reg)
  /-- SRL (R110): Logical shift right by gB[5:0] into gD. -/
  | srl (th : Nat) (d a b : Reg)
  /-- SRA (R110): Arithmetic shift right by gB[5:0] into gD. -/
  | sra (th : Nat) (d a b : Reg)
  /-- MIN (R110): Signed minimum into gD. -/
  | minS (th : Nat) (d a b : Reg)
  /-- MAX (R110): Signed maximum into gD. -/
  | maxS (th : Nat) (d a b : Reg)
  /-- MINU (R110): Unsigned minimum into gD. -/
  | minu (th : Nat) (d a b : Reg)
  /-- MAXU (R110): Unsigned maximum into gD. -/
  | maxu (th : Nat) (d a b : Reg)
  /-- CLZ (R110): Count of leading zeros of gA into gD. -/
  | clz (th : Nat) (d a : Reg)
  /-- CTZ (R110): Count of trailing zeros of gA into gD. -/
  | ctz (th : Nat) (d a : Reg)
  /-- POPC (R110): Count of ones of gA into gD. -/
  | popc (th : Nat) (d a : Reg)
  /-- SEXT_B (R110): gA[7:0] sign-extended into gD. -/
  | sextB (th : Nat) (d a : Reg)
  /-- SEXT_H (R110): gA[15:0] sign-extended into gD. -/
  | sextH (th : Nat) (d a : Reg)
  /-- SEXT_W (R110): gA[31:0] sign-extended into gD. -/
  | sextW (th : Nat) (d a : Reg)
  /-- ZEXT_W (R110): gA[31:0] zero-extended into gD. -/
  | zextW (th : Nat) (d a : Reg)
  /-- ADDI (R108): gD = gA + sext(I). -/
  | addi (th : Nat) (d a : Reg) (imm : U16)
  /-- ANDI (R108): gD = gA AND zext(I). -/
  | andi (th : Nat) (d a : Reg) (imm : U16)
  /-- ORI (R108): gD = gA OR zext(I). -/
  | ori (th : Nat) (d a : Reg) (imm : U16)
  /-- XORI (R108): gD = gA XOR zext(I). -/
  | xori (th : Nat) (d a : Reg) (imm : U16)
  /-- SHI_LEFT (R112): Shift left by an immediate amount. -/
  | shiLeft (th : Nat) (d a : Reg) (amount : BitVec 6)
  /-- SHI_LOGICAL_RIGHT (R112): Logical shift right by an immediate amount. -/
  | shiLogicalRight (th : Nat) (d a : Reg) (amount : BitVec 6)
  /-- SHI_ARITH_RIGHT (R112): Arithmetic shift right by an immediate amount. -/
  | shiArithRight (th : Nat) (d a : Reg) (amount : BitVec 6)
  /-- LUI (R108): gD = sext(I) x 65,536. -/
  | lui (th : Nat) (d : Reg) (imm : U16)
  /-- CMP (R114): Compares two registers under a condition and sets or combines a predicate. -/
  | cmp (th : Nat) (comb : Combine) (pd : Pred) (cond : Cond) (a b : Reg)
  /-- CMPI (R114): Compares a register with an 11-bit immediate and sets or combines a predicate. -/
  | cmpi (th : Nat) (comb : Combine) (pd : Pred) (cond : Cond) (a : Reg) (imm : BitVec 11)
  /-- PAND (R116): pd = pa AND pb. -/
  | pand (th : Nat) (pd pa pb : Pred)
  /-- POR (R116): pd = pa OR pb. -/
  | por (th : Nat) (pd pa pb : Pred)
  /-- PXOR (R116): pd = pa XOR pb. -/
  | pxor (th : Nat) (pd pa pb : Pred)
  /-- PANDN (R116): pd = pa AND NOT pb. -/
  | pandn (th : Nat) (pd pa pb : Pred)
  /-- PNOT (R116): pd = NOT pa. -/
  | pnot (th : Nat) (pd pa pb : Pred)
  /-- PMOV (R116): pd = pa. -/
  | pmov (th : Nat) (pd pa pb : Pred)
  /-- PSET (R116): pd = true. -/
  | pset (th : Nat) (pd pa pb : Pred)
  /-- PCLR (R116): pd = false. -/
  | pclr (th : Nat) (pd pa pb : Pred)
  /-- SEL (R117): Writes gA or gB to gD according to a predicate. -/
  | sel (th : Nat) (d a b : Reg) (p : Pred)
  /-- B (R118): Branches by a word offset when a predicate equals the sense bit. -/
  | branch (th : Nat) (sense : Bool) (p : Pred) (off : U16)
  /-- J (R119): Jumps by a word offset. -/
  | jump (th : Nat) (off : U16)
  /-- CALL (R119): Writes the return address to g31 and jumps by a word offset. -/
  | call (th : Nat) (off : U16)
  /-- JR (R120): Jumps through gA, optionally linking in g31. -/
  | jr (th : Nat) (a : Reg) (link : Bool)
  /-- JL (R121): Long jump or call by a signed 32-bit word offset. -/
  | jl (th : Nat) (link : Bool) (off : U32)
  /-- LI (R108): Loads a sign-extended 48-bit immediate into gD. -/
  | li (th : Nat) (d : Reg) (imm : BitVec 48)
  /-- LIH (R108): Loads gD[63:32] from the second word and keeps gD[31:0]. -/
  | lih (th : Nat) (d : Reg) (imm : U32)
  /-- ADDIL (R108): gD = gA + sext(second word). -/
  | addil (th : Nat) (d a : Reg) (imm : U32)
  /-- ILLEGAL_OP (R109): A reserved encoding traps with ILLEGAL_OP and the thread becomes HALTED with an event record. -/
  | illegalOp (th : Nat)
  /-- LDT (R123): Loads from the core's tile store, trapping on misalignment, range or an uncorrectable word. -/
  | ldt (th : Nat) (d a : Reg) (size : BitVec 2) (sx : Bool) (off : BitVec 11)
  /-- STT (R123): Stores to the core's tile store, trapping on misalignment, range or an uncorrectable word. -/
  | stt (th : Nat) (d a : Reg) (size : BitVec 2) (off : BitVec 11)
  /-- LDV (R126): Loads from device virtual memory through translation, the thread WAITING for the data. -/
  | ldv (th : Nat) (d a : Reg) (size : BitVec 2) (sx : Bool) (off : BitVec 11)
  /-- STV (R126): Stores to device virtual memory through translation, trapping with MEM_FAULT on a fault. -/
  | stv (th : Nat) (d a : Reg) (size : BitVec 2) (off : BitVec 11)
  /-- AMO_ADD (R132): Atomic add at the page's home, returning the old value. -/
  | amoAdd (th : Nat) (d a b : Reg) (wide : Bool)
  /-- AMO_AND (R132): Atomic AND, returning the old value. -/
  | amoAnd (th : Nat) (d a b : Reg) (wide : Bool)
  /-- AMO_OR (R132): Atomic OR, returning the old value. -/
  | amoOr (th : Nat) (d a b : Reg) (wide : Bool)
  /-- AMO_XOR (R132): Atomic XOR, returning the old value. -/
  | amoXor (th : Nat) (d a b : Reg) (wide : Bool)
  /-- AMO_MIN (R132): Atomic signed minimum, returning the old value. -/
  | amoMin (th : Nat) (d a b : Reg) (wide : Bool)
  /-- AMO_MAX (R132): Atomic signed maximum, returning the old value. -/
  | amoMax (th : Nat) (d a b : Reg) (wide : Bool)
  /-- AMO_MINU (R132): Atomic unsigned minimum, returning the old value. -/
  | amoMinu (th : Nat) (d a b : Reg) (wide : Bool)
  /-- AMO_MAXU (R132): Atomic unsigned maximum, returning the old value. -/
  | amoMaxu (th : Nat) (d a b : Reg) (wide : Bool)
  /-- AMO_SWAP (R132): Atomic swap, returning the old value. -/
  | amoSwap (th : Nat) (d a b : Reg) (wide : Bool)
  /-- AMO_CAS (R132): Atomic compare-and-swap against the expected value in gD. -/
  | amoCas (th : Nat) (d a b : Reg) (wide : Bool)
  /-- LDV_DATA_RETURN (R104): Data of an outstanding ldv or atomic returns from T1 and its thread leaves WAITING. -/
  | ldvDataReturn (th : Nat)
  /-- ICACHE_FILL (R1009): An instruction-cache line arrives from T1 and is installed, releasing the waiting thread. -/
  | icacheFill (th : Nat)
  /-- TH_PARK (R135): Consumes a pending wake or parks the thread. -/
  | thPark (th : Nat)
  /-- TH_WAKE (R136): Sets wake pending on a thread of the core, releasing one park. -/
  | thWake (th : Nat) (a : Reg)
  /-- TH_START (R135): Starts a FREE thread with copied registers at a given PC, or returns BUSY. -/
  | thStart (th : Nat) (d a b : Reg)
  /-- TH_EXIT (R135): Makes the thread FREE while its queued commands continue. -/
  | thExit (th : Nat)
  /-- TH_YIELD (R135): Makes the thread not READY for the next 16 handshakes. -/
  | thYield (th : Nat)
  /-- YIELD_EXPIRY (R135): The 16-handshake yield ends and the thread may issue again. -/
  | yieldExpiry (th : Nat)
  /-- TH_BRK (R135): Traps with BREAK and the thread becomes STOPPED. -/
  | thBrk (th : Nat)
  /-- TH_PARKT (R135): Parks the thread until woken or until the coarse tick exceeds gA. -/
  | thParkt (th : Nat) (a : Reg)
  /-- PARKT_TIMEOUT (R135): The coarse tick passes a th.parkt limit and the thread leaves PARKED. -/
  | parktTimeout (th : Nat)
  /-- RDST (R139): Reads a thread identity value or the coarse tick into gD. -/
  | rdst (th : Nat) (d : Reg) (sel : RdstSel)
  /-- SY_WAIT (R194): Waits on a ticket and writes the command's completion status to gD. -/
  | syWait (th : Nat) (d a : Reg)
  /-- SY_FENCE (R200): Parks until the thread's earlier operations in scope complete and are visible. -/
  | syFence (th : Nat) (scope : FenceScope)
  /-- SYS_TSTOP (R158): Stops a compute-die thread at its next instruction boundary. -/
  | sysTstop (th : Nat) (d a : Reg)
  /-- SYS_TSAVE (R163): Writes the save record of a STOPPED or HALTED thread. -/
  | sysTsave (th : Nat) (d a b : Reg)
  /-- SYS_TREST (R164): Loads a thread save record into a FREE thread, which becomes STOPPED. -/
  | sysTrest (th : Nat) (d a b : Reg)
  /-- SYS_TGO (R148): Makes a STOPPED thread READY, or PARKED as its record says. -/
  | sysTgo (th : Nat) (d a : Reg)
  /-- SYS_TFREE (R148): Makes a STOPPED or HALTED thread FREE. -/
  | sysTfree (th : Nat) (d a : Reg)
  /-- SYS_CTXBIND (R148): Binds a scrubbed, idle core to a context and resets its ticket counters. -/
  | sysCtxbind (th : Nat) (d a b : Reg)
  /-- SYS_PTROOT (R148): Sets a context's page-table root. -/
  | sysPtroot (th : Nat) (d a b : Reg)
  /-- SYS_TLBINV (R528): Invalidates a context's TLB entries in its partition and completes when accesses through them are done. -/
  | sysTlbinv (th : Nat) (d a b : Reg)
  /-- SYS_SCRUB (R542): Scrubs an idle core to the post-scrub state, or returns BUSY. -/
  | sysScrub (th : Nat) (d a : Reg)
  /-- MX_FWD (R285): Forward product over stationary tiles into an accumulator tile or partial region, optionally gathered and with carriage up term. -/
  | mxFwd (th : Nat) (d a : Reg) (w : EngCode)
  /-- MX_REV (R285): Reverse-orientation product on the same stationary carts. -/
  | mxRev (th : Nat) (d a : Reg) (pk : Pred)
  /-- MX_FWD3 (R260): Forward triple-split FP32 product of six K-block sums per tile. -/
  | mxFwd3 (th : Nat) (d a : Reg) (pk : Pred)
  /-- MX_REV3 (R260): Reverse triple-split FP32 product. -/
  | mxRev3 (th : Nat) (d a : Reg) (pk : Pred)
  /-- MX_DRAIN (R1025): Converts an accumulator tile or partial region to an output format and writes the flag word. -/
  | mxDrain (th : Nat) (d a : Reg) (pk : Pred)
  /-- GATHER_WINDOW_EXPIRY (R222): GATHER_WINDOW handshakes pass since a group opened; the group closes and runs. -/
  | gatherWindowExpiry (core group : Nat)
  /-- CX_DOWN (R267): Forms each row's adapter down term h and writes it in BF16. -/
  | cxDown (th : Nat) (d a : Reg) (w : EngCode)
  /-- CX_BACK (R267): Forms each row's reverse down term g and writes it in BF16. -/
  | cxBack (th : Nat) (d a : Reg) (pk : Pred)
  /-- CX_GRAD (R679): Adds adapter weight gradients by row block into the gradient hold, refusing out-of-order micro-batches. -/
  | cxGrad (th : Nat) (d a : Reg) (pk : Pred)
  /-- MV_FWD (R275): MVU forward product of up to 4 vectors against carts streamed from T1. -/
  | mvFwd (th : Nat) (d a : Reg) (w : EngCode)
  /-- MV_REV (R275): MVU reverse product from T1. -/
  | mvRev (th : Nat) (d a : Reg) (pk : Pred)
  /-- MV_FWD3 (R275): MVU forward triple-split FP32 product from T1. -/
  | mvFwd3 (th : Nat) (d a : Reg) (pk : Pred)
  /-- VX_RUN (R363): Runs a chain of vector instructions over ROWS x COLS elements and leaves a summary. -/
  | vxRun (th : Nat) (d a : Reg) (w : EngCode)
  /-- VX_SUM (R215): Returns one field of a held summary into gD and sets its predicate. -/
  | vxSum (th : Nat) (d a : Reg) (pk : Pred)
  /-- VX_STEP (R398): Sets the core's stochastic-rounding STEP. -/
  | vxStep (th : Nat) (d a : Reg) (pk : Pred)
  /-- VX_TLOAD (R390): Sets a table descriptor, optionally copying entries, and marks the table valid. -/
  | vxTload (th : Nat) (d a : Reg) (pk : Pred)
  /-- VX_COMB (R397): Adds two arrays element-wise with the accumulator addition of a kind. -/
  | vxComb (th : Nat) (d a : Reg) (pk : Pred)
  /-- VX_MOV (R399): Single-operation vector copy. -/
  | vxMov (th : Nat) (d a : Reg) (pk : Pred)
  /-- VX_ADD (R399): Single-operation vector add. -/
  | vxAdd (th : Nat) (d a : Reg) (pk : Pred)
  /-- VX_SUB (R399): Single-operation vector subtract. -/
  | vxSub (th : Nat) (d a : Reg) (pk : Pred)
  /-- VX_MUL (R399): Single-operation vector multiply. -/
  | vxMul (th : Nat) (d a : Reg) (pk : Pred)
  /-- VX_FMA (R399): Single-operation vector fused multiply-add. -/
  | vxFma (th : Nat) (d a : Reg) (pk : Pred)
  /-- VX_DIV (R399): Single-operation vector divide. -/
  | vxDiv (th : Nat) (d a : Reg) (pk : Pred)
  /-- VX_RECIP (R378): Single-operation vector reciprocal. -/
  | vxRecip (th : Nat) (d a : Reg) (pk : Pred)
  /-- VX_SQRT (R399): Single-operation vector square root. -/
  | vxSqrt (th : Nat) (d a : Reg) (pk : Pred)
  /-- VX_RSQRT (R378): Single-operation vector reciprocal square root. -/
  | vxRsqrt (th : Nat) (d a : Reg) (pk : Pred)
  /-- VX_EXP (R378): Single-operation vector natural exponential. -/
  | vxExp (th : Nat) (d a : Reg) (pk : Pred)
  /-- VX_EXP2 (R378): Single-operation vector base-2 exponential. -/
  | vxExp2 (th : Nat) (d a : Reg) (pk : Pred)
  /-- VX_LOG (R378): Single-operation vector natural logarithm. -/
  | vxLog (th : Nat) (d a : Reg) (pk : Pred)
  /-- VX_LOG2 (R378): Single-operation vector base-2 logarithm. -/
  | vxLog2 (th : Nat) (d a : Reg) (pk : Pred)
  /-- VX_MIN (R399): Single-operation vector minimum. -/
  | vxMin (th : Nat) (d a : Reg) (pk : Pred)
  /-- VX_MAX (R399): Single-operation vector maximum. -/
  | vxMax (th : Nat) (d a : Reg) (pk : Pred)
  /-- VX_ABS (R399): Single-operation vector absolute value. -/
  | vxAbs (th : Nat) (d a : Reg) (pk : Pred)
  /-- VX_NEG (R399): Single-operation vector negation. -/
  | vxNeg (th : Nat) (d a : Reg) (pk : Pred)
  /-- VX_CLAMP (R399): Single-operation vector clamp. -/
  | vxClamp (th : Nat) (d a : Reg) (pk : Pred)
  /-- VX_CVT (R380): Single-operation conversion to a format and back to FP32. -/
  | vxCvt (th : Nat) (d a : Reg) (pk : Pred)
  /-- VX_LUT (R394): Single-operation table look-up with nearest, linear or cubic interpolation. -/
  | vxLut (th : Nat) (d a : Reg) (pk : Pred)
  /-- VX_SHUF (R381): Single-operation lane shuffle within a group. -/
  | vxShuf (th : Nat) (d a : Reg) (pk : Pred)
  /-- VX_RSUM (R385): Single-operation row sum in the fixed lane tree. -/
  | vxRsum (th : Nat) (d a : Reg) (pk : Pred)
  /-- VX_RMAX (R385): Single-operation row maximum. -/
  | vxRmax (th : Nat) (d a : Reg) (pk : Pred)
  /-- VX_RMIN (R385): Single-operation row minimum. -/
  | vxRmin (th : Nat) (d a : Reg) (pk : Pred)
  /-- TW_ARM (R442): Copies a towpath program image into a queue's pending slot, or returns BUSY. -/
  | twArm (th : Nat) (d a : Reg) (w : EngCode)
  /-- TW_FLIP (R428): Reaches the head of the towpath command queue and waits to swap the chambers of named pairs. -/
  | twFlip (th : Nat) (d a : Reg) (pk : Pred)
  /-- FLIP_SWAP (R428): Once stream transfers and compute commands are done, swaps chamber roles of the named pairs at one moment. -/
  | flipSwap (core : Nat)
  /-- TW_PAIR (R431): Requests to enable, move or disable a chamber pair. -/
  | twPair (th : Nat) (d a : Reg) (pk : Pred)
  /-- PAIR_SET (R431): Once no issued transfer touches the old or new region, sets the pair and completes. -/
  | pairSet (core : Nat)
  /-- PROGRAM_ACTIVATE (R444): A pending towpath program becomes active when the active slot empties. -/
  | programActivate (core : Nat) (q : BitVec 2)
  /-- MOVE (R436): Towpath instruction that emits the transfers of one move. -/
  | move (core : Nat) (q : BitVec 2)
  /-- ADDS (R434): Towpath instruction that adds a stride to an address register. -/
  | adds (core : Nat) (q : BitVec 2)
  /-- LOOP (R435): Towpath instruction that counts and branches back. -/
  | loopBack (core : Nat) (q : BitVec 2)
  /-- WAITC (R434): Towpath instruction that waits until a chamber is the stream chamber. -/
  | waitc (core : Nat) (q : BitVec 2)
  /-- SIGNAL (R440): Towpath instruction that wakes a thread once earlier transfers have issued or completed. -/
  | signal (core : Nat) (q : BitVec 2)
  /-- END (R444): Towpath instruction that ends the program. -/
  | endProg (core : Nat) (q : BitVec 2)
  /-- TRANSFER_ISSUE (R418): A held transfer issues once depth, range hazard and chamber rules allow. -/
  | transferIssue (core : Nat) (q : BitVec 2)
  /-- TRANSFER_COMPLETE (R423): A transfer's bytes become visible, or it faults onto the retry list. -/
  | transferComplete (core : Nat) (q : BitVec 2) (index : Nat)
  /-- AT_RUN (R571): Fused attention over a range of key blocks, with optional appends, writing outputs or partial records. -/
  | atRun (th : Nat) (d a : Reg) (w : EngCode)
  /-- AT_BACK (R596): Backward recomputation of attention, accumulating DQ and DC. -/
  | atBack (th : Nat) (d a : Reg) (pk : Pred)
  /-- AT_MERGE (R581): Merges partial attention records in the fixed tree. -/
  | atMerge (th : Nat) (d a : Reg) (pk : Pred)
  /-- UP_TAKE (R703): Moves gradient-hold granules to T1 as FP32 and clears them, or discards them. -/
  | upTake (th : Nat) (d a : Reg) (w : EngCode)
  /-- UP_NORM (R707): Pass one: forms a shard's gradient sum of squares as a compensated pair. -/
  | upNorm (th : Nat) (d a : Reg) (pk : Pred)
  /-- UP_APPLY (R714): Pass two: checks GSS, clips, applies the optimiser through the redo journal, and commits or resumes. -/
  | upApply (th : Nat) (d a : Reg) (pk : Pred)
  /-- UP_DIGEST (R735): Writes the SHA3-256 digest of a shard's state. -/
  | upDigest (th : Nat) (d a : Reg) (pk : Pred)
  /-- RD_SUM (R753): Sums a contribution region over the replica group in a fixed schedule. -/
  | rdSum (th : Nat) (d a : Reg) (w : EngCode)
  /-- RD_CLOSE (R771): Exchanges close records and forms the step's verdict. -/
  | rdClose (th : Nat) (d a : Reg) (pk : Pred)
  /-- RD_HASH (R789): Writes the SHA3-256 of a T1 region to tile store. -/
  | rdHash (th : Nat) (d a : Reg) (pk : Pred)
  /-- TM_MOVE (R483): Moves a range of pages to a target tier. -/
  | tmMove (th : Nat) (d a : Reg) (w : EngCode)
  /-- TM_LAYER (R490): Announces the current layer to the tier schedule and waits on WAIT entries. -/
  | tmLayer (th : Nat) (d a : Reg) (pk : Pred)
  /-- TM_HOME (R486): Returns a page's home, state and codec format in gD. -/
  | tmHome (th : Nat) (d a : Reg) (pk : Pred)
  /-- CK_RUN (R896): Computes or checks an object trailer over a region. -/
  | ckRun (th : Nat) (d a : Reg) (w : EngCode)
  /-- DEP_SATISFIED (R180): A command waiting on its dependency ticket starts, or is cancelled under DEP_STRICT. -/
  | depSatisfied (q : QueueRef)
  /-- LOCK_GRANT_SLOT (R909): A basin's grant slot comes and the lock-keeper grants waiting passes against the pool. -/
  | lockGrantSlot (basin : Nat)
  /-- PASS_START (R911): A granted command starts once the share's running power leaves room for its pass power. -/
  | passStart (q : QueueRef)
  /-- ENGINE_STOP_POINT (R536): An engine with a stop request reaches its next stop point and records its position. -/
  | engineStopPoint (u : StopRef)
  /-- PAGE_MOVE (R464): A tier engine moves one page in four steps, releasing units waiting on NOT_RESIDENT. -/
  | pageMove (engine : Nat)
  /-- SCHEDULE_ENTRY_START (R489): A tier-schedule entry comes within reach and is carried out as a tm.move. -/
  | scheduleEntryStart (ctx : Nat)
  /-- REKEY_PAGE (R802): A tier engine re-encrypts one page under the current key epoch. -/
  | rekeyPage (slot ctx va : Nat)
  /-- FAULT_RECORD_TAKE (R1011): Firmware takes a fault record and moves the page, makes room, or ends the fault. -/
  | faultRecordTake (die : Nat)
  /-- BS_FAULT_END (R532): Firmware write that ends a unit's NOT_RESIDENT wait with a final status. -/
  | bsFaultEnd (basin : Nat) (value : U64)
  /-- PATROL_MEM (R551): A memory controller patrol-reads and corrects a codeword. -/
  | patrolMem (space : MemSpace) (addr : Nat) (symbolErrors : List (Nat × Nat))
  /-- PATROL_SRAM (R552): An SRAM bank patrol-reads one word per 4,096 handshakes and corrects it. -/
  | patrolSram (basin pslot off : Nat) (bitErrors : Nat)
  /-- RATE_WINDOW (R79): A 1 ms window ends and the die rate and I/O temperature registers update. -/
  | rateWindow (sample : RateSample)
  /-- TICKET_MODE_CHANGE (R80): A requested ticket-mode change takes effect once the partition is parked. -/
  | ticketModeChange (part : Nat)
  /-- AD_REGISTER (R631): Registers an adapter from a host record. -/
  | adRegister (p : Poster)
  /-- AD_PUBLISH (R657): Publishes a new adapter version into the free version slot and flips CUR. -/
  | adPublish (p : Poster)
  /-- AD_REVOKE (R652): Revokes an adapter, ending its requests and erasing its images. -/
  | adRevoke (p : Poster)
  /-- AD_REMOVE (R632): Removes an unpinned adapter entry. -/
  | adRemove (p : Poster)
  /-- AD_LOAD (R635): Loads an adapter's current version into T1 or T2. -/
  | adLoad (p : Poster)
  /-- AD_EXPORT (R633): Writes a version as a host record. -/
  | adExport (p : Poster)
  /-- AD_QUERY (R634): Writes a query record for a directory entry. -/
  | adQuery (p : Poster)
  /-- AD_MODE (R637): Switches between static-set and directory mode. -/
  | adMode (p : Poster)
  /-- RQ_ADMIT (R641): Admits a request, pinning the adapter's current version. -/
  | rqAdmit (p : Poster)
  /-- RQ_END (R650): Sets END on a request or ends a waiting admission. -/
  | rqEnd (p : Poster)
  /-- BASE_LOAD (R660): Loads a base model into the empty base slot. -/
  | baseLoad (p : Poster)
  /-- BASE_SWITCH (R662): Makes the incoming base current and the current previous. -/
  | baseSwitch (p : Poster)
  /-- BASE_RETIRE (R663): Retires a base slot and strands its adapters. -/
  | baseRetire (p : Poster)
  /-- RES_CREATE (R666): Creates a party's reservoir. -/
  | resCreate (p : Poster)
  /-- RES_APPEND (R670): Moves capture pages into the reservoir. -/
  | resAppend (p : Poster)
  /-- RES_TAKE (R672): Moves the oldest reservoir pages into the issuing context. -/
  | resTake (p : Poster)
  /-- RES_CLEAR (R628): Clears a party's reservoir. -/
  | resClear (p : Poster)
  /-- SERVICE_QUEUE_POLL (R626): Firmware reads service-queue tails and takes posted entries in order. -/
  | serviceQueuePoll (ctx : Nat)
  /-- BOUNDARY_POLL (R650): Firmware reads BOUNDARY words and ends requests that set END. -/
  | boundaryPoll
  /-- REVOKE_GRACE_EXPIRY (R652): REVOKE_GRACE_MS passes without END; read permission is removed from the adapter images. -/
  | revokeGraceExpiry (entry : Nat)
  /-- HI_CR_TAIL (R839): Doorbell write that posts command-ring entries, or sets RING_ERR when out of range. -/
  | hiCrTail (fn : Nat) (ring : BitVec 2) (value : U64)
  /-- RING_ENTRY_TAKE (R1012): Firmware takes and starts the next command-ring entry. -/
  | ringEntryTake (fn : Nat) (ring : BitVec 2)
  /-- SLOT_RESERVE (R846): Reserves a key slot, optionally installing a device-generated secret. -/
  | slotReserve (p : Poster)
  /-- SLOT_TEARDOWN (R805): Tears down the party of a key slot. -/
  | slotTeardown (p : Poster)
  /-- PART_CREATE (R845): Creates a partition of free basins with quotas. -/
  | partCreate (p : Poster)
  /-- PART_DESTROY (R845): Destroys an unused partition. -/
  | partDestroy (p : Poster)
  /-- FN_BIND (R837): Binds a function to a partition. -/
  | fnBind (p : Poster)
  /-- GRP_SET (R845): Configures a reduction group slot and epoch. -/
  | grpSet (p : Poster)
  /-- CTX_CREATE (R845): Creates a context with a key slot, cores and SEED. -/
  | ctxCreate (p : Poster)
  /-- CTX_LOAD (R847): Loads a code object and argument block into a context. -/
  | ctxLoad (p : Poster)
  /-- CTX_ADDSLOT (R845): Adds a key slot to a mixing context. -/
  | ctxAddslot (p : Poster)
  /-- CTX_END (R848): Ends a context, its threads, commands and requests, and scrubs its cores. -/
  | ctxEnd (p : Poster)
  /-- MIG_OFFER (R862): Destination writes a signed migration offer. -/
  | migOffer (p : Poster)
  /-- MIG_KEY (R862): Source verifies an offer and writes a capsule. -/
  | migKey (p : Poster)
  /-- MIG_DIRTY (R864): Starts or stops the dirty log. -/
  | migDirty (p : Poster)
  /-- MIG_FREEZE (R865): Freezes the function's rings, threads, engines and reduction groups. -/
  | migFreeze (p : Poster)
  /-- MIG_SAVE (R869): Writes migration stream records to a host buffer. -/
  | migSave (p : Poster)
  /-- MIG_THAW (R863): Undoes a freeze. -/
  | migThaw (p : Poster)
  /-- MIG_DISCARD (R863): Zeroizes the function's slots and ends its contexts. -/
  | migDiscard (p : Poster)
  /-- MIG_RESTORE (R870): Applies migration records on the destination. -/
  | migRestore (p : Poster)
  /-- MIG_START (R871): The restored function runs. -/
  | migStart (p : Poster)
  /-- HI_CR_CTRL (R841): Write that enables or disables a command ring, clearing RING_ERR, HEAD and TAIL. -/
  | hiCrCtrl (fn : Nat) (ring : BitVec 2) (value : U64)
  /-- HI_ER_CTRL (R851): Write that enables or disables an event ring and sets moderation. -/
  | hiErCtrl (fn : Nat) (ring : BitVec 2) (value : U64)
  /-- HI_ER_HEAD (R853): Host write of consumed records, releasing held records and a lost-count record. -/
  | hiErHead (fn : Nat) (ring : BitVec 2) (value : U64)
  /-- INTERRUPT_MOD_TIMER (R854): MOD_US passes since the first unsignalled record and the event ring's vector is raised. -/
  | interruptModTimer (fn : Nat) (ring : BitVec 2)
  /-- MSIX_UNMASK (R855): Unmasking a vector with its pending bit set raises the interrupt. -/
  | msixUnmask (fn : Nat) (vector : BitVec 5)
  /-- FUNCTION_LEVEL_RESET (R859): Resets a function's contexts, rings and function page, keeping binding and key slots. -/
  | functionLevelReset (fn : Nat)
  /-- CONFIG_REQUEST (R948): A PCIe configuration request, retried before 120 ms after PERST_N release. -/
  | configRequest (fn : Nat)
  /-- ATS_INVALIDATION (R856): The host invalidates translation-cache entries, completed once their accesses finish. -/
  | atsInvalidation (fn addr len : Nat)
  /-- PCIE_FATAL_ERROR (R858): A fatal PCIe error stops every function from taking ring entries. -/
  | pcieFatalError
  /-- KEY_RESERVE (R801): Records a PARTY_ID; the slot becomes RESERVED. -/
  | keyReserve (slot : Nat) (party : U128)
  /-- KEY_INSTALL (R801): Installs a secret at epoch 0; the slot becomes ACTIVE. -/
  | keyInstall (by_ : KeyIssuer) (slot : Nat) (secret : BitVec 256)
  /-- KEY_ROTATE (R802): Installs a new current secret and starts rekeying the slot's pages. -/
  | keyRotate (by_ : KeyIssuer) (slot : Nat) (secret : BitVec 256)
  /-- KEY_REVOKE (R805): Revokes a slot at one moment and starts teardown. -/
  | keyRevoke (by_ : KeyIssuer) (slot : Nat)
  /-- KEY_ZEROIZE (R801): Overwrites both secrets and their derived keys. -/
  | keyZeroize (by_ : KeyIssuer) (slot : Nat)
  /-- KEY_FREE (R801): Returns a zeroized, unmapped slot to FREE. -/
  | keyFree (by_ : KeyIssuer) (slot : Nat)
  /-- SET_BIND (R813): Binds a device set by unwrapping its set key. -/
  | setBind (by_ : KeyIssuer) (slot : Nat) (record : List Byte)
  /-- GET_VERSION (R820): SPDM request for supported versions. -/
  | getVersion (c : Conn) (version : Byte)
  /-- GET_CAPABILITIES (R820): SPDM request for capabilities. -/
  | getCapabilities (c : Conn) (version : Byte)
  /-- NEGOTIATE_ALGORITHMS (R820): SPDM algorithm negotiation. -/
  | negotiateAlgorithms (c : Conn) (version : Byte) (offer : AlgoOffer)
  /-- GET_DIGESTS (R820): SPDM request for certificate digests. -/
  | getDigests (c : Conn) (version : Byte)
  /-- GET_CERTIFICATE (R818): SPDM request for a certificate chain from slot 0 or 1. -/
  | getCertificate (c : Conn) (version : Byte) (slot off len : Nat)
  /-- CHALLENGE (R820): SPDM challenge answered with a signed response. -/
  | challenge (c : Conn) (version : Byte) (slot : Nat) (nonce : List Byte)
  /-- GET_MEASUREMENTS (R823): SPDM request for measurement blocks. -/
  | getMeasurements (c : Conn) (version : Byte) (index : Byte) (sign : Bool) (nonce : List Byte)
  /-- KEY_EXCHANGE (R825): Hybrid SPDM key exchange, requiring a prior ML-KEM key. -/
  | keyExchange (c : Conn) (version : Byte) (exchange : List Byte) (kemDigest : Option (List Byte))
  /-- FINISH (R820): Completes an SPDM secure session handshake. -/
  | finishMsg (c : Conn) (version : Byte) (session : Nat) (verify : List Byte)
  /-- HEARTBEAT (R820): SPDM session heartbeat. -/
  | heartbeat (c : Conn) (version : Byte) (session : Nat)
  /-- KEY_UPDATE (R820): SPDM session key update. -/
  | keyUpdate (c : Conn) (version : Byte) (session : Nat) (op : Byte)
  /-- END_SESSION (R820): Ends an SPDM secure session. -/
  | endSession (c : Conn) (version : Byte) (session : Nat)
  /-- CHUNK_SEND (R820): SPDM chunked request transfer. -/
  | chunkSend (c : Conn) (version : Byte) (handle seq : Nat) (last : Bool) (chunk : List Byte)
  /-- CHUNK_GET (R820): SPDM chunked response retrieval. -/
  | chunkGet (c : Conn) (version : Byte) (handle seq : Nat)
  /-- HK_PQSIG (R821): Returns the SLH-DSA signature over the last signed response. -/
  | hkPqsig (c : Conn)
  /-- HK_REPORT (R822): Returns a dual-signed Hokutik report. -/
  | hkReport (c : Conn) (nonce : List Byte) (mask : U32)
  /-- HK_KEMKEY (R818): Returns the ML-KEM key statement. -/
  | hkKemkey (c : Conn)
  /-- HK_KEMEK (R825): Delivers the requester's ML-KEM encapsulation key. -/
  | hkKemek (c : Conn) (key : List Byte)
  /-- HK_KEMCT (R825): Returns the ML-KEM ciphertext of a session. -/
  | hkKemct (c : Conn) (session : Nat)
  /-- HK_KEYOP (R821): Carries a party key command inside a secure session. -/
  | hkKeyop (c : Conn) (session : Option Nat) (party : U128) (op : Byte) (slot : Nat) (payload : List Byte)
  /-- GET_TDISP_VERSION (R826): TDISP version request. -/
  | getTdispVersion (fn : Nat)
  /-- GET_TDISP_CAPABILITIES (R826): TDISP capabilities request. -/
  | getTdispCapabilities (fn : Nat)
  /-- LOCK_INTERFACE (R826): Locks a VF's TDI configuration. -/
  | lockInterface (fn : Nat)
  /-- GET_DEVICE_INTERFACE_REPORT (R826): Returns the TDI interface report. -/
  | getDeviceInterfaceReport (fn : Nat)
  /-- GET_DEVICE_INTERFACE_STATE (R826): Returns the TDI state. -/
  | getDeviceInterfaceState (fn : Nat)
  /-- START_INTERFACE_REQUEST (R826): Moves a locked TDI to RUN. -/
  | startInterfaceRequest (fn : Nat)
  /-- STOP_INTERFACE_REQUEST (R826): Tears down the TDI partition's parties and unlocks the TDI. -/
  | stopInterfaceRequest (fn : Nat)
  /-- FLIT_RX (R877): A flit arrives and is checked, forwarded, assembled or dropped, returning credits. -/
  | flitRx (link : Nat) (flit : List Byte) (fec : FecOutcome)
  /-- STREAM_RECORD_RX (R895): A context-stream record is checked by a check-value unit and accepted into the receive buffer. -/
  | streamRecordRx (src vs : Nat)
  /-- RD_RECORD_RX (R746): A reduction record is accepted, held or dropped and added by the reduction engine. -/
  | rdRecordRx (src vs : Nat)
  /-- WEIR_NOTICE_RX (R923): A peer's weir notice is counted and reported. -/
  | weirNoticeRx (src : Nat)
  /-- REVOKE_RECORD_RX (R809): A revoke record revokes matching slots and is acknowledged. -/
  | revokeRecordRx (src : Nat)
  /-- REVOKE_ACK_RX (R810): A peer's acknowledgement of a revocation arrives. -/
  | revokeAckRx (src : Nat)
  /-- RD_TIMEOUT (R753): A needed reduction record is missing after RD_TIMEOUT_MS; the sum completes with REPEAT_STEP. -/
  | rdTimeout (group seq : Nat)
  /-- RD_CLOSE_TIMEOUT (R768): Not all close records arrive within RD_TIMEOUT_MS; the verdict is REPEAT. -/
  | rdCloseTimeout (group : Nat)
  /-- RE_GROUP_EPOCH (R743): Firmware writes a higher epoch, ending the group's open rd. commands with REPEAT_STEP. -/
  | reGroupEpoch (group : Nat) (value : U64)
  /-- LINK_ENABLE (R891): Setting or clearing a link's EN starts training or disables it. -/
  | linkEnable (link : Nat) (en : Bool)
  /-- LINK_TRAIN_DONE (R891): Equalisation and FEC lock complete; the link enters IDENT. -/
  | linkTrainDone (link : Nat)
  /-- LINK_TRAIN_RETRY (R891): Training does not finish in 50 ms and is retried after 1 s. -/
  | linkTrainRetry (link : Nat)
  /-- LINK_IDENT_DONE (R891): MODULE_IDs are exchanged and the link enters UP with an event record. -/
  | linkIdentDone (link : Nat) (peer : BitVec 12)
  /-- LINK_DOWN (R891): FEC lock is lost or 4 codewords fail; the link leaves UP for TRAIN. -/
  | linkDown (link : Nat)
  /-- STREAM_ENABLE (R894): Enabling a virtual stream resets its counters and credits. -/
  | streamEnable (vs : Nat) (value : U64)
  /-- VIN_SAMPLE (R915): The tollhouse samples VIN and raises the weir level on a trigger. -/
  | vinSample (vinDv : Nat) (droop : Bool) (railLow : Bool)
  /-- WEIR_FALL (R916): A trigger has been absent for 1 ms and the weir level falls one step. -/
  | weirFall
  /-- SAG_N_EDGE (R917): SAG_N changes, holding the weir level at least at SAG_LEVEL while low. -/
  | sagNEdge (high : Bool)
  /-- WEIR_LEVEL4_ENTRY (R919): Level 3 actions complete or 1 ms passes; HBM3E self-refreshes and compute dies are gated. -/
  | weirLevel4Entry
  /-- WEIR_LEVEL4_EXIT (R920): Level 4's trigger is absent for 1 ms and the device performs a warm reset. -/
  | weirLevel4Exit
  /-- UNIT_STOP (R924): A write of U0_EN or U1_EN to 0 puts a gateable unit into STOPPING. -/
  | unitStop (u : GateRef)
  /-- UNIT_ENABLE (R926): An enable starts a gated unit, or is held pending while it stops. -/
  | unitEnable (u : GateRef)
  /-- UNIT_GATED (R924): A STOPPING unit completes its command and gates to OFF. -/
  | unitGated (u : GateRef)
  /-- UNIT_STARTED (R924): A STARTING unit reaches ON. -/
  | unitStarted (u : GateRef)
  /-- CALIBRATION_PERIOD (R931): CAL_PERIOD_H expires and the lengthsman calibrates and re-plans margins. -/
  | calibrationPeriod (sample : CalSample)
  /-- CAL_NOW (R929): Write that starts a calibration. -/
  | calNow (sample : CalSample)
  /-- COPY (R933): Copies a stopped core's state to the spare and fences the old core. -/
  | copyCore (basin pslot : Nat)
  /-- DEAD (R933): Binds the logical slot to a scrubbed spare and fences the old core. -/
  | deadCore (basin pslot : Nat)
  /-- TEST (R933): Runs a core's built-in test. -/
  | testCore (basin pslot : Nat) (pass : Bool)
  /-- BS_CORE_CTRL (R536): Write of STOP_REQ that stops or resumes a core's engines. -/
  | bsCoreCtrl (basin slot : Nat) (value : U64)
  /-- BS_BASIN_CTRL (R540): Write of STOP_REQ that stops or resumes the basin's MVU and update unit. -/
  | bsBasinCtrl (basin : Nat) (value : U64)
  /-- GL_VCORE_CTRL (R69): Firmware write of the VCORE target, clamped and applied without a stop. -/
  | glVcoreCtrl (actor : Actor) (value : U64)
  /-- TOLLHOUSE_RAIL_UP (R942): The tollhouse rail rises, starting a cold start and identity derivation. -/
  | tollhouseRailUp (helperOk : Bool) (modId : BitVec 4)
  /-- INRUSH_DONE (R998): Input capacitance is charged and other rails may start. -/
  | inrushDone
  /-- PWR_EN_RISE (R945): PWR_EN rises and the main rails come up in order. -/
  | pwrEnRise
  /-- PWR_EN_FALL (R963): PWR_EN falls and the module enters standby. -/
  | pwrEnFall
  /-- PERST_N_FALL (R963): PERST_N falls, causing a module reset. -/
  | perstNFall
  /-- PERST_N_RISE (R948): PERST_N is released and link training starts. -/
  | perstNRise
  /-- REFCLK_CHANGE (R944): The reference clock appears or disappears and the tollhouse switches clock source. -/
  | refclkChange (present : Bool)
  /-- CURRENT_LIMIT_TRIP (R997): Input current above 92 A for 100 us puts the module into standby. -/
  | currentLimitTrip
  /-- THERMAL_SAMPLE (R975): The tollhouse reads junction sensors and trips at 115 or 105 degrees C. -/
  | thermalSample (dieC stackC : List Nat)
  /-- TELEMETRY_PERIOD (R971): Every 100 ms the telemetry averages update. -/
  | telemetryPeriod (powerW tjC vinDv : Nat)
  /-- BUNDLE_GO (R953): GO in TH_BOOT copies the bundle and starts verification. -/
  | bundleGo (value : U64)
  /-- STAGE_VERIFY_DONE (R828): Bundle verification ends, accepting it or returning to WAIT_BUNDLE. -/
  | stageVerifyDone
  /-- STAGE_CONFIG_DONE (R959): Configuration record, repair record and retirement log are applied. -/
  | stageConfigDone
  /-- STAGE_TRAIN_DONE (R952): Memory training, calibration and core tests end, or start-up fails. -/
  | stageTrainDone (result : TrainResult)
  /-- STAGE_INIT_DONE (R950): Every T1 and T2 codeword is zeroed and every core scrubbed. -/
  | stageInitDone
  /-- STAGE_RELEASE_DONE (R962): Compute dies are released and the module becomes READY. -/
  | stageReleaseDone
  /-- TELEMETRY (R971): Tollhouse operation that updates telemetry and sensors. -/
  | telemetry (src : ThSource) (powerW tjC vinDv : Nat)
  /-- REPORT (R971): Tollhouse operation that writes a report. -/
  | report (src : ThSource)
  /-- ZEROIZE_ALL (R971): Tollhouse operation that zeroizes and frees every key slot. -/
  | zeroizeAll (src : ThSource)
  /-- RESET_WARM (R965): Tollhouse operation that performs a warm reset. -/
  | resetWarm (src : ThSource)
  /-- RESET_MODULE (R963): Tollhouse operation that performs a module reset. -/
  | resetModule (src : ThSource)
  /-- POWER_OFF (R971): Tollhouse operation that zeroizes keys and enters standby. -/
  | powerOff (src : ThSource)
  /-- CFG_WRITE (R971): Tollhouse operation that checks and writes a configuration record. -/
  | cfgWrite (src : ThSource)
  /-- SET_ENDPOINT_ID (R976): MCTP control message that sets the endpoint ID. -/
  | setEndpointId (eid : Byte)
  /-- I3C_DYNAMIC_ADDRESS (R976): SETDASA or ENTDAA assigns the I3C dynamic address. -/
  | i3cDynamicAddress (method : I3cMethod) (addr : BitVec 7)
  /-- PLDM_SENSOR_READ (R977): PLDM request for a numeric or state sensor. -/
  | pldmSensorRead (sensor : SensorId)
  /-- PLATFORM_EVENT_MESSAGE (R978): A PLDM platform event is raised with ALERT_N and consumed by the bus owner. -/
  | platformEventMessage
  /-- REGISTER_WRITE (R14): A write to a register with no behaviour of its own acts by its fields' access codes. -/
  | registerWrite (actor : Actor) (off size : Nat) (value : U64)
  /-- COMMAND_COMPLETE (R199): A queued engine command finishes running: its writes become visible, its status is recorded, its queue place frees and its SIGNAL wake is delivered. -/
  | commandComplete (q : QueueRef)
  /-- TOLLHOUSE_RAIL_DOWN (R941): VIN falls to 32 V or below and the tollhouse rail is lost, leaving the module unpowered with its timebase and tollhouse state gone. -/
  | tollhouseRailDown
  /-- IDE_KM (R832): An IDE_KM message inside an SPDM secure session on the physical function's DOE programs or activates the keys of a selective IDE stream. -/
  | ideKm (session : Option Nat) (stream : Nat) (op : IdeOp)
  /-- LINK_RETURN_TIMEOUT (R886): A link toward a context stream's PEER has stayed out of UP for 1 s, and firmware clears the stream's EN, ending waiting transfers with PERM_FAULT. -/
  | linkReturnTimeout (vs : Nat)
  /-- TEARDOWN_ACK_TIMEOUT (R810): A peer has not acknowledged a revocation within the drain-barrier limit of teardown step 3, and firmware removes it from every shared reduction group by a new epoch. -/
  | teardownAckTimeout (slot peer : Nat)  deriving DecidableEq, Repr

end Sys2Proof
end

