-- ==== Sys2Proof/Decode.lean ====
section
/-! DEFINITION. The word form of the commands: the opcode table gives no row any bits. Beside it, the words of the Nonov
instruction set (R105–R121, R132, R135, R139, R141, R148, R200, R1017), read as the rows that a thread's instructions are. -/

namespace Sys2Proof

/-- The command that a word spells by the table's bits. No row has bits, so no word spells one. -/
def decodeTableWord (_nbits _w : Nat) : Option Instr := none

/-! ### Fields of an instruction word (R105) -/

def wordOp (w : Nat) : Nat := bitsOf w 26 6
def wordD (w : Nat) : Nat := bitsOf w 21 5
def wordA (w : Nat) : Nat := bitsOf w 16 5
def wordB (w : Nat) : Nat := bitsOf w 11 5
def wordF (w : Nat) : Nat := bitsOf w 0 11
def wordI (w : Nat) : Nat := bitsOf w 0 16

def reg (n : Nat) : Reg := BitVec.ofNat 5 n
def pred (n : Nat) : Pred := BitVec.ofNat 3 n

/-- A word of the 64-bit forms: its second word follows it (R106). -/
def wordIsLong (w : Nat) : Bool := 0x38 ≤ wordOp w

/-- The instruction when a word's reserved fields are 0, else the trap of R109. -/
def ifClear (th : Nat) (ok : Bool) (i : Instr) : Option Instr := some (if ok then i else .illegalOp th)

/-! ### The groups -/

/-- Major opcode 0x01 (R110). -/
def decodeInt (th w : Nat) : Option Instr :=
  let d := reg (wordD w)
  let a := reg (wordA w)
  let b := reg (wordB w)
  let two := fun (i : Instr) => ifClear th (bitsOf w 6 5 == 0) i
  let one := fun (i : Instr) => ifClear th (bitsOf w 6 5 == 0 && wordB w == 0) i
  match bitsOf w 0 6 with
  | 0x00 => two (.add th d a b)
  | 0x01 => two (.sub th d a b)
  | 0x02 => two (.mul th d a b)
  | 0x03 => two (.mulh th d a b)
  | 0x04 => two (.mulhu th d a b)
  | 0x05 => two (.div th d a b)
  | 0x06 => two (.divu th d a b)
  | 0x07 => two (.rem th d a b)
  | 0x08 => two (.remu th d a b)
  | 0x09 => two (.andd th d a b)
  | 0x0A => two (.orr th d a b)
  | 0x0B => two (.xor th d a b)
  | 0x0C => two (.andn th d a b)
  | 0x0D => two (.sll th d a b)
  | 0x0E => two (.srl th d a b)
  | 0x0F => two (.sra th d a b)
  | 0x10 => two (.minS th d a b)
  | 0x11 => two (.maxS th d a b)
  | 0x12 => two (.minu th d a b)
  | 0x13 => two (.maxu th d a b)
  | 0x14 => one (.clz th d a)
  | 0x15 => one (.ctz th d a)
  | 0x16 => one (.popc th d a)
  | 0x17 => one (.sextB th d a)
  | 0x18 => one (.sextH th d a)
  | 0x19 => one (.sextW th d a)
  | 0x1A => one (.zextW th d a)
  | _ => some (.illegalOp th)

/-- `shi` (R112). -/
def decodeShi (th w : Nat) : Option Instr :=
  let d := reg (wordD w)
  let a := reg (wordA w)
  let n := BitVec.ofNat 6 w
  let clear := bitsOf w 6 3 == 0 && wordB w == 0
  match bitsOf w 9 2 with
  | 0 => ifClear th clear (.shiLeft th d a n)
  | 1 => ifClear th clear (.shiLogicalRight th d a n)
  | 2 => ifClear th clear (.shiArithRight th d a n)
  | _ => some (.illegalOp th)

/-- How a compare combines (R113). -/
def decodeCombine : Nat → Option Combine
  | 0 => some .set
  | 1 => some .and
  | 2 => some .or
  | _ => none

/-- The condition field (R115). -/
def decodeCond : Nat → Option Cond
  | 0 => some .eq
  | 1 => some .ne
  | 2 => some .lt
  | 3 => some .ge
  | 4 => some .ltu
  | 5 => some .geu
  | 6 => some .tst
  | 7 => some .ntst
  | _ => none

/-- `cmp` and `cmpi` (R113, R114). -/
def decodeCmp (th w : Nat) (imm : Bool) : Option Instr :=
  match decodeCombine (bitsOf w 24 2), decodeCond (if imm then wordB w else bitsOf w 6 5) with
  | some k, some c =>
    if imm then some (.cmpi th k (pred (wordD w)) c (reg (wordA w)) (BitVec.ofNat 11 w))
    else ifClear th (bitsOf w 0 6 == 0) (.cmp th k (pred (wordD w)) c (reg (wordA w)) (reg (wordB w)))
  | _, _ => some (.illegalOp th)

/-- `pop` (R116). -/
def decodePop (th w : Nat) : Option Instr :=
  let d := pred (wordD w)
  let a := pred (wordA w)
  let b := pred (wordB w)
  ifClear th (bitsOf w 24 2 == 0 && bitsOf w 19 2 == 0 && bitsOf w 14 2 == 0 && bitsOf w 3 8 == 0)
    (match bitsOf w 0 3 with
    | 0 => .pand th d a b
    | 1 => .por th d a b
    | 2 => .pxor th d a b
    | 3 => .pandn th d a b
    | 4 => .pnot th d a b
    | 5 => .pmov th d a b
    | 6 => .pset th d a b
    | _ => .pclr th d a b)

/-- `amo` (R132). -/
def decodeAmo (th w : Nat) : Option Instr :=
  let d := reg (wordD w)
  let a := reg (wordA w)
  let b := reg (wordB w)
  let wide := bitOf w 5
  let op := fun (i : Instr) => ifClear th (bitsOf w 0 5 == 0) i
  match bitsOf w 6 5 with
  | 0 => op (.amoAdd th d a b wide)
  | 1 => op (.amoAnd th d a b wide)
  | 2 => op (.amoOr th d a b wide)
  | 3 => op (.amoXor th d a b wide)
  | 4 => op (.amoMin th d a b wide)
  | 5 => op (.amoMax th d a b wide)
  | 6 => op (.amoMinu th d a b wide)
  | 7 => op (.amoMaxu th d a b wide)
  | 8 => op (.amoSwap th d a b wide)
  | 9 => op (.amoCas th d a b wide)
  | _ => some (.illegalOp th)

/-- The `th` group (R135). -/
def decodeTh (th w : Nat) : Option Instr :=
  let d0 := wordD w == 0
  let a0 := wordA w == 0
  let b0 := wordB w == 0
  match wordF w with
  | 0 => ifClear th (d0 && a0 && b0) (.thPark th)
  | 1 => ifClear th (d0 && b0) (.thWake th (reg (wordA w)))
  | 2 => some (.thStart th (reg (wordD w)) (reg (wordA w)) (reg (wordB w)))
  | 3 => ifClear th (d0 && a0 && b0) (.thExit th)
  | 4 => ifClear th (d0 && a0 && b0) (.thYield th)
  | 5 => ifClear th (d0 && a0 && b0) (.thBrk th)
  | 6 => ifClear th (d0 && b0) (.thParkt th (reg (wordA w)))
  | _ => some (.illegalOp th)

/-- `rdst` (R139). -/
def decodeRdst (th w : Nat) : Option Instr :=
  let read := fun (x : RdstSel) => ifClear th (wordA w == 0 && wordB w == 0) (.rdst th (reg (wordD w)) x)
  match wordF w with
  | 0 => read .context
  | 1 => read .thread
  | 2 => read .threadLocal
  | 3 => read .core
  | 4 => read .coreInContext
  | 5 => read .partition
  | 6 => read .tick
  | 7 => read .pc
  | _ => some (.illegalOp th)

/-- `sy` (R200, R1017). -/
def decodeSy (th w : Nat) : Option Instr :=
  let fence := fun (x : FenceScope) => ifClear th (wordD w == 0 && wordA w == 0) (.syFence th x)
  match wordF w with
  | 0 => ifClear th (wordB w == 0) (.syWait th (reg (wordD w)) (reg (wordA w)))
  | 1 =>
    match wordB w with
    | 1 => fence .core
    | 2 => fence .basin
    | 3 => fence .part
    | 4 => fence .dev
    | 5 => fence .st
    | _ => some (.illegalOp th)
  | _ => some (.illegalOp th)

/-- `sys` (R147, R148). Outside the system class every `sys` word traps with PRIV_OP, whatever its fields hold, as the
row taken for it does. -/
def decodeSys (th w : Nat) : Option Instr :=
  let d := reg (wordD w)
  let a := reg (wordA w)
  let b := reg (wordB w)
  if th < 65536 then some (.sysTstop th d a)
  else
    match wordF w with
    | 0 => ifClear th (wordB w == 0) (.sysTstop th d a)
    | 1 => some (.sysTsave th d a b)
    | 2 => some (.sysTrest th d a b)
    | 3 => ifClear th (wordB w == 0) (.sysTgo th d a)
    | 4 => ifClear th (wordB w == 0) (.sysTfree th d a)
    | 5 => some (.sysCtxbind th d a b)
    | 6 => some (.sysPtroot th d a b)
    | 7 => some (.sysTlbinv th d a b)
    | 8 => ifClear th (wordB w == 0) (.sysScrub th d a)
    | _ => some (.illegalOp th)

/-- The vector engine's codes (R358). -/
def decodeVx (code th : Nat) (d a : Reg) (p : Pred) : Option Instr :=
  match code with
  | 0x01 => some (.vxRun th d a ⟨p, 1⟩)
  | 0x02 => some (.vxSum th d a p)
  | 0x03 => some (.vxStep th d a p)
  | 0x04 => some (.vxTload th d a p)
  | 0x05 => some (.vxComb th d a p)
  | 0x41 => some (.vxMov th d a p)
  | 0x42 => some (.vxAdd th d a p)
  | 0x43 => some (.vxSub th d a p)
  | 0x44 => some (.vxMul th d a p)
  | 0x45 => some (.vxFma th d a p)
  | 0x46 => some (.vxDiv th d a p)
  | 0x47 => some (.vxRecip th d a p)
  | 0x48 => some (.vxSqrt th d a p)
  | 0x49 => some (.vxRsqrt th d a p)
  | 0x4A => some (.vxExp th d a p)
  | 0x4B => some (.vxExp2 th d a p)
  | 0x4C => some (.vxLog th d a p)
  | 0x4D => some (.vxLog2 th d a p)
  | 0x4E => some (.vxMin th d a p)
  | 0x4F => some (.vxMax th d a p)
  | 0x50 => some (.vxAbs th d a p)
  | 0x51 => some (.vxNeg th d a p)
  | 0x52 => some (.vxClamp th d a p)
  | 0x58 => some (.vxCvt th d a p)
  | 0x59 => some (.vxLut th d a p)
  | 0x5A => some (.vxShuf th d a p)
  | 0x5B => some (.vxRsum th d a p)
  | 0x5C => some (.vxRmax th d a p)
  | 0x5D => some (.vxRmin th d a p)
  | _ => some (.vxRun th d a ⟨p, BitVec.ofNat 8 code⟩)

/-- `eng` (R141, R143, R284, R358, R558 and the code tables of the other units). A reserved unit code traps; a reserved
command code of a unit is read as the unit's first row with that code, which enters and completes with INTERNAL (assumption
83). A unit that is not valid on the issuing core is
its row's own check (R144). -/
def decodeEng (th w : Nat) : Option Instr :=
  let d := reg (wordD w)
  let a := reg (wordA w)
  let p := pred (bitsOf w 8 3)
  let code := bitsOf w 0 8
  match wordB w with
  | 0x01 =>
    match code with
    | 1 => some (.mxFwd th d a ⟨p, 1⟩)
    | 2 => some (.mxRev th d a p)
    | 3 => some (.mxFwd3 th d a p)
    | 4 => some (.mxRev3 th d a p)
    | 5 => some (.mxDrain th d a p)
    | _ => some (.mxFwd th d a ⟨p, BitVec.ofNat 8 code⟩)
  | 0x02 =>
    match code with
    | 1 => some (.cxDown th d a ⟨p, 1⟩)
    | 2 => some (.cxBack th d a p)
    | 3 => some (.cxGrad th d a p)
    | _ => some (.cxDown th d a ⟨p, BitVec.ofNat 8 code⟩)
  | 0x03 =>
    match code with
    | 1 => some (.mvFwd th d a ⟨p, 1⟩)
    | 2 => some (.mvRev th d a p)
    | 3 => some (.mvFwd3 th d a p)
    | _ => some (.mvFwd th d a ⟨p, BitVec.ofNat 8 code⟩)
  | 0x04 => decodeVx code th d a p
  | 0x05 =>
    match code with
    | 1 => some (.twArm th d a ⟨p, 1⟩)
    | 2 => some (.twFlip th d a p)
    | 3 => some (.twPair th d a p)
    | _ => some (.twArm th d a ⟨p, BitVec.ofNat 8 code⟩)
  | 0x06 =>
    match code with
    | 0x10 => some (.atRun th d a ⟨p, 0x10⟩)
    | 0x11 => some (.atBack th d a p)
    | 0x12 => some (.atMerge th d a p)
    | _ => some (.atRun th d a ⟨p, BitVec.ofNat 8 code⟩)
  | 0x07 =>
    match code with
    | 1 => some (.upTake th d a ⟨p, 1⟩)
    | 2 => some (.upNorm th d a p)
    | 3 => some (.upApply th d a p)
    | 4 => some (.upDigest th d a p)
    | _ => some (.upTake th d a ⟨p, BitVec.ofNat 8 code⟩)
  | 0x08 =>
    match code with
    | 1 => some (.rdSum th d a ⟨p, 1⟩)
    | 2 => some (.rdClose th d a p)
    | 3 => some (.rdHash th d a p)
    | _ => some (.rdSum th d a ⟨p, BitVec.ofNat 8 code⟩)
  | 0x09 =>
    match code with
    | 1 => some (.tmMove th d a ⟨p, 1⟩)
    | 2 => some (.tmLayer th d a p)
    | 3 => some (.tmHome th d a p)
    | _ => some (.tmMove th d a ⟨p, BitVec.ofNat 8 code⟩)
  | 0x0A => some (.ckRun th d a ⟨p, BitVec.ofNat 8 code⟩)
  | _ => some (.illegalOp th)

/-! ### Words -/

/-- The row of the table that thread `th` executes at a word `w`, with second word `w2` for the 64-bit forms (R108); none
for an engine command of a reserved code. -/
def decodeNonov (th w w2 : Nat) : Option Instr :=
  let d := reg (wordD w)
  let a := reg (wordA w)
  let b := reg (wordB w)
  let i := BitVec.ofNat 16 w
  let f := BitVec.ofNat 11 w
  let size := BitVec.ofNat 2 (wordB w)
  let sx := bitOf (wordB w) 2
  let load := bitsOf (wordB w) 3 2 == 0
  let store := bitsOf (wordB w) 2 3 == 0
  match wordOp w with
  | 0x01 => decodeInt th w
  | 0x02 => some (.addi th d a i)
  | 0x03 => some (.andi th d a i)
  | 0x04 => some (.ori th d a i)
  | 0x05 => some (.xori th d a i)
  | 0x06 => decodeShi th w
  | 0x07 => some (.lui th d i)
  | 0x08 => decodeCmp th w false
  | 0x09 => decodeCmp th w true
  | 0x0A => decodePop th w
  | 0x0B => ifClear th (bitsOf w 3 8 == 0) (.sel th d a b (pred w))
  | 0x0C => ifClear th (!bitOf w 24 && wordA w == 0) (.branch th (bitOf w 25) (pred (wordD w)) i)
  | 0x0D => ifClear th (wordD w == 0 && wordA w == 0) (.jump th i)
  | 0x0E => ifClear th (wordD w == 0 && wordA w == 0) (.call th i)
  | 0x0F => ifClear th (wordD w == 0 && wordB w == 0 && wordF w ≤ 1) (.jr th a (wordF w == 1))
  | 0x10 => ifClear th load (.ldt th d a size sx f)
  | 0x11 => ifClear th store (.stt th d a size f)
  | 0x12 => ifClear th load (.ldv th d a size sx f)
  | 0x13 => ifClear th store (.stv th d a size f)
  | 0x14 => decodeAmo th w
  | 0x18 => decodeTh th w
  | 0x19 => decodeRdst th w
  | 0x1C => decodeEng th w
  | 0x1D => decodeSy th w
  | 0x20 => decodeSys th w
  | 0x38 => some (.li th d (BitVec.ofNat 48 (wordI w * 2 ^ 32 + w2 % 2 ^ 32)))
  | 0x39 => some (.lih th d (BitVec.ofNat 32 w2))
  | 0x3A => ifClear th (bitsOf w 21 4 == 0 && wordA w == 0 && wordI w == 0) (.jl th (bitOf w 25) (BitVec.ofNat 32 w2))
  | 0x3B => some (.addil th d a (BitVec.ofNat 32 w2))
  | _ => some (.illegalOp th)

end Sys2Proof
end

