-- ==== Sys2Proof/Config.lean ====
section
/-! DEFINITION. What the manual leaves open, as constants with no body: a proof can see none of their values. -/

namespace Sys2Proof.Config

/-- The n-th free value of a run. Wherever the manual calls a value unpredictable (R19) or an order open, the meaning
takes the next of these and reduces it to a member of the set the manual names (assumption 2). -/
opaque freeNat : Nat → Nat

/-- Transfers that wait to issue which a towpath queue can hold beside the first (R441 names an emission that the queue cannot
accept and gives no size). -/
opaque emitRoom : Nat

/-- AES-256-GCM encryption (R799, R814, R868): key, IV, additional data, plaintext to ciphertext with its 16-byte tag.
The manual names the standard and gives no function (assumption 3). -/
opaque gcmSeal : List Byte → List Byte → List Byte → List Byte → List Byte
/-- AES-256-GCM decryption: key, IV, additional data, ciphertext with tag; none when the tag is wrong (assumption 3). -/
opaque gcmOpen : List Byte → List Byte → List Byte → List Byte → Option (List Byte)
/-- RSASSA-PSS with SHA-384 verifies: public key, message, signature (assumption 3). -/
opaque rsaVerify : List Byte → List Byte → List Byte → Bool
/-- SLH-DSA-SHA2-192s verifies: public key, message, signature (assumption 3). -/
opaque slhVerify : List Byte → List Byte → List Byte → Bool
/-- The device's RSA-3072 identity signature over a message (R817, R822), 384 bytes when it exists. -/
opaque rsaSign : BitVec 256 → List Byte → List Byte
/-- The device's SLH-DSA identity signature over a message. -/
opaque slhSign : BitVec 256 → List Byte → List Byte
/-- The RSA identity modulus derived from the device secret (R817). -/
opaque idRsa : BitVec 256 → List Byte
/-- The SLH-DSA identity public key derived from the device secret (R817). -/
opaque idSlh : BitVec 256 → List Byte
/-- The ML-KEM-1024 identity encapsulation key derived from the device secret (R818). -/
opaque idKem : BitVec 256 → List Byte
/-- ML-KEM-1024 decapsulation with the key pair made from a seed: ciphertext to shared secret (R813). -/
opaque kemDecaps : BitVec 256 → List Byte → List Byte
/-- ML-KEM-1024 encapsulation with a randomness index: ciphertext and shared secret (R825). -/
opaque kemEncaps : List Byte → Nat → List Byte × List Byte
/-- A fresh ML-KEM-1024 encapsulation key made from a seed (R862). -/
opaque kemKeygen : BitVec 256 → List Byte
/-- AES key unwrap (RFC 3394, R813): key-encryption key and wrapped key; none when the check fails. -/
opaque keyUnwrap : List Byte → List Byte → Option (List Byte)
/-- The P-384 exchange of KEY_EXCHANGE (R820, R825): requester data and randomness index to responder data and shared
secret; none when the data is malformed. -/
opaque dhe : List Byte → Nat → Option (List Byte × List Byte)
/-- What FINISH must carry for a session whose handshake secret and transcript index are given (SPDM 1.3 key schedule). -/
opaque finishVerify : List Byte → Nat → List Byte
/-- The device secret the SRAM PUF yields (Identity). -/
opaque deviceSecret : BitVec 256
/-- The n-th 256-bit output of the tollhouse DRBG (R801 KEY_INSTALL with SOURCE = DEVICE). -/
opaque drbg : Nat → BitVec 256
/-- The Hokutik root keys in the boot ROM (R827): RSA modulus and exponent, and SLH-DSA key. -/
opaque rootRsa : List Byte
opaque rootSlh : List Byte
/-- The boot ROM's SHA-384, measurement index 1 (R823). -/
opaque romDigest : List Byte
/-- The certificate chains of R818, slot 0 (RSA) and slot 1 (SLH-DSA), as module flash holds them. -/
opaque certChain : Nat → List Byte
/-- A measurement is one that firmware holds attested for a mixing program (R49; the manual gives neither where the attested
measurement stands nor how it arrives). -/
opaque attested : List Byte → Bool
/-- The two certificate chains of R818 at the front of some bytes; none where there are not two (R862: the manual gives
neither their lengths nor their bytes). -/
opaque splitChains : List Byte → Option (List Byte × List Byte)
/-- The device's RSA modulus and SLH-DSA public key that two chains certify; none where a chain does not verify to the root
keys of the boot ROM (R862). -/
opaque chainKeys : List Byte → List Byte → Option (List Byte × List Byte)
/-- The HMAC-SHA-384 of a retirement-log entry's bytes under the key derived from the device secret (R938). -/
opaque logMac : BitVec 256 → List Byte → List Byte
/-- The symbol table (at most 16 entries of (delta or escape, code length)) the device's encoder chooses for a block
(R504 fixes that it is one function of the block and its format, and not which). -/
opaque codecTable : Nat → List Byte → List (Option Int × Nat)

/-- Array wavefronts of one key block of `at.back` in expanded mode (R592 gives none): heads, latent, rotary, key and value
elements, and rows with a visible position. -/
opaque backWaves : Nat → Nat → Nat → Nat → Nat → Nat → Nat

/-- Whether a group's step is a digest step as R781 counts it: the engine is told neither STEP_COUNT nor how it learns it
(assumption 34). Group slot, group step. -/
opaque digestStep : Nat → Nat → Bool

end Sys2Proof.Config
end

