-- ==== Sys2Proof/Machine/Hash.lean ====
section
/-! DEFINITION. The check values and digests the manual names: CRC-32C and CRC-64/NVME (R892), SHA3-256 (R733, R789),
SHA-384, HMAC and HKDF (R795, R813, R817, R823). Their constants are those of the standards the manual names (PRESUMED,
assumption 20). -/

namespace Sys2Proof.Machine

/-! ### Reflected CRCs (R892) -/

/-- One bit of a reflected CRC with the reflected polynomial. -/
def crcBit (poly c : Nat) : Nat := if c % 2 = 1 then (c / 2) ^^^ poly else c / 2
def crcByte (poly c : Nat) (b : Byte) : Nat :=
  let c := c ^^^ b.toNat
  crcBit poly (crcBit poly (crcBit poly (crcBit poly (crcBit poly (crcBit poly (crcBit poly (crcBit poly c)))))))
/-- CRC-32C: polynomial 0x1EDC6F41. -/
def crc32c (bs : List Byte) : Nat := bs.foldl (crcByte 0x82F63B78) 0xFFFFFFFF ^^^ 0xFFFFFFFF
/-- CRC-64/NVME: polynomial 0xAD93D23594C93659. -/
def crc64nvme (bs : List Byte) : Nat := bs.foldl (crcByte 0x9A6C9329AC4BC9B5) 0xFFFFFFFFFFFFFFFF ^^^ 0xFFFFFFFFFFFFFFFF

/-! ### SHA3-256 -/

/-- The register that generates the round constants: multiplication by x modulo x^8 + x^6 + x^5 + x^4 + 1. -/
def spongeLfsr (r : Nat) : Nat := if r < 128 then 2 * r else (2 * r) ^^^ 0x171

/-- One round's constant, and the register after it: its seven output bits stand at the positions 2^j − 1. -/
def spongeConst (r : Nat) : U64 × Nat :=
  (List.range 7).foldl (fun x j =>
    (if x.2 % 2 = 1 then x.1 ||| BitVec.ofNat 64 (2 ^ (2 ^ j - 1)) else x.1, spongeLfsr x.2)) (0, r)

/-- The lanes other than (0, 0) in the order of the offsets' walk, as index x + 5y with the rotation of each. -/
def spongeWalk : Nat → Nat → Nat → List (Nat × Nat)
  | 0, _, _ => []
  | n + 1, x, y => (x + 5 * y, (24 - n) * (25 - n) / 2 % 64) :: spongeWalk n y ((2 * x + 3 * y) % 5)

/-- The parity of column x. -/
def spongeColumn (a : List U64) (x : Nat) : U64 := (List.range 5).foldl (fun p y => p ^^^ a.getD (x % 5 + 5 * y) 0) 0

/-- The columns mixed into every lane. -/
def spongeMix (a : List U64) : List U64 :=
  a.zipIdx.map fun e => e.1 ^^^ spongeColumn a (e.2 + 4) ^^^ (spongeColumn a (e.2 + 1)).rotateLeft 1

/-- Each lane is rotated, and lane (x, y) moves to (y, 2x + 3y). -/
def spongeMove (a : List U64) : List U64 :=
  (spongeWalk 24 1 0).foldl (fun b e =>
    b.set (e.1 / 5 + 5 * ((2 * (e.1 % 5) + 3 * (e.1 / 5)) % 5)) ((a.getD e.1 0).rotateLeft e.2)) a

/-- Each row's lanes combine with the two beside them. -/
def spongeRows (a : List U64) : List U64 :=
  a.zipIdx.map fun e =>
    let beside := fun k => a.getD (5 * (e.2 / 5) + (e.2 + k) % 5) 0
    e.1 ^^^ (beside 2 &&& ~~~beside 1)

/-- Rounds of the permutation, with the register of the next constant. -/
def spongeRounds : Nat → Nat → List U64 → List U64
  | 0, _, a => a
  | n + 1, r, a =>
    let c := spongeConst r
    spongeRounds n c.2 ((spongeRows (spongeMove (spongeMix a))).modify 0 (· ^^^ c.1))

/-- Blocks of 136 bytes, 17 lanes each, enter the state. -/
def spongeTake : Nat → List U64 → List Byte → List U64
  | 0, a, _ => a
  | n + 1, a, bs =>
    let block := a.zipIdx.map fun e => e.1 ^^^ BitVec.ofNat 64 (leNat (((bs.take 136).drop (8 * e.2)).take 8))
    spongeTake n (spongeRounds 24 1 block) (bs.drop 136)

/-- A sponge's lanes, and the bytes that do not fill a block yet. -/
abbrev Sponge := List U64 × List Byte

def Sponge.empty : Sponge := (List.replicate 25 0, [])

/-- Bytes enter a sponge. -/
def Sponge.add (x : Sponge) (bs : List Byte) : Sponge :=
  let m := x.2 ++ bs
  (spongeTake (m.length / 136) x.1 m, m.drop (m.length / 136 * 136))

/-- The SHA3-256 digest: the suffix 01 and the padding 10*1 fill the last block. -/
def Sponge.digest (x : Sponge) : List Byte :=
  let last := (x.2 ++ 0x06#8 :: zeros (135 - x.2.length)).modify 135 (· ||| 0x80#8)
  ((spongeTake 1 x.1 last).flatMap fun w => leBytes 8 w.toNat).take 32

/-- A sponge as numbers, and back. -/
def Sponge.words (x : Sponge) : List Nat := x.1.map (·.toNat) ++ x.2.map (·.toNat)
def spongeOf (ws : List Nat) : Sponge := ((ws.take 25).map (BitVec.ofNat 64), (ws.drop 25).map (BitVec.ofNat 8))

/-- SHA3-256. -/
def sha3 (bs : List Byte) : List Byte := (Sponge.empty.add bs).digest

/-! ### SHA-384 -/

def sha384Iv : List U64 :=
  [0xCBBB9D5DC1059ED8, 0x629A292A367CD507, 0x9159015A3070DD17, 0x152FECD8F70E5939,
   0x67332667FFC00B31, 0x8EB44A8768581511, 0xDB0C2E0D64F98FA7, 0x47B5481DBEFA4FA4]
def sha512K0 : List U64 :=
  [0x428A2F98D728AE22, 0x7137449123EF65CD, 0xB5C0FBCFEC4D3B2F, 0xE9B5DBA58189DBBC,
   0x3956C25BF348B538, 0x59F111F1B605D019, 0x923F82A4AF194F9B, 0xAB1C5ED5DA6D8118,
   0xD807AA98A3030242, 0x12835B0145706FBE, 0x243185BE4EE4B28C, 0x550C7DC3D5FFB4E2,
   0x72BE5D74F27B896F, 0x80DEB1FE3B1696B1, 0x9BDC06A725C71235, 0xC19BF174CF692694,
   0xE49B69C19EF14AD2, 0xEFBE4786384F25E3, 0x0FC19DC68B8CD5B5, 0x240CA1CC77AC9C65]
def sha512K1 : List U64 :=
  [0x2DE92C6F592B0275, 0x4A7484AA6EA6E483, 0x5CB0A9DCBD41FBD4, 0x76F988DA831153B5,
   0x983E5152EE66DFAB, 0xA831C66D2DB43210, 0xB00327C898FB213F, 0xBF597FC7BEEF0EE4,
   0xC6E00BF33DA88FC2, 0xD5A79147930AA725, 0x06CA6351E003826F, 0x142929670A0E6E70,
   0x27B70A8546D22FFC, 0x2E1B21385C26C926, 0x4D2C6DFC5AC42AED, 0x53380D139D95B3DF,
   0x650A73548BAF63DE, 0x766A0ABB3C77B2A8, 0x81C2C92E47EDAEE6, 0x92722C851482353B]
def sha512K2 : List U64 :=
  [0xA2BFE8A14CF10364, 0xA81A664BBC423001, 0xC24B8B70D0F89791, 0xC76C51A30654BE30,
   0xD192E819D6EF5218, 0xD69906245565A910, 0xF40E35855771202A, 0x106AA07032BBD1B8,
   0x19A4C116B8D2D0C8, 0x1E376C085141AB53, 0x2748774CDF8EEB99, 0x34B0BCB5E19B48A8,
   0x391C0CB3C5C95A63, 0x4ED8AA4AE3418ACB, 0x5B9CCA4F7763E373, 0x682E6FF3D6B2B8A3,
   0x748F82EE5DEFB2FC, 0x78A5636F43172F60, 0x84C87814A1F0AB72, 0x8CC702081A6439EC]
def sha512K3 : List U64 :=
  [0x90BEFFFA23631E28, 0xA4506CEBDE82BDE9, 0xBEF9A3F7B2C67915, 0xC67178F2E372532B,
   0xCA273ECEEA26619C, 0xD186B8C721C0C207, 0xEADA7DD6CDE0EB1E, 0xF57D4F7FEE6ED178,
   0x06F067AA72176FBA, 0x0A637DC5A2C898A6, 0x113F9804BEF90DAE, 0x1B710B35131C471B,
   0x28DB77F523047D84, 0x32CAAB7B40C72493, 0x3C9EBE0A15C9BEBC, 0x431D67C49C100D4C,
   0x4CC5D4BECB3E42B6, 0x597F299CFC657E2A, 0x5FCB6FAB3AD6FAEC, 0x6C44198C4A475817]
def sha512K : List U64 := sha512K0 ++ sha512K1 ++ sha512K2 ++ sha512K3

def rotr (x : U64) (n : Nat) : U64 := x.rotateRight n

/-- The message schedule, newest word first. -/
def shaSchedule : Nat → List U64 → List U64
  | 0, w => w
  | n + 1, w =>
    let w2 := w.getD 1 0
    let w15 := w.getD 14 0
    let s1 := rotr w2 19 ^^^ rotr w2 61 ^^^ (w2 >>> 6)
    let s0 := rotr w15 1 ^^^ rotr w15 8 ^^^ (w15 >>> 7)
    shaSchedule n ((s1 + w.getD 6 0 + s0 + w.getD 15 0) :: w)

def shaStep (h : List U64) (kw : U64 × U64) : List U64 :=
  let a := h.getD 0 0; let b := h.getD 1 0; let c := h.getD 2 0; let e := h.getD 4 0; let f := h.getD 5 0; let g := h.getD 6 0
  let t1 := h.getD 7 0 + (rotr e 14 ^^^ rotr e 18 ^^^ rotr e 41) + ((e &&& f) ^^^ (~~~e &&& g)) + kw.1 + kw.2
  let t2 := (rotr a 28 ^^^ rotr a 34 ^^^ rotr a 39) + ((a &&& b) ^^^ (a &&& c) ^^^ (b &&& c))
  [t1 + t2, a, b, c, h.getD 3 0 + t1, e, f, g]

/-- Absorb blocks of 128 bytes. -/
def shaBlocks : Nat → List U64 → List Byte → List U64
  | 0, h, _ => h
  | n + 1, h, bs =>
    let w := (List.range 16).map fun i => BitVec.ofNat 64 (beNat ((bs.drop (8 * i)).take 8))
    let ws := (shaSchedule 64 w.reverse).reverse
    let h' := (List.zip sha512K ws).foldl shaStep h
    shaBlocks n (List.zipWith (· + ·) h h') (bs.drop 128)

/-- SHA-384. -/
def sha384 (bs : List Byte) : List Byte :=
  let n := (bs.length + 17 + 127) / 128
  let padded := bs ++ 0x80#8 :: zeros (n * 128 - bs.length - 17) ++ beBytes 16 (8 * bs.length)
  ((shaBlocks n sha384Iv padded).flatMap fun w => beBytes 8 w.toNat).take 48

/-- HMAC-SHA-384. -/
def hmac384 (key msg : List Byte) : List Byte :=
  let k := if 128 < key.length then sha384 key else key
  let k := k ++ zeros (128 - k.length)
  sha384 (k.map (· ^^^ 0x5C#8) ++ sha384 (k.map (· ^^^ 0x36#8) ++ msg))

/-- The blocks of HKDF-Expand. -/
def hkdfBlocks (prk info : List Byte) : Nat → Nat → List Byte → List Byte
  | 0, _, _ => []
  | n + 1, i, prev => let t := hmac384 prk (prev ++ info ++ leBytes 1 i); t ++ hkdfBlocks prk info n (i + 1) t

/-- HKDF-SHA-384 (RFC 5869). -/
def hkdf (salt ikm info : List Byte) (len : Nat) : List Byte :=
  (hkdfBlocks (hmac384 salt ikm) info (ceilDiv len 48) 1 []).take len

/-- The bytes of an ASCII string. -/
def ascii (s : String) : List Byte := s.toList.map fun c => BitVec.ofNat 8 c.toNat

end Sys2Proof.Machine
end

