-- ==== Sys2Proof/Machine/Ecc.lean ====
section
/-! DEFINITION. The code of T1 and T2 (R544–R546): RS(36,32) over GF(2⁸), its check symbols, and what its decoder makes of
errors. A codeword's wrong symbols are pairs of a symbol's index (32 data bytes, then 4 check symbols) and the value that
is added to it, which is not 0. The first symbol has the highest power of x (DEDUCED from the order of R544,
assumption 93). -/

namespace Sys2Proof.Machine

/-- Wrong symbols of a codeword, by rising index. -/
abbrev SymErrs := List (Nat × Nat)

/-! ### GF(2⁸) -/

/-- A field element times α = 0x02, by the field polynomial x⁸ + x⁴ + x³ + x² + 1. -/
def gfTwice (a : Nat) : Nat := if a < 128 then 2 * a else (2 * a) ^^^ 0x11D

/-- The product of two elements, over the low `n` bits of the second. -/
def gfMulBits : Nat → Nat → Nat → Nat
  | 0, _, _ => 0
  | n + 1, a, b => (if b % 2 = 1 then a else 0) ^^^ gfMulBits n (gfTwice a) (b / 2)

def gfMul (a b : Nat) : Nat := gfMulBits 8 a b

/-- α to the power `n`. -/
def gfAlpha : Nat → Nat
  | 0 => 1
  | n + 1 => gfTwice (gfAlpha n)

/-- The 2ⁿ-th power of an element. -/
def gfPow2 : Nat → Nat → Nat
  | 0, a => a
  | n + 1, a => gfPow2 n (gfMul a a)

/-- The inverse of a nonzero element: its power 254, the product of its powers 2, 4, … 128. -/
def gfInv (a : Nat) : Nat := (List.range 7).foldl (fun p i => gfMul p (gfPow2 (i + 1) a)) 1

/-! ### The code -/

/-- Coefficients of the generator polynomial (x − α⁰)(x − α¹)(x − α²)(x − α³), below its leading 1, highest power first. -/
def rsGenerator : List Nat :=
  ((List.range 4).foldl (fun (g : List Nat) k =>
    List.zipWith (· ^^^ ·) (g ++ [0]) (0 :: g.map (gfMul (gfAlpha k)))) [1]).drop 1

/-- The remainder of division by the generator polynomial, one symbol further. -/
def rsStep (r : List Nat) (d : Nat) : List Nat :=
  let q := r.headD 0 ^^^ d
  List.zipWith (· ^^^ ·) (r.drop 1 ++ [0]) (rsGenerator.map (gfMul q))

/-- The four check symbols of 32 data bytes. -/
def rsCheck (data : List Byte) : List Nat := data.foldl (fun r b => rsStep r b.toNat) [0, 0, 0, 0]

/-- Syndrome `k` of some wrong symbols. -/
def rsSyndrome (e : SymErrs) (k : Nat) : Nat := e.foldl (fun a x => a ^^^ gfMul x.2 (gfAlpha (k * (35 - x.1)))) 0

def rsSyndromes (e : SymErrs) : List Nat := (List.range 4).map (rsSyndrome e)

/-- The two values at symbols `i` and `j` that give syndromes S₀ and S₁. -/
def rsPair (s0 s1 i j : Nat) : SymErrs :=
  let a := gfAlpha (35 - i)
  let b := gfAlpha (35 - j)
  let x := gfMul (s1 ^^^ gfMul s0 b) (gfInv (a ^^^ b))
  [(i, x), (j, s0 ^^^ x)].filter fun e => e.2 != 0

/-- Values at two symbols alone have these syndromes: with the symbols' places a and b, each syndrome from S₂ on is a + b times
the one before it and ab times the one before that. -/
def rsPairHas (s : List Nat) (i j : Nat) : Bool :=
  let a := gfAlpha (35 - i)
  let b := gfAlpha (35 - j)
  let follows := fun (x y z : Nat) => gfMul y (a ^^^ b) ^^^ gfMul x (gfMul a b) == z
  follows (s.getD 0 0) (s.getD 1 0) (s.getD 2 0) && follows (s.getD 1 0) (s.getD 2 0) (s.getD 3 0)

/-- What the decoder takes for wrong: at most two symbols with the same syndromes; none when there are no such. -/
def rsLocate (e : SymErrs) : Option SymErrs :=
  let s := rsSyndromes e
  if s.all (· == 0) then some []
  else
    ((List.range 36).findSome? fun i => (List.range i).findSome? fun j =>
      if rsPairHas s j i then some (rsPair (s.getD 0 0) (s.getD 1 0) j i) else none)

/-- Add a value to a symbol. -/
def addSym (i v : Nat) : SymErrs → SymErrs
  | [] => if v = 0 then [] else [(i, v)]
  | (j, w) :: l =>
    if i < j then (if v = 0 then (j, w) :: l else (i, v) :: (j, w) :: l)
    else if i = j then (if v ^^^ w = 0 then l else (i, v ^^^ w) :: l)
    else (j, w) :: addSym i v l

/-- Two sets of wrong symbols together. -/
def addSyms (e f : SymErrs) : SymErrs := f.foldl (fun e x => addSym x.1 x.2 e) e

/-- A READ OF A CODEWORD (R545, R546): what is still wrong with the symbols that the device reads, and whether it corrected
any; none when the codeword is uncorrectable. -/
def rsRead (e : SymErrs) : Option (SymErrs × Bool) := (rsLocate e).map fun f => (addSyms e f, !f.isEmpty)

end Sys2Proof.Machine
end

