-- ==== Sys2Proof/Machine/State.lean ====
section
/-! DEFINITION. The state of the module as plain data: every register, store, queue, counter, mode and pin the manual
names. Things of which there are many (threads, cores, basins, key slots, streams, bytes of memory) are held as sparse
maps in one canonical form: keys strictly rising, no entry equal to the value an unlisted key has. -/

namespace Sys2Proof.Machine

/-- A sparse map from numbers. -/
abbrev SMap (α : Type) := List (Nat × α)
/-- A sparse byte store; an unlisted byte reads 0 (R542, R950 stage 7; assumption 60). -/
abbrev Mem := List Host.Cell

/-- Status codes (R986). -/
inductive Status where
  | ok | busy | refusedSag | xlateFault | notResident | permFault | keyRevoked | keyEpochRetired
  | adapterAbsent | adapterRevoked | baseMismatch | adapterPinned | posLimit | emptyRow | nonfinite | clipApplied
  | repeatStep | skipStep | digestMismatch | epochStale | checkMismatch | aliveRepeat | aliveGap | fenced
  | unitStopping | eccCorrected | eccUncorrectable | internal
  deriving DecidableEq, Repr

/-- Thread states (R99). -/
inductive TState where
  | free | ready | waiting | parked | stopped | halted
  deriving DecidableEq, Repr

/-- Reasons for PARKED (R163). -/
inductive ParkReason where
  | none | park | parkt | sywait | queueFull | pager
  deriving DecidableEq, Repr

/-- Trap causes (R152). -/
inductive TrapCause where
  | none | illegalOp | privOp | misaligned | tsRange | memFault | fetchFault | brk | icacheEcc
  deriving DecidableEq, Repr

/-- The operations of `amo` (R132). -/
inductive AmoOp where
  | add | and | or | xor | min | max | minu | maxu | swap | cas
  deriving DecidableEq, Repr

/-- What a WAITING or PARKED thread waits for, beside its park reason. The instruction itself stands at the program
counter; this holds the fields its completion needs (MODEL'S OWN, assumption 6): of an atomic, its place in the order of
issue; of a fetch, the line and the instruction's last byte address; `moving` waits for a page in a move or a rekey (R466), `inval`
is `sys.tlbinv` waiting for the accesses of threads (R528), `restored` a `sy.wait` that a save record parked (R148). -/
inductive WaitOp where
  | none
  | load (d va pa size : Nat) (sx prevEpoch : Bool) (slot : Nat)
  | amo (op : AmoOp) (d va pa : Nat) (wide : Bool) (operand expected : U64) (prevEpoch : Bool) (slot order : Nat)
  | fetch (va : Nat) (ecc : Bool) (last : Nat)
  | moving (va : Nat)
  | inval (threads : List Nat) (d : Nat)
  | chamber (pair : Nat) (upper : Bool)
  | sum (srcUnit srcIndex select d pk : Nat)
  | ticket (unit index d : Nat)
  | fence (ids : List Nat)
  | queue (q : QueueRef)
  | restored (unit index : Nat)
  | tstop (target d : Nat)
  | operand
  | yield
  deriving DecidableEq, Repr

/-- One hardware thread (R97, R163). `g` and `p` hold g1–g31 and p1–p7; g0 and p0 are the accessors' business.
`pPend` marks predicates an unfinished engine command has still to write (R103, R442). -/
structure Thread where
  g : SMap U64
  p : BitVec 8
  pc : BitVec 48
  pPend : BitVec 8
  wake : Bool
  st : TState
  reason : ParkReason
  cause : TrapCause
  status : Status
  faultVa : U64
  parkArg : U64
  wait : WaitOp
  stopAsked : Bool
  weirSaved : Option TState
  pagerDue : Bool
  deriving DecidableEq, Repr

/-- Where a queued command stands (R174, R180, R907, R911). -/
inductive Phase where
  | entered | passWait | granted | running | stopped
  deriving DecidableEq, Repr

/-- One queued engine command (R174, R179): its 64-byte block as read at entry (R129). `refuse` holds the status of a
failed entry check (R181), `cancel` the status a strict dependency cancelled it with (R185). `energy` is its derived
energy in pJ at SCALE 1.0, `power` its pass power in mW (R904), `more` the further passes R906 makes it take, `step` the
STEP its rounding uses (R311, R312), `pk` the predicate it writes, `hold` that it completes with UNIT_STOPPING (R927),
`pos` its stop position, `guard` the tile-store ranges that no program may write (or, marked true, touch) until it
completes and `broken` that one did (R578), `passBasin` the basin in whose slots its pass is granted (R480, R908). `depOn` is
the command (unit and index) that its dependency waits for still (R180, R187), `shard` each byte of its shard's regions that an
`up.apply` or another writer has changed since it entered, as the command and as the others leave it (R725), and `quiet` that it failed a rule after which it
has no other effect: its SIGNAL is not given (R181, R1022). -/
structure Cmd where
  id : Nat
  unit : Nat
  code : Nat
  index : Nat
  core : Nat
  thread : Nat
  block : List Byte
  refuse : Option Status
  cancel : Option Status
  quiet : Bool
  depOn : Option (Nat × Nat)
  phase : Phase
  heavy : Bool
  passClass : Nat
  energy : Nat
  power : Nat
  more : Nat
  resumePass : Bool
  pk : Nat
  gather : Option Nat
  stopping : Bool
  pos : Nat
  faultVa : Option Nat
  hold : Bool
  step : U32
  guard : List (Nat × Nat × Bool)
  broken : Bool
  passBasin : Nat
  carried : List Nat
  strict : Option Status
  clash : List (Nat × Byte)
  shard : SMap (Byte × Byte)
  deriving DecidableEq, Repr

/-- A scalar summary (R212, R216, R401), held for the command (unit, index). -/
structure Summary where
  unit : Nat
  index : Nat
  sum : U32
  maxAbs : U32
  nanCount : Nat
  infCount : Nat
  satCount : Nat
  maskCount : Nat
  emptyRows : Nat
  deriving DecidableEq, Repr

/-- The completion status of one command, kept while its ticket is current (R193). -/
structure Done where
  unit : Nat
  index : Nat
  status : Option Status
  deriving DecidableEq, Repr

/-- An open gather group (R218–R223): its key and the ids and row counts of its submissions. -/
structure Group where
  id : Nat
  key : List Nat
  members : List (Nat × Nat)
  window : Nat
  deriving DecidableEq, Repr

/-- A chamber pair (R424, R425). -/
structure Pair where
  enabled : Bool
  base : Nat
  half : Nat
  upperCompute : Bool
  flipWait : Bool
  deriving DecidableEq, Repr

/-- A towpath program image as `tw.arm` copied it (R432, R442), with what the command says of its completion. -/
structure TwImage where
  a : List U64
  strides : List U64
  instrs : List U64
  doneAddr : Nat
  wakeThread : Nat
  wakeEn : Bool
  armThread : Nat
  grantTlb : Nat
  deriving DecidableEq, Repr

/-- A transfer a towpath program emitted (R417). `far` is its far-end address (for Q_REMOTE the register's form with the
offset advanced), `grants` its TLB grant numbers, those of its parts (R458), `retried` that it was on the retry list, `sent`
what became of its record (R884), `clash` and `farClash` the ranges of its own and of its far end's tile store that others
touched while it was in flight (R420). -/
structure Transfer where
  id : Nat
  serial : Nat
  far : Nat
  ts : Nat
  len : Nat
  out : Bool
  grants : List Nat
  retried : Bool
  sent : Option Status
  clash : List (Nat × Nat)
  farClash : List (Nat × Nat)
  deriving DecidableEq, Repr

/-- A SIGNAL whose condition does not hold yet (R440): it waits for every transfer of its program with an id below
`before` to issue, or with `done` to complete. -/
structure TwSignal where
  thread : Nat
  done : Bool
  serial : Nat
  before : Nat
  deriving DecidableEq, Repr

/-- The program in a queue's active slot (R441, R444): `moved` counts the bytes of a MOVE in progress that are emitted. -/
structure TwProg where
  img : TwImage
  a : List U64
  index : Nat
  counters : List Nat
  serial : Nat
  nextGrant : Nat
  moved : Nat
  ended : Option Status
  deriving DecidableEq, Repr

/-- A program that left the active slot and is not complete yet (R445, R446). -/
structure TwEnded where
  serial : Nat
  doneAddr : Nat
  wakeThread : Nat
  wakeEn : Bool
  armThread : Nat
  status : Status
  deriving DecidableEq, Repr

/-- One towpath queue (R407, R416, R447, R452). -/
structure TwQueue where
  active : Option TwProg
  pending : Option TwImage
  emitted : List Transfer
  issued : List Transfer
  retry : List (Transfer × Status × Nat)
  faulted : Bool
  signals : List TwSignal
  ended : List TwEnded
  serials : Nat
  nextId : Nat
  completed : Nat
  lastStatus : Status
  posIndex : Nat
  posValid : Bool
  deriving DecidableEq, Repr

/-- A table descriptor of the vector engine's table memory (R389, R390). -/
structure TableDesc where
  base : Nat
  entries : Nat
  a : U32
  b : U32
  deriving DecidableEq, Repr

/-- A line of the instruction cache (R1009), tagged with context and virtual address. -/
structure ICLine where
  ctx : Nat
  va : Nat
  set : Nat
  way : Nat
  data : List Byte
  deriving DecidableEq, Repr

/-- A status register of an engine: LAST_STATUS and COMPLETED (R292 and following). -/
structure UnitStat where
  last : Status
  completed : U32
  deriving DecidableEq, Repr

/-- The states of a gateable unit (R924). -/
inductive PwrState where
  | on | stopping | off | starting
  deriving DecidableEq, Repr

/-- A gateable unit's state, enable and pending bits (`BS_PWR_s`). -/
structure Gate where
  st : PwrState
  en : Bool
  pendingEn : Bool
  deriving DecidableEq, Repr

/-- A scalar summary in the making (R401, R404): the FP32 words of the sum of the final values so far, if there is one, and
of their largest magnitude, and the counts. `anyRow` tells whether a row reduction met an active lane. -/
structure PartSum where
  total : Option Nat
  maxAbs : Nat
  nan : Nat
  inf : Nat
  sat : Nat
  mask : Nat
  anyRow : Bool
  deriving DecidableEq, Repr

/-- What a stopped chain holds beside its lane registers and masks (R404): its row reductions in progress, by instruction,
with whether a lane was active, the row's broadcast elements, both as FP32 words, and the summary so far. -/
structure VecHeld where
  red : SMap (Nat × Bool)
  rowIn : List Nat
  sum : PartSum
  deriving DecidableEq, Repr

/-- The vector engine's own storage (R372–R375, R389, R404). -/
structure VectorStore where
  buffers : Mem
  tableMem : Mem
  tables : SMap TableDesc
  lanes : Mem
  masks : SMap Nat
  held : Option VecHeld
  deriving DecidableEq, Repr

/-- The accumulator store with its flags (R330–R339) and the gradient hold with its granule state (R685–R691). -/
structure SumStore where
  acc : Mem
  accSat : BitVec 16
  accNan : BitVec 16
  gh : Mem
  ghSat : BitVec 32
  ghNan : BitVec 32
  ghActive : BitVec 32
  ghLastMb : SMap Nat
  ghRefused : U16
  deriving DecidableEq, Repr

/-- The queues of one core, and what R188–R193, R216 and the gatherer hold. -/
structure CoreQueues where
  mx : List Cmd
  cx : List Cmd
  vx : List Cmd
  tw : List Cmd
  rd : List Cmd
  tm : List Cmd
  ck : List Cmd
  entered : SMap Nat
  done : List Done
  summaries : List Summary
  groups : List Group
  gatherWindow : U16
  gatherEn : Bool
  groupsFull : U32
  groupsShort : U32
  deriving DecidableEq, Repr

/-- The status and position registers of a core's engines. -/
structure CoreRegs where
  mxStat : UnitStat
  mxPos : U64
  mxOrient : Bool
  cxStat : UnitStat
  vxStat : UnitStat
  atStat : UnitStat
  atPos : U64
  sramCorrected : U32
  sramUncorrectable : U16
  stopReq : Bool
  gate0 : Gate
  gate1 : Gate
  deriving DecidableEq, Repr

/-- One core by logical slot (R24, R27). Cores 4,096 to 4,103 are the system cores; they use only threads, queues
`rd`, `tm` and `ck`, and tickets. -/
structure Core where
  ctx : Option Nat
  scrubbed : Bool
  seed : U64
  step : U32
  threads : SMap Thread
  ts : Mem
  sums : SumStore
  vec : VectorStore
  icache : List ICLine
  q : CoreQueues
  regs : CoreRegs
  tw : SMap TwQueue
  twDepth : List (BitVec 8)
  pairs : SMap Pair
  bad : List Nat
  deriving DecidableEq, Repr

/-- A basin TLB entry (R519): the leaf it caches. -/
structure TlbEntry where
  ctx : Nat
  va : Nat
  big : Bool
  leaf : U64
  way : Nat
  deriving DecidableEq, Repr

/-- A waiting lock-pass request (R909). -/
structure PassReq where
  q : QueueRef
  id : Nat
  cls : Nat
  part : Nat
  since : Nat
  deriving DecidableEq, Repr

/-- One basin (R23) and its registers; `tested` marks the physical slots whose TEST has passed since the basin left its
partition (R939). -/
structure Basin where
  mv : List Cmd
  up : List Cmd
  rd : List Cmd
  tm : List Cmd
  mvStat : UnitStat
  mvPos : U64
  upStat : UnitStat
  upCode : Nat
  upPos : U64
  upRefused : U16
  upClipped : U16
  upReapplied : U16
  tlb : List TlbEntry
  tlbMisses : U32
  tlbFaults : U16
  stopReq : Bool
  fencedSlots : BitVec 17
  retired : Bool
  spare : Nat
  drops : U16
  phys : SMap Nat
  sparePslot : Nat
  spareOp : Nat
  spareGo : Bool
  spareResult : Status
  tested : BitVec 17
  gate0 : Gate
  gate1 : Gate
  passes : List PassReq
  deriving DecidableEq, Repr

/-- What a fault record says (R531). -/
structure FaultRec where
  status : Status
  unit : Nat
  access : Nat
  inst : Nat
  basin : Nat
  slot : Nat
  ctx : Nat
  va : Nat
  time : Nat
  deriving DecidableEq, Repr

/-- A tier-schedule entry (R487); its VA has the image base added. -/
structure SchedEntry where
  layer : Nat
  dest : Nat
  flags : Nat
  cfmt : Nat
  charge : Nat
  va : Nat
  pages : Nat
  deriving DecidableEq, Repr

/-- A schedule entry that the tier engines have taken (R489): the entry and the pass it belongs to; `fed` 64 KiB units of
it have reached the engines, `waits` that it waits with lock-pass request `id`, `running` that its pass power counts. -/
structure SchedRun where
  id : Nat
  index : Nat
  round : Nat
  basin : Nat
  fed : Nat
  more : Nat
  waits : Bool
  granted : Bool
  running : Bool
  done : Option Status
  deriving DecidableEq, Repr

/-- One context: an address space and the threads in it (R47–R53, R307, R489, R511). `direct` marks firmware's own
context 0 while it has no page table: its addresses are T1 physical addresses (DESIGN CHOICE, assumption 7). `svcIgnored` holds the runs of
service entries posted beyond the limit of R627. -/
structure Context where
  mixing : Bool
  part : Nat
  fn : Nat
  party : U128
  slots : List Nat
  baseRead : List Nat
  ptRoot : Nat
  direct : Bool
  seed : U64
  cores : List Nat
  nextImage : Nat
  sched : List SchedEntry
  runs : List SchedRun
  layer : Nat
  cursor : Nat
  round : Nat
  tickOffset : Nat
  svcIgnored : List (Nat × Nat)
  deriving DecidableEq, Repr

/-- One partition (R43–R47): its basins and its quotas in GiB. -/
structure Partition where
  basins : List Nat
  t1Quota : Nat
  t2Quota : Nat
  lookahead : BitVec 8
  lookaheadAct : BitVec 8
  schedEn : Bool
  deriving DecidableEq, Repr

/-- Whom a tier engine's request serves: a `tm.move` by its queue and id, a run of an entry of a context's schedule, the
pager, or the pager's making of room for a page of a context (R534). -/
inductive TierOwner where
  | cmd (q : QueueRef) (id : Nat)
  | sched (ctx run : Nat)
  | pager
  | room (ctx va : Nat)
  deriving DecidableEq, Repr

/-- A tier engine's request for one page (R464, R479), kept until its owner has completed. `ord` is the page's place in
its request, `rot` the die at which its rotation over dies starts, where a page of its owner was placed before (R478),
`result` its status once moved. -/
structure TierReq where
  owner : TierOwner
  ctx : Nat
  va : Nat
  dest : Nat
  cfmt : Nat
  charge : Nat
  ord : Nat
  rot : Option Nat
  result : Option Status
  deriving DecidableEq, Repr

/-- The page a tier engine is moving (R464): its request, the step it has completed (1: MOVING is set; 2: the destination is
written; 3: the entry names it), its address and leaf as step 1 found them, and the leaf that step 3 writes. -/
structure TierJob where
  req : TierReq
  stage : Nat
  va : Nat
  addr : Nat
  big : Bool
  old : U64
  new : U64
  deriving DecidableEq, Repr

/-- One tier engine and its registers. -/
structure TierEngine where
  job : Option TierJob
  reqs : List TierReq
  last : Status
  pages : U32
  raw : U64
  cmp : U64
  deriving DecidableEq, Repr

/-- The states of a key slot (R793). -/
inductive SlotState where
  | free | reserved | active | rotating | revoked
  deriving DecidableEq, Repr

/-- A 256-bit secret with its IV prefix and counter (R799). -/
structure Secret where
  key : BitVec 256
  ivPrefix : U32
  counter : U64
  deriving DecidableEq, Repr

/-- One key slot (R793–R804); `holder` is the function whose SLOT_RESERVE reserved it (R629, R845). -/
structure KeySlot where
  st : SlotState
  party : U128
  epoch : BitVec 2
  cur : Option Secret
  prev : Option Secret
  set : Option U128
  oldPages : Nat
  oldInflight : Nat
  zeroized : Bool
  holder : Option Nat
  deriving DecidableEq, Repr

/-- A device set the module holds (R812, R813). -/
structure DeviceSet where
  id : U128
  version : Nat
  ownerRsa : List Byte
  ownerSlh : List Byte
  key : List Byte
  deriving DecidableEq, Repr

/-- A teardown that has started and not finished (R805): its slot, the peers whose acknowledgement it waits for, the
functions that learn of it, the count of dropped transfers when it started, who posted it, and the TDI that waits. -/
structure Teardown where
  slot : Nat
  peers : List Nat
  fns : List Nat
  drops : U32
  poster : Option Poster
  tdi : Option Nat
  deriving DecidableEq, Repr

/-- What `ME_TEARDOWN` shows of the last teardown. -/
structure TeardownReg where
  slot : Nat
  step : Nat
  deriving DecidableEq, Repr

/-- A version slot of a directory entry (R621). -/
structure VSlot where
  version : Nat
  pins : Nat
  imageVa : Nat
  home : Nat
  st : Nat
  hostRec : Bool
  hostAddr : Nat
  pages : Nat
  deriving DecidableEq, Repr

/-- A directory entry (R619, R620). -/
structure DirEntry where
  id : U64
  slot : Nat
  st : Nat
  baseSlot : Nat
  cur : Bool
  static : Bool
  trainable : Bool
  lastUse : Nat
  vs0 : VSlot
  vs1 : VSlot
  grace : List Nat
  revoker : Option Poster
  deriving DecidableEq, Repr

/-- An admitted or waiting request (R640–R644). -/
structure Request where
  ctx : Nat
  idx : Nat
  reqId : U64
  adapter : U64
  entry : Option Nat
  second : Bool
  version : Nat
  keySlot : Nat
  baseSlot : Nat
  trainable : Bool
  wake : Option (Nat × Nat)
  capVa : Nat
  capPages : Nat
  kvVa : Nat
  kvPages : Nat
  st : Nat
  endStatus : Status
  poster : Option Poster
  deriving DecidableEq, Repr

/-- A base slot (R659–R661). -/
structure BaseSlot where
  st : Nat
  digest : List Byte
  keySlot : Nat
  pages : Nat
  deriving DecidableEq, Repr

/-- A party's reservoir (R666–R673): its pages, oldest first, as their bytes. -/
structure Reservoir where
  keySlot : Nat
  fullPolicy : Bool
  limit : Nat
  serial : Nat
  pages : List (Nat × Mem)
  deriving DecidableEq, Repr

/-- The adapter service's own registers and state. -/
structure Adapters where
  mode : Bool
  cacheLimit : Nat
  t2Limit : Nat
  graceMs : Nat
  evictions : U32
  admitWaits : U32
  absent : U32
  admitCount : U32
  dir : SMap DirEntry
  reqs : List Request
  bases : List BaseSlot
  reservoirs : List Reservoir
  deriving DecidableEq, Repr

/-- An entry firmware has taken from a ring or a service queue and not completed (R623, R840); `started` that it runs and
waits (an admission, a revocation). -/
structure Taken where
  poster : Poster
  op : Nat
  tag : U32
  args : List U64
  started : Bool
  outcome : Option (Status × Nat)
  deriving DecidableEq, Repr

/-- A command ring (R839–R842). -/
structure CmdRing where
  base : U64
  size : BitVec 5
  en : Bool
  head : U32
  tail : U32
  err : Bool
  deriving DecidableEq, Repr

/-- An event ring (R849–R854). -/
structure EvRing where
  base : U64
  size : BitVec 5
  en : Bool
  vec : BitVec 5
  modCount : BitVec 8
  modUs : U16
  head : U32
  tail : U32
  lost : U16
  lostUnreported : Nat
  sinceIrq : Nat
  deriving DecidableEq, Repr

/-- What is reported through AER (R858): a host access refused, one that timed out or came back poisoned (R857), a fatal error of
the link. -/
inductive AerError where
  | refused | timedOut | fatal
  deriving DecidableEq, Repr

/-- TDISP states of a TDI (IDE and TDISP section, R826). -/
inductive TdiState where
  | unlocked | locked | run | error
  deriving DecidableEq, Repr

/-- One host function (R834–R861). Of its migration: `saved` keys of what MIG_SAVE has written, `migSeq` and `migCt` the
count of records and the ciphertext of the stream so far, and the threads, units (cores, then basins from 4096) and reduction
groups that MIG_FREEZE stopped. `aer` is what AER has reported on it (R858). -/
structure Func where
  bound : Option Nat
  frozen : Bool
  crs : List CmdRing
  ers : List EvRing
  held : List (Nat × List Byte)
  vecMask : U32
  vecPending : U32
  msix : Mem
  irqs : SMap Nat
  resetting : Bool
  tdi : TdiState
  dirtyLog : Bool
  saved : List Nat
  offerSeed : Option (BitVec 256)
  migKey : Option (List Byte)
  migSeq : Nat
  migCt : List Byte
  frozenThreads : List Nat
  frozenUnits : List Nat
  frozenGroups : List Nat
  migRestored : Bool
  cfgRetry : Bool
  cfgReply : List U16
  vfBar0 : Nat
  aer : List AerError
  deriving DecidableEq, Repr

/-- The host interface: functions, entries in work, the ATS cache (R856), and PCIe error state (R858). `shown` is what the
registers with performance counters, by their offset in PF BAR0, read at the last 1 ms boundary (R811). -/
structure HostIf where
  fns : SMap Func
  taken : List Taken
  ats : List (Nat × Nat)
  fatal : Bool
  shown : SMap Nat
  deriving DecidableEq, Repr

/-- Reduction-group states (`RE_GROUP_STAT_g`). -/
inductive GrpState where
  | disabled | open | halted | resync
  deriving DecidableEq, Repr

/-- An `rd.sum` of the open step (R752–R757): what it accepted (sender's rank, whether a result, first element, bytes), and
the units of elements whose node it has formed (`up`) and whose result it has written (`fin`). -/
structure RdSum where
  q : QueueRef
  cmdId : Nat
  seq : Nat
  nsum : Nat
  kind : Nat
  sched : Nat
  count : Nat
  status : Option Status
  got : List (Nat × Bool × Nat × List Byte)
  up : List Nat
  fin : List Nat
  deriving DecidableEq, Repr

/-- One reduction group slot (R739–R778). `closes` are the close records received, by rank, `parts` their pieces, and
`sumsOk` tells whether the last step's sums all completed with OK (R777). -/
structure RdGroup where
  en : Bool
  rank : Nat
  members : Nat
  rings : Nat
  part : Nat
  epoch : U32
  timeoutMs : U16
  digestInterval : U16
  st : GrpState
  lastVerdict : Nat
  nextStep : U64
  sums : List RdSum
  closes : List (Nat × List Byte)
  parts : List (Nat × Nat × List Byte)
  closing : Bool
  mismatch : Bool
  sumsOk : Bool
  devices : List Nat
  lastRecord : List Byte
  cntStale : U16
  cntAhead : U16
  cntLate : U16
  cntMismatch : U16
  vCommits : U16
  vRepeats : U16
  vSkips : U16
  vHalts : U16
  deriving DecidableEq, Repr

/-- A reduction engine's registers (`RE_ENG_STAT_e`). -/
structure RdEngine where
  last : Status
  faultWait : Bool
  records : U32
  deriving DecidableEq, Repr

/-- Link states (R891). -/
inductive LinkState where
  | disabled | train | ident | up
  deriving DecidableEq, Repr

/-- One Kreash link (`KL_LINK_l`, `KL_LINK_ERR_l`). -/
structure Link where
  en : Bool
  st : LinkState
  peer : BitVec 12
  downCount : U16
  noRoute : U16
  asmDrop : U16
  fecCorr : U32
  fecUncorr : U16
  crcDrop : U16
  sent : List (List Byte)
  deriving DecidableEq, Repr

/-- What a receiver keeps for one (source, VS): the FALIVE expected (R879), the record in assembly, whether flits are
dropped up to the next SOR, and the ALIVE expected (R895). -/
structure RxStream where
  falive : U16
  assembly : List Byte
  skipping : Bool
  alive : U16
  deriving DecidableEq, Repr

/-- What a sender keeps for one (destination, VS): FALIVE, ALIVE, and the records whose credit has not returned (R879, R888,
R894). -/
structure TxStream where
  falive : U16
  alive : U16
  owed : Nat
  deriving DecidableEq, Repr

/-- A virtual stream's configuration (`KL_VS_CFG_v`). -/
structure VsCfg where
  en : Bool
  poly : Bool
  peer : BitVec 12
  keySlot : BitVec 12
  rxDepth : BitVec 6
  ctx : U16
  deriving DecidableEq, Repr

/-- A record that arrived: its source, stream, link and bytes. -/
structure RxRecord where
  src : Nat
  vs : Nat
  link : Nat
  bytes : List Byte
  deriving DecidableEq, Repr

/-- A record that waits to be sent: its destination, stream, first-hop link where R890 names one, and bytes. -/
structure TxRecord where
  dst : Nat
  vs : Nat
  link : Option Nat
  bytes : List Byte
  deriving DecidableEq, Repr

/-- The Kreash block. Assembled records wait for their check-value unit; accepted records wait in receive buffers. -/
structure Kreash where
  moduleId : BitVec 12
  links : SMap Link
  routes : SMap U64
  vs : SMap VsCfg
  groupLinks : SMap (BitVec 24)
  rx : SMap RxStream
  tx : SMap TxStream
  assembled : List RxRecord
  buffers : List RxRecord
  outbox : List TxRecord
  cvMismatch : SMap U16
  cvRepeat : SMap U16
  cvGap : SMap U16
  deriving DecidableEq, Repr

/-- The lock-keeper's block (`LK_*`). Per die × 64 + partition: `pools` is how far a share's pool lies below full, in
1/32 nJ (R900), `runMw` its running power in mW (R911). -/
structure LockKeeper where
  sustainW : BitVec 12
  peakW : BitVec 12
  poolMj : U16
  ageUs : U16
  level : Nat
  sagLevel : BitVec 2
  sagLow : Bool
  droop : Bool
  vinDv : Nat
  vinHist : List Nat
  trigger : Nat
  cntL1 : U16
  cntL2 : U16
  cntL3 : U16
  notices : U16
  scale : SMap U16
  runMw : SMap Nat
  grants : SMap U32
  refused : SMap U32
  aged : SMap U32
  pools : SMap Nat
  deriving DecidableEq, Repr

/-- The lengthsman's registers per die (`LM_DIE_d`). -/
structure LmDie where
  minMargin : BitVec 8
  rateCap : BitVec 10
  offsetMv : BitVec 8
  rulDy : BitVec 8
  deriving DecidableEq, Repr

/-- The lengthsman's registers per basin (`LM_BASIN_b`), and the worst margins of its last 64 calibrations, newest first, with
the timebase at each (R932). -/
structure LmBasin where
  minMargin : BitVec 8
  worst : BitVec 5
  retireReq : Bool
  rulDy : BitVec 8
  hist : List (Nat × Nat)
  deriving DecidableEq, Repr

/-- An entry of the retirement log in module flash (R938): the logical slot bound to a spare and the physical slot fenced
there, a fenced spare, a retired basin, or a reinstatement, with its HMAC. -/
inductive LogAct where
  | bind (slot pslot fenced : Nat) | fence (pslot : Nat) | retire | reinstate (pslot : Nat)
  deriving DecidableEq, Repr

structure LogEntry where
  basin : Nat
  act : LogAct
  mac : List Byte
  deriving DecidableEq, Repr

/-- The lengthsman's block. `delay` counts the 2 ps steps each (basin × 32 + path) line has been lengthened by. -/
structure Lengthsman where
  periodH : BitVec 8
  targetPs : BitVec 8
  floorPct : BitVec 7
  busy : Bool
  cals : Nat
  dies : SMap LmDie
  basins : SMap LmBasin
  delay : SMap Nat
  log : List LogEntry
  deriving DecidableEq, Repr

/-- A rate window as `GL_DIE_RATE_d` holds it. -/
structure DieRate where
  waves : U32
  vcoreMv : BitVec 10
  tjC : BitVec 8
  capped : Bool
  deriving DecidableEq, Repr

/-- An error counter pair (`GL_T1_ECC_k`, `GL_T2_ECC_i`). -/
structure EccCount where
  corrected : U32
  uncorrectable : U16
  deriving DecidableEq, Repr

/-- The global block (`GL_*`), less the adapter service's part, and the grant sequences of ticket mode (R208): by queue the
next number; by share the next number and the numbers above it that are granted already (R229); by basin the next. -/
structure Global where
  timebase : U64
  basinsUsable : Nat
  vcoreTarget : BitVec 10
  slewing : Bool
  dieRate : SMap DieRate
  ioC : List (BitVec 8)
  ticketReq : U64
  ticketAct : U64
  t1PeriodH : BitVec 8
  t2PeriodH : BitVec 8
  patrolEn : Bool
  t1Ecc : SMap EccCount
  t2Ecc : SMap EccCount
  eccAddr : BitVec 48
  eccSpace : BitVec 2
  eccPatrol : Bool
  eccValid : Bool
  grantQ : SMap Nat
  grantLk : SMap (List Nat)
  grantTlb : SMap (List Nat)
  deriving DecidableEq, Repr

/-- An SPDM secure session (R820, R825). -/
structure Session where
  id : Nat
  conn : Conn
  secret : List Byte
  kemCt : List Byte
  finished : Bool
  deriving DecidableEq, Repr

/-- What the SPDM responder last answered (R820–R825). -/
inductive SpdmResponse where
  | none | error (code : Nat) | version | capabilities | algorithms | digests (ds : List (List Byte))
  | certificate (bytes : List Byte) (remainder : Nat) | challengeAuth (msg sig : List Byte)
  | measurements (msg : List Byte) (sig : Option (List Byte))
  | keyExchange (session : Nat) (dhe kemDigest : List Byte) | finish | heartbeat | keyUpdate | endSession
  | chunkAck | chunk (bytes : List Byte) (last : Bool) | vendor (bytes : List Byte) | hokutik (vendorId : U16) (bytes : List Byte) | status (st : Status)
  deriving DecidableEq, Repr

/-- The SPDM connection state, per connection. -/
structure SpdmConn where
  kemKey : Option (List Byte)
  lastSigned : Option (List Byte)
  lastWasSigned : Bool
  chunkIn : List Byte
  chunkSeq : Nat
  large : List Byte
  last : SpdmResponse
  deriving DecidableEq, Repr

/-- IDE streams (IDE and TDISP section): programmed key and whether active. -/
structure IdeStream where
  key : Option (BitVec 256)
  active : Bool
  deriving DecidableEq, Repr

/-- The attestation side of the tollhouse; `keyStatus` is the status the last key command completed with (R801). -/
structure Attest where
  identityOk : Bool
  secretUp : Bool
  doe : SpdmConn
  mctp : SpdmConn
  sessions : List Session
  sessionNext : Nat
  ide : SMap IdeStream
  meas2 : List Byte
  meas5 : List Byte
  meas6 : List Byte
  fwVersion : U32
  fwSvn : U32
  sets : List DeviceSet
  drbgCtr : Nat
  keyStatus : Status
  deriving DecidableEq, Repr

/-- Start-up stages (`TH_STATUS`). -/
inductive Stage where
  | tollhouse | link | waitBundle | verify | config | train | init | release | ready | degraded | failed
  deriving DecidableEq, Repr

/-- The tollhouse, its rails, pins and registers (R941–R979). `needLow` is set from a thermal trip on, `armed` from PWR_EN's
rise to the next entry to standby (R945, R968), `perstAt` is the timebase at PERST_N's release and `cfgUp` that configuration
requests have been answered since (R948). `cmdOp` is the field as last written,
`cmdRun` the operation that GO started (R973). -/
structure Tollhouse where
  stage : Stage
  lastReset : Nat
  fail : Nat
  cfgCopy : Bool
  bundleLen : BitVec 28
  bootGo : Bool
  cmdOp : BitVec 8
  cmdGo : Bool
  cmdRun : BitVec 8
  cmdResult : Status
  arg : U64
  powerW : BitVec 13
  tjC : BitVec 8
  vinDv : BitVec 10
  report : Mem
  railUp : Bool
  inrush : Bool
  mainUp : Bool
  pwrEn : Bool
  perstN : Bool
  refclk : Bool
  thermTripN : Bool
  alertN : Bool
  readyN : Bool
  modId : BitVec 4
  needLow : Bool
  armed : Bool
  perstAt : Nat
  cfgUp : Bool
  bar2 : Mem
  bundle : List Byte
  accepted : List Byte
  flashA : List Byte
  flashB : List Byte
  events : List Nat
  eid : Byte
  i3cAddr : Option (BitVec 7)
  sensorReply : Option Nat
  reply : List Byte
  deriving DecidableEq, Repr

/-- A run of frames of 64 KiB of T1, or of granules of 4 KiB of T2, that holds a page of a context (firmware's account):
its first number, its length, and the partition whose quota it counts against. -/
structure Held where
  first : Nat
  n : Nat
  ctx : Nat
  va : Nat
  part : Option Nat
  deriving DecidableEq, Repr

/-- The memories outside the cores, with the errors that stand in them (wrong symbols of a codeword by its address; host pages
of 4 KiB whose access is refused, or with `true` times out, R857), the walkers' pointer caches by die (R520), and
firmware's own account of T1 and T2, oldest homed first: the frames and granules in use, its page tables, the root of
the tables of the windows every context shares (R615, R661), and the length of each sealed T3 page (assumption 36). -/
structure Memories where
  t1 : Mem
  t2 : Mem
  host : Mem
  t1Bad : SMap SymErrs
  t2Bad : SMap SymErrs
  hostBad : List (Nat × Bool)
  frames : List Held
  granules : List Held
  nextTable : Nat
  windowRoot : Nat
  t3len : SMap Nat
  walkCache : SMap (List (Nat × Nat × Nat))
  deriving DecidableEq, Repr

/-- A store of `stv` that has not become visible to others yet (R131): its thread, context and addresses, its bytes, and
the key slot whose previous epoch it holds (R804). -/
structure Store where
  th : Nat
  ctx : Nat
  va : Nat
  pa : Nat
  bytes : List Byte
  slot : Nat
  prev : Bool
  deriving DecidableEq, Repr

/-- A page that the pager makes room for (R534): its request, and the pages that could not be moved out. -/
structure RoomWait where
  req : TierReq
  tried : List (Nat × Nat)
  deriving DecidableEq, Repr

/-- The counts of `TE_PART_STAT_p` (R490, R492). -/
structure TierCount where
  late : U32
  skipped : U32
  deriving DecidableEq, Repr

/-- Everything the spec gives the block, its queue of commands apart. `freeCtr` is the model's own: the number of free
values taken so far (assumption 2). `lastIssued` is the thread of a core that issued last (R101), `stores` what `stv` has
written and others do not see yet (R131), `rekeys` the pages in a rekey (slot, context, page; R802), `rooms` and `deferred`
the pager's work in hand (R467, R534). `teCtrl` and `teCount` hold `TE_PART_CTRL_p` and `TE_PART_STAT_p`, whether or not
partition p exists. -/
structure Block where
  freeCtr : Nat
  nextId : Nat
  lastIssued : SMap Nat
  stores : List Store
  rekeys : List (Nat × Nat × Nat)
  rooms : List RoomWait
  deferred : List TierReq
  cores : SMap Core
  basins : SMap Basin
  contexts : SMap Context
  parts : SMap Partition
  mem : Memories
  faults : SMap (List (List Byte))
  tier : SMap TierEngine
  slots : SMap KeySlot
  slotSel : BitVec 12
  revokedDrops : U32
  epochRetired : U32
  teardowns : List Teardown
  lastTeardown : TeardownReg
  teCtrl : SMap Nat
  teCount : SMap TierCount
  adapters : Adapters
  host : HostIf
  groups : SMap RdGroup
  rdEngines : SMap RdEngine
  kreash : Kreash
  lock : LockKeeper
  lm : Lengthsman
  gl : Global
  attest : Attest
  th : Tollhouse
  deriving DecidableEq, Repr

/-- THE STATE: the block, and the commands that wait for it, first in, first out. -/
structure State where
  block : Block
  pending : List Instr
  deriving DecidableEq, Repr

/-- Why a step stops with a fault. -/
inductive Fault where
  /-- Raised by every meaning whose operand names a unit, thread, slot, link, function or address the module does not
  have (a thread above 65,663, a basin above 255), and by an `eng` row that carries another row's code. Safe: the hardware
  has no such command, and the model says nothing of it. -/
  | noSuchUnit
  deriving DecidableEq, Repr

/-- Why a step refuses a command. -/
inductive Refusal where
  /-- Raised by an arm of `exec` whose meaning is not written. Safe: nothing can be proved of what it does. -/
  | notModelled (mnemonic : String)
  deriving DecidableEq, Repr

/-- A FREE thread with registers zero (R160; the values before a thread's first start are DESIGN CHOICE,
assumption 5). -/
def Thread.init : Thread :=
  { g := [], p := 0, pPend := 0, pc := 0, wake := false, st := .free, reason := .none, cause := .none, status := .ok, faultVa := 0,
    parkArg := 0, wait := .none, stopAsked := false, weirSaved := none, pagerDue := false }

/-- `LAST_STATUS` and `COMPLETED` at reset. -/
def UnitStat.init : UnitStat := { last := .ok, completed := 0 }
/-- A gateable unit at reset: ON and enabled (`BS_PWR_s`). -/
def Gate.init : Gate := { st := .on, en := true, pendingEn := false }
/-- An empty vector store. -/
def VectorStore.init : VectorStore := { buffers := [], tableMem := [], tables := [], lanes := [], masks := [], held := none }
/-- An empty accumulator store and gradient hold. -/
def SumStore.init : SumStore :=
  { acc := [], accSat := 0, accNan := 0, gh := [], ghSat := 0, ghNan := 0, ghActive := 0, ghLastMb := [],
    ghRefused := 0 }
/-- Empty queues; the gatherer as `BS_GATHER_CTRL_s` resets. -/
def CoreQueues.init : CoreQueues :=
  { mx := [], cx := [], vx := [], tw := [], rd := [], tm := [], ck := [], entered := [], done := [], summaries := [],
    groups := [], gatherWindow := 0x100, gatherEn := true, groupsFull := 0, groupsShort := 0 }
/-- The engine registers of a core at reset. -/
def CoreRegs.init : CoreRegs :=
  { mxStat := .init, mxPos := 0, mxOrient := false, cxStat := .init, vxStat := .init, atStat := .init, atPos := 0,
    sramCorrected := 0, sramUncorrectable := 0, stopReq := false, gate0 := .init, gate1 := .init }
/-- An empty towpath queue. -/
def TwQueue.init : TwQueue :=
  { active := none, pending := none, emitted := [], issued := [], retry := [], faulted := false, signals := [],
    ended := [], serials := 0, nextId := 0, completed := 0, lastStatus := .ok, posIndex := 0, posValid := false }
/-- A disabled chamber pair. -/
def Pair.init : Pair := { enabled := false, base := 0, half := 0, upperCompute := false, flipWait := false }
/-- A core at reset: scrubbed and in no context. -/
def Core.init : Core :=
  { ctx := none, scrubbed := true, seed := 0, step := 0, threads := [], ts := [], sums := .init, vec := .init,
    icache := [], q := .init, regs := .init, tw := [], twDepth := [0x10, 0x10, 0x10, 0x10], pairs := [], bad := [] }
/-- A basin at reset; the spare is physical slot 16 (R29, `BS_FENCE`). -/
def Basin.init : Basin :=
  { mv := [], up := [], rd := [], tm := [], mvStat := .init, mvPos := 0, upStat := .init, upCode := 0, upPos := 0,
    upRefused := 0, upClipped := 0, upReapplied := 0, tlb := [], tlbMisses := 0, tlbFaults := 0, stopReq := false, fencedSlots := 0, retired := false, spare := 0x10, drops := 0, phys := [], sparePslot := 0,
    spareOp := 0, spareGo := false, spareResult := .ok, tested := 0, gate0 := .init, gate1 := .init, passes := [] }
/-- A free key slot. -/
def KeySlot.init : KeySlot :=
  { st := .free, party := 0, epoch := 0, cur := none, prev := none, set := none, oldPages := 0, oldInflight := 0,
    zeroized := true, holder := none }
/-- A free version slot of a directory entry. -/
def VSlot.init : VSlot :=
  { version := 0, pins := 0, imageVa := 0, home := 0, st := 0, hostRec := false, hostAddr := 0, pages := 0 }
/-- An empty base slot. -/
def BaseSlot.init : BaseSlot := { st := 0, digest := [], keySlot := 0, pages := 0 }
/-- A command ring at reset (`HI_CR_CTRL_c`). -/
def CmdRing.init : CmdRing := { base := 0, size := 6, en := false, head := 0, tail := 0, err := false }
/-- An event ring at reset (`HI_ER_CTRL_r`). -/
def EvRing.init : EvRing :=
  { base := 0, size := 8, en := false, vec := 0, modCount := 0, modUs := 0, head := 0, tail := 0, lost := 0,
    lostUnreported := 0, sinceIrq := 0 }
/-- A function at reset: bound to nothing, every MSI-X vector masked (PRESUMED, the PCIe specification's reset value,
assumption 12). -/
def Func.init : Func :=
  { bound := none, frozen := false, crs := List.replicate 4 .init, ers := List.replicate 4 .init, held := [],
    vecMask := 0xFFFFFFFF, vecPending := 0, msix := [], irqs := [], resetting := false, tdi := .unlocked, dirtyLog := false, saved := [],
    offerSeed := none, migKey := none, migSeq := 0, migCt := [], frozenThreads := [],
    frozenUnits := [], frozenGroups := [], migRestored := false, cfgRetry := false, cfgReply := [], vfBar0 := 0, aer := [] }
/-- The identification a function's configuration space holds: Vendor ID and Device ID, and in the PF's SR-IOV capability
TotalVFs, First VF Offset and VF Stride (R833). -/
def configIds (f : Nat) : List U16 := if f = 0 then [0x1F3C, 0x4A10, 63, 1, 1] else [0x1F3C, 0x4A11]
/-- Hokutik's vendor ID (R833). -/
def vendorId : U16 := 0x1F3C
/-- A tier engine at reset. -/
def TierEngine.init : TierEngine := { job := none, reqs := [], last := .ok, pages := 0, raw := 0, cmp := 0 }
/-- A reduction group slot at reset (`RE_GROUP_*_g`). -/
def RdGroup.init : RdGroup :=
  { en := false, rank := 0, members := 1, rings := 1, part := 0, epoch := 0, timeoutMs := 0x7D0, digestInterval := 0x64,
    st := .disabled, lastVerdict := 0, nextStep := 1, sums := [], closes := [], parts := [], closing := false, mismatch := false, sumsOk := false,
    devices := [], lastRecord := [], cntStale := 0, cntAhead := 0, cntLate := 0, cntMismatch := 0, vCommits := 0,
    vRepeats := 0, vSkips := 0, vHalts := 0 }
/-- A reduction engine at reset. -/
def RdEngine.init : RdEngine := { last := .ok, faultWait := false, records := 0 }
/-- A disabled link. -/
def Link.init : Link :=
  { en := false, st := .disabled, peer := 0, downCount := 0, noRoute := 0, asmDrop := 0, fecCorr := 0, fecUncorr := 0,
    crcDrop := 0, sent := [] }
/-- A receiver's counts when a stream is enabled (R895). -/
def RxStream.init : RxStream := { falive := 0, assembly := [], skipping := false, alive := 0 }
/-- A sender's counts when a stream is enabled (R894). -/
def TxStream.init : TxStream := { falive := 0, alive := 0, owed := 0 }
/-- A disabled virtual stream. -/
def VsCfg.init : VsCfg := { en := false, poly := false, peer := 0, keySlot := 0, rxDepth := 7, ctx := 0 }
/-- A die of the lengthsman at reset. -/
def LmDie.init : LmDie := { minMargin := 0, rateCap := 0x3FF, offsetMv := 0, rulDy := 0xFF }
/-- A basin of the lengthsman at reset. -/
def LmBasin.init : LmBasin := { minMargin := 0, worst := 0, retireReq := false, rulDy := 0xFF, hist := [] }
/-- A rate register at reset. -/
def DieRate.init : DieRate := { waves := 0, vcoreMv := 0, tjC := 0, capped := false }
/-- An error counter pair at reset. -/
def EccCount.init : EccCount := { corrected := 0, uncorrectable := 0 }
/-- An SPDM connection before its first request. -/
def SpdmConn.init : SpdmConn :=
  { kemKey := none, lastSigned := none, lastWasSigned := false, chunkIn := [], chunkSeq := 0, large := [],
    last := .none }
/-- An IDE stream with no key. -/
def IdeStream.init : IdeStream := { key := none, active := false }

/-- The adapter service at reset (`GL_ADAPTER_*`): static-set mode, both base slots EMPTY (R962). -/
def Adapters.init : Adapters :=
  { mode := false, cacheLimit := 0x100, t2Limit := 0x200, graceMs := 0x64, evictions := 0, admitWaits := 0, absent := 0,
    admitCount := 0, dir := [], reqs := [], bases := [.init, .init], reservoirs := [] }
/-- The host interface at reset. -/
def HostIf.init : HostIf := { fns := [], taken := [], ats := [], fatal := false, shown := [] }
/-- The Kreash block at reset: MODULE_ID 0, every route unreachable. -/
def Kreash.init : Kreash :=
  { moduleId := 0, links := [], routes := [], vs := [], groupLinks := [], rx := [], tx := [], assembled := [],
    buffers := [], outbox := [], cvMismatch := [], cvRepeat := [], cvGap := [] }
/-- The lock-keeper's block at reset (`LK_*`); pools full (R962: none listed reads full). -/
def LockKeeper.init : LockKeeper :=
  { sustainW := 0x19C, peakW := 0x1CE, poolMj := 0x3E8, ageUs := 0x64, level := 0, sagLevel := 2, sagLow := false,
    droop := false, vinDv := 0, vinHist := [], trigger := 0, cntL1 := 0, cntL2 := 0, cntL3 := 0, notices := 0,
    scale := [], runMw := [], grants := [], refused := [], aged := [], pools := [] }
/-- The lengthsman's block at reset. -/
def Lengthsman.init : Lengthsman :=
  { periodH := 0x18, targetPs := 0x20, floorPct := 0x5A, busy := false, cals := 0, dies := [], basins := [], delay := [],
    log := [] }
/-- The global block at reset. -/
def Global.init : Global :=
  { timebase := 0, basinsUsable := 0, vcoreTarget := 0x2BC, slewing := false, dieRate := [], ioC := [0, 0],
    ticketReq := 0, ticketAct := 0, t1PeriodH := 0x18, t2PeriodH := 0x18, patrolEn := true, t1Ecc := [], t2Ecc := [],
    eccAddr := 0, eccSpace := 0, eccPatrol := false, eccValid := false, grantQ := [], grantLk := [], grantTlb := [] }
/-- The attestation side before the tollhouse rail rises. -/
def Attest.init : Attest :=
  { identityOk := false, secretUp := false, doe := .init, mctp := .init, sessions := [], sessionNext := 0, ide := [],
    meas2 := [], meas5 := [], meas6 := [], fwVersion := 0, fwSvn := 0, sets := [], drbgCtr := 0, keyStatus := .ok }
/-- The tollhouse before its rail rises (R969): the open-drain outputs released, `TH_STATUS`.STAGE at its reset value
LINK. -/
def Tollhouse.init : Tollhouse :=
  { stage := .link, lastReset := 0, fail := 0, cfgCopy := false, bundleLen := 0, bootGo := false, cmdOp := 0,
    cmdGo := false, cmdRun := 0, cmdResult := .ok, arg := 0, powerW := 0, tjC := 0, vinDv := 0, report := [], railUp := false,
    inrush := false, mainUp := false, pwrEn := false, perstN := false, refclk := false, thermTripN := true,
    alertN := true, readyN := true, modId := 0, needLow := false, armed := false, perstAt := 0, cfgUp := false, bar2 := [], bundle := [], accepted := [],
    flashA := [], flashB := [], events := [], eid := 0, i3cAddr := none, sensorReply := none, reply := [] }
/-- Memories with nothing in them (R943). -/
def Memories.init : Memories :=
  { t1 := [], t2 := [], host := [], t1Bad := [], t2Bad := [], hostBad := [], frames := [], granules := [], nextTable := 1,
    windowRoot := 0, t3len := [], walkCache := [] }

/-- The module right after reset: the tollhouse rail about to rise at a cold start (R963), every register at the reset
value of its table, nothing in memory. How a program comes to run from here is assumption 4. -/
def Block.reset : Block :=
  { freeCtr := 0, nextId := 0, lastIssued := [], stores := [], rekeys := [], rooms := [], deferred := [], cores := [], basins := [], contexts := [], parts := [], mem := .init,
    faults := [], tier := [], slots := [], slotSel := 0, revokedDrops := 0, epochRetired := 0,
    teardowns := [], lastTeardown := { slot := 0, step := 0 }, teCtrl := [], teCount := [], adapters := .init, host := .init, groups := [], rdEngines := [],
    kreash := .init, lock := .init, lm := .init, gl := .init, attest := .init, th := .init }

/-- The state right after reset: no command waits. -/
def State.reset : State := { block := .reset, pending := [] }

end Sys2Proof.Machine
end

