-- ==== Sys2Proof/Machine/Ops.lean ====
section
/-! DEFINITION. The named operations over the state: sparse maps and byte stores, units by number, thread registers,
free values, event records and interrupts, memory errors, and taking a trap. -/

namespace Sys2Proof.Machine

/-! ### Sparse maps -/

/-- The value at key `k`; `d` when the map lists none. -/
def SMap.get {α : Type} (d : α) (k : Nat) : SMap α → α
  | [] => d
  | (k', v) :: m => if k' = k then v else SMap.get d k m

/-- Place an entry before the first entry of a higher key. -/
def SMap.place {α : Type} (k : Nat) (v : α) : SMap α → SMap α
  | [] => [(k, v)]
  | (k', v') :: m => if k < k' then (k, v) :: (k', v') :: m else (k', v') :: SMap.place k v m

/-- Set key `k` to `v`, keeping keys rising and listing no entry equal to the default `d`. -/
def SMap.put {α : Type} [DecidableEq α] (d : α) (k : Nat) (v : α) (m : SMap α) : SMap α :=
  let rest := m.filter fun e => e.1 != k
  if v = d then rest else SMap.place k v rest

/-- The value at `k`, when the map lists one. -/
def SMap.find {α : Type} (k : Nat) : SMap α → Option α
  | [] => none
  | (k', v) :: m => if k' = k then some v else SMap.find k m

/-- Set key `k` in a map that lists exactly what is present. -/
def SMap.set {α : Type} (k : Nat) (v : α) : SMap α → SMap α
  | [] => [(k, v)]
  | (k', v') :: m =>
    if k < k' then (k, v) :: (k', v') :: m else if k = k' then (k, v) :: m else (k', v') :: SMap.set k v m

/-- Remove key `k`. -/
def SMap.del {α : Type} (k : Nat) (m : SMap α) : SMap α := m.filter fun e => e.1 != k

/-- Every key is at least `lo`, and keys rise. -/
def SMap.sorted {α : Type} : Nat → SMap α → Bool
  | _, [] => true
  | lo, (k, _) :: m => decide (lo ≤ k) && SMap.sorted (k + 1) m

/-! ### Byte stores -/

/-- The byte at an address; an unlisted byte reads 0. -/
def Mem.byte (m : Mem) (a : Nat) : Byte := SMap.get 0 a m

/-- Write one byte. -/
def Mem.setByte (m : Mem) (a : Nat) (b : Byte) : Mem := SMap.put 0 a b m

/-- `n` bytes from address `a` in turn; the cells of the bytes that have been passed are left behind. -/
def Mem.walk : Mem → Nat → Nat → List Byte
  | _, _, 0 => []
  | [], a, n + 1 => 0 :: Mem.walk [] (a + 1) n
  | (k, v) :: m, a, n + 1 =>
    if k = a then v :: Mem.walk m (a + 1) n else Mem.byte ((k, v) :: m) a :: Mem.walk ((k, v) :: m) (a + 1) n

/-- `n` bytes from address `a` (byte by byte: `Mem.read_eq`). -/
def Mem.read (m : Mem) (a n : Nat) : List Byte := Mem.walk (m.filter fun e => decide (a ≤ e.1) && decide (e.1 < a + n)) a n

/-- The cells that list bytes from address `a` on; a byte 0 has none. -/
def Mem.cells : Nat → List Byte → Mem
  | _, [] => []
  | a, b :: bs => if b = 0 then Mem.cells (a + 1) bs else (a, b) :: Mem.cells (a + 1) bs

/-- Write bytes from address `a`: their cells stand between those below the range and those above it. -/
def Mem.write (m : Mem) (a : Nat) (bs : List Byte) : Mem :=
  m.filter (fun e => decide (e.1 < a)) ++ (Mem.cells a bs ++ m.filter fun e => decide (a + bs.length ≤ e.1))

/-- The little-endian number in `n` bytes at `a`. -/
def Mem.nat (m : Mem) (a n : Nat) : Nat := leNat (m.read a n)

/-- The canonical form: addresses strictly rising, no entry equal to 0. -/
def Mem.wf (m : Mem) : Bool := SMap.sorted 0 m && m.all fun e => e.2 != 0

/-- Set `n` bytes from `a` to 0. -/
def Mem.clear (m : Mem) (a n : Nat) : Mem := m.filter fun e => e.1 < a || a + n ≤ e.1

/-- The little-endian number in `n` bytes of a block at offset `off`. -/
def fld (block : List Byte) (off n : Nat) : Nat := leNat ((block.drop off).take n)

/-- Every byte of a range of a block is 0. -/
def allZero (block : List Byte) (off n : Nat) : Bool := ((block.drop off).take n).all (· == 0)

/-! ### Units by number -/

/-- Threads of the module: 16 on each of 4,096 compute-die cores and 8 system cores (R24, R28, assumption 1). -/
def threadCount : Nat := 65664
/-- Cores of the module, the system cores last. -/
def coreCount : Nat := 4104
/-- Core `c` is a system core (R40). -/
def isSystem (c : Nat) : Bool := decide (4096 ≤ c)
/-- The basin of a compute-die core (R27). -/
def basinOf (c : Nat) : Nat := c / 16
/-- The compute die of a basin (R26). -/
def dieOfBasin (b : Nat) : Nat := b / 32

def Block.core (s : Block) (c : Nat) : Core := SMap.get Core.init c s.cores
def Block.setCore (s : Block) (c : Nat) (v : Core) : Block := { s with cores := SMap.put Core.init c v s.cores }
def Block.modCore (s : Block) (c : Nat) (f : Core → Core) : Block := s.setCore c (f (s.core c))
def Block.basin (s : Block) (b : Nat) : Basin := SMap.get Basin.init b s.basins
def Block.setBasin (s : Block) (b : Nat) (v : Basin) : Block := { s with basins := SMap.put Basin.init b v s.basins }
def Block.modBasin (s : Block) (b : Nat) (f : Basin → Basin) : Block := s.setBasin b (f (s.basin b))
def Core.thread (c : Core) (t : Nat) : Thread := SMap.get Thread.init t c.threads
def Core.setThread (c : Core) (t : Nat) (v : Thread) : Core := { c with threads := SMap.put Thread.init t v c.threads }
def Block.thread (s : Block) (th : Nat) : Thread := (s.core (th / 16)).thread (th % 16)
def Block.setThread (s : Block) (th : Nat) (v : Thread) : Block := s.modCore (th / 16) fun c => c.setThread (th % 16) v
def Block.modThread (s : Block) (th : Nat) (f : Thread → Thread) : Block := s.setThread th (f (s.thread th))
def Block.func (s : Block) (f : Nat) : Func := SMap.get Func.init f s.host.fns
def Block.setFunc (s : Block) (f : Nat) (v : Func) : Block :=
  { s with host := { s.host with fns := SMap.put Func.init f v s.host.fns } }
def Block.modFunc (s : Block) (n : Nat) (f : Func → Func) : Block := s.setFunc n (f (s.func n))
def Block.slot (s : Block) (k : Nat) : KeySlot := SMap.get KeySlot.init k s.slots
def Block.setSlot (s : Block) (k : Nat) (v : KeySlot) : Block := { s with slots := SMap.put KeySlot.init k v s.slots }
def Block.modSlot (s : Block) (k : Nat) (f : KeySlot → KeySlot) : Block := s.setSlot k (f (s.slot k))
def Block.context (s : Block) (c : Nat) : Option Context := SMap.find c s.contexts
def Block.modContext (s : Block) (c : Nat) (f : Context → Context) : Block :=
  match SMap.find c s.contexts with
  | none => s
  | some x => { s with contexts := SMap.set c (f x) s.contexts }
def Block.modPart (s : Block) (p : Nat) (f : Partition → Partition) : Block :=
  match SMap.find p s.parts with
  | none => s
  | some x => { s with parts := SMap.set p (f x) s.parts }
/-- The queue `q` of a core's towpath engine. -/
def Core.twq (c : Core) (q : Nat) : TwQueue := SMap.get TwQueue.init q c.tw
def Core.setTwq (c : Core) (q : Nat) (v : TwQueue) : Core := { c with tw := SMap.put TwQueue.init q v c.tw }
def Block.twq (s : Block) (c q : Nat) : TwQueue := (s.core c).twq q
def Block.setTwq (s : Block) (c q : Nat) (v : TwQueue) : Block := s.modCore c fun x => x.setTwq q v
def Block.modTwq (s : Block) (c q : Nat) (f : TwQueue → TwQueue) : Block := s.setTwq c q (f (s.twq c q))
def Core.pair (c : Core) (k : Nat) : Pair := SMap.get Pair.init k c.pairs
def Core.setPair (c : Core) (k : Nat) (v : Pair) : Core := { c with pairs := SMap.put Pair.init k v c.pairs }

/-- The context a core's threads run in; firmware's context 0 on a system core (assumption 7). -/
def Block.ctxOf (s : Block) (core : Nat) : Option Nat := if isSystem core then some 0 else (s.core core).ctx

/-- The partition a basin belongs to (R45). -/
def Block.partOfBasin (s : Block) (b : Nat) : Option Nat :=
  (s.parts.find? fun e => e.2.basins.contains b).map (·.1)

/-- The function bound to a partition: the lowest-numbered (DESIGN CHOICE, assumption 8), and the PF when none is. -/
def Block.fnOfPart (s : Block) (p : Nat) : Nat :=
  match s.host.fns.find? fun e => e.2.bound == some p with
  | some e => e.1
  | none => 0

/-- The function that events of a core or basin unit go to. -/
def Block.fnOfBasin (s : Block) (b : Nat) : Nat :=
  match s.partOfBasin b with
  | some p => s.fnOfPart p
  | none => 0

/-- The function a context was created through is frozen (R865). -/
def Block.ctxFrozen (s : Block) (ctx : Nat) : Bool := (SMap.find ctx s.contexts).any fun c => (s.func c.fn).frozen

/-- Partition `p` runs in ticket mode (`GL_TICKET_ACTIVE`). -/
def Block.ticketMode (s : Block) (p : Nat) : Bool := bitOf s.gl.ticketAct.toNat p

/-! ### Free values -/

/-- Take the next free value (assumption 2). -/
def Block.free (s : Block) : Nat × Block := (Config.freeNat s.freeCtr, { s with freeCtr := s.freeCtr + 1 })

/-- Take one of the `n` values 0 to n − 1 (0 when `n` is 0). -/
def Block.freeBelow (s : Block) (n : Nat) : Nat × Block := (Config.freeNat s.freeCtr % n, { s with freeCtr := s.freeCtr + 1 })

/-- One value of a choice the spec leaves to firmware: the next free value where it is admissible, else `dflt`, which is
admissible or none (assumption 36). Whoever takes the choice advances the free values (`Block.spent`). -/
def Block.choice (s : Block) (ok : Nat → Bool) (dflt : Option Nat) : Option Nat :=
  if dflt.isSome && ok (Config.freeNat s.freeCtr) then some (Config.freeNat s.freeCtr) else dflt

/-- `n` free values are used up. -/
def Block.spent (s : Block) (n : Nat) : Block := { s with freeCtr := s.freeCtr + n }

/-- `n` members of a list, freely chosen by the free values from number `k`. -/
def chooseFrom : Nat → Nat → List Nat → List Nat
  | 0, _, _ => []
  | n + 1, k, xs =>
    match xs[Config.freeNat k % xs.length]? with
    | none => []
    | some x => x :: chooseFrom n (k + 1) (xs.erase x)

/-- `n` freely chosen members of an ascending list, in ascending order. -/
def Block.chooseMany (s : Block) (n : Nat) (xs : List Nat) : List Nat :=
  let picked := chooseFrom n s.freeCtr xs
  xs.filter picked.contains

/-! ### Thread registers -/

/-- Read g register `r`; g0 reads 0 (R97). -/
def Thread.getG (t : Thread) (r : Reg) : U64 := if r = 0 then 0 else SMap.get 0 r.toNat t.g
/-- Write g register `r`; a write to g0 is discarded (R97). -/
def Thread.setG (t : Thread) (r : Reg) (v : U64) : Thread :=
  if r = 0 then t else { t with g := SMap.put 0 r.toNat v t.g }
/-- Read predicate `r`; p0 reads true (R97). -/
def Thread.getP (t : Thread) (r : Pred) : Bool := if r = 0 then true else t.p.getLsbD r.toNat
/-- Write predicate `r`; a write to p0 is discarded (R97). -/
def Thread.setP (t : Thread) (r : Pred) (v : Bool) : Thread :=
  if r = 0 then t
  else { t with p := if v then t.p ||| (1#8 <<< r.toNat) else t.p &&& ~~~(1#8 <<< r.toNat) }

/-- The thread of a core that issued last; 15 before any has, so that the first READY thread from 0 on is next (R101; the
manual gives no reset value, DESIGN CHOICE, assumption 94). -/
def Block.lastThread (s : Block) (core : Nat) : Nat := SMap.get 15 core s.lastIssued

/-- The core of thread `th` notes that it issued. -/
def noted (th : Nat) (s : Block) : Block := { s with lastIssued := SMap.put 15 (th / 16) (th % 16) s.lastIssued }

/-- Thread `th` is the first READY thread of its core after the last that issued, in ascending number and wrapping (R101).
The strict rotation of ticket mode (R89) differs in the handshakes that threads forfeit, which are timing. -/
def issueTurn (s : Block) (th : Nat) : Bool :=
  let c := s.core (th / 16)
  let order := (List.range 16).map fun i => (s.lastThread (th / 16) + 1 + i) % 16
  order.find? (fun t => decide ((c.thread t).st = .ready)) == some (th % 16)

/-- The program counter moves past an instruction of `n` bytes. -/
def Thread.next (t : Thread) (n : Nat) : Thread := { t with pc := t.pc + BitVec.ofNat 48 n }

/-- The instruction completes with a value in gD. -/
def finishG (th : Nat) (d : Reg) (v : U64) (s : Block) : Block := s.modThread th fun t => (t.setG d v).next 4

/-! ### Status codes -/

/-- The encoding of R986. -/
def Status.code : Status → Nat
  | .ok => 0x00 | .busy => 0x01 | .refusedSag => 0x02 | .xlateFault => 0x10 | .notResident => 0x11 | .permFault => 0x12
  | .keyRevoked => 0x13 | .keyEpochRetired => 0x14 | .adapterAbsent => 0x20 | .adapterRevoked => 0x21
  | .baseMismatch => 0x22 | .adapterPinned => 0x23 | .posLimit => 0x30 | .emptyRow => 0x31 | .nonfinite => 0x40
  | .clipApplied => 0x41 | .repeatStep => 0x42 | .skipStep => 0x43 | .digestMismatch => 0x44 | .epochStale => 0x45
  | .checkMismatch => 0x50 | .aliveRepeat => 0x51 | .aliveGap => 0x52 | .fenced => 0x60 | .unitStopping => 0x61
  | .eccCorrected => 0x70 | .eccUncorrectable => 0x71 | .internal => 0x7F

/-- The status a code names, when it is not reserved (R986). -/
def Status.ofCode (n : Nat) : Option Status :=
  [Status.ok, .busy, .refusedSag, .xlateFault, .notResident, .permFault, .keyRevoked, .keyEpochRetired, .adapterAbsent,
   .adapterRevoked, .baseMismatch, .adapterPinned, .posLimit, .emptyRow, .nonfinite, .clipApplied, .repeatStep,
   .skipStep, .digestMismatch, .epochStale, .checkMismatch, .aliveRepeat, .aliveGap, .fenced, .unitStopping,
   .eccCorrected, .eccUncorrectable, .internal].find? fun s => s.code == n

/-- Failure statuses (R184). -/
def Status.isFailure : Status → Bool
  | .ok | .emptyRow | .clipApplied | .unitStopping | .eccCorrected => false
  | _ => true

/-! ### Event rings and interrupts (R849–R855) -/

/-- Raise MSI-X vector `v` of function `f`; a masked vector sets its pending bit (R855). -/
def raiseVector (f v : Nat) (s : Block) : Block :=
  s.modFunc f fun x =>
    if bitOf x.vecMask.toNat v then { x with vecPending := x.vecPending ||| (1#32 <<< v) }
    else { x with irqs := SMap.put 0 v (SMap.get 0 v x.irqs + 1) x.irqs }

/-- Event ring `r` of a function. -/
def Func.er (x : Func) (r : Nat) : EvRing := x.ers.getD r .init
def Func.setEr (x : Func) (r : Nat) (e : EvRing) : Func := { x with ers := x.ers.set r e }
def Func.cr (x : Func) (c : Nat) : CmdRing := x.crs.getD c .init
def Func.setCr (x : Func) (c : Nat) (e : CmdRing) : Func := { x with crs := x.crs.set c e }

/-- A host page of 4 KiB whose access fails: `some true` when it times out, `some false` when it is refused (R857). -/
def hostFail (s : Block) (a n : Nat) : Option Bool :=
  (s.mem.hostBad.find? fun e => a / 4096 ≤ e.1 && e.1 ≤ (a + n - 1) / 4096).map (·.2)

/-- An error is reported through AER on a function: its status stands once it is set (R858). -/
def reportAer (f : Nat) (e : AerError) (s : Block) : Block :=
  s.modFunc f fun x => { x with aer := if x.aer.contains e then x.aer else x.aer ++ [e] }

/-- A host access for function `f` that fails is reported on it (R857, R858). -/
def hostReport (f a n : Nat) (s : Block) : Block :=
  match hostFail s a n with
  | none => s
  | some timeout => reportAer f (if timeout then .timedOut else .refused) s

/-- Write to host memory. -/
def hostWrite (a : Nat) (bs : List Byte) (s : Block) : Block :=
  { s with mem := { s.mem with host := Mem.write s.mem.host a bs } }

/-- A page of 4 KiB enters the address-translation cache of 512 entries; which entry a full cache gives up is not stated
(R856). -/
def atsFill (f page : Nat) (s : Block) : Block :=
  if s.host.ats.contains (f, page) then s
  else
    let (i, s) := if s.host.ats.length < 512 then (512, s) else s.freeBelow 512
    { s with host := { s.host with ats := s.host.ats.eraseIdx i ++ [(f, page)] } }

/-- The pages a host access of function `f` touches are translated (R856). -/
def atsTouch (f a n : Nat) (s : Block) : Block :=
  (List.range ((a + n - 1) / 4096 - a / 4096 + 1)).foldl (fun s i => atsFill f (a / 4096 + i) s) s

/-- An event ring is full (R852). -/
def EvRing.full (e : EvRing) : Bool := decide (2 ^ e.size.toNat ≤ (e.tail - e.head).toNat)

/-- A record is dropped and counted (R852). -/
def dropRecord (f r : Nat) (s : Block) : Block :=
  s.modFunc f fun x =>
    let e := x.er r
    x.setEr r { e with lost := if e.lost = 0xFFFF then e.lost else e.lost + 1, lostUnreported := e.lostUnreported + 1 }

/-- Write record n of a ring with room at index n mod 2^SIZE_LOG2, with its PHASE (R851), and count it toward the
ring's interrupt (R854). A write the host refuses counts as dropped (R857). -/
def writeRecord (f r : Nat) (rec : List Byte) (s : Block) : Block :=
  let e := (s.func f).er r
  let n := e.tail.toNat
  let sz := e.size.toNat
  let a := e.base.toNat + 32 * (n % 2 ^ sz)
  if (hostFail s a 32).isSome then dropRecord f r (hostReport f a 32 s)
  else
    let phase := if bitOf n sz then 0#8 else 1#8
    let bytes := rec.take 6 ++ ((rec.getD 6 0) ||| phase) :: rec.drop 7
    let fire := decide (e.modCount.toNat ≤ e.sinceIrq + 1)
    let e' := { e with tail := e.tail + 1, sinceIrq := if fire then 0 else e.sinceIrq + 1 }
    let s := (hostWrite a bytes (atsTouch f a 32 s)).modFunc f fun x => x.setEr r e'
    if fire then raiseVector f e.vec.toNat s else s

/-- Post a 32-byte record (its PHASE still 0) to ring `r` of function `f`. A ring that is not enabled takes nothing
(DESIGN CHOICE, assumption 9); a full ring holds up to 256 records per function, then drops (R852). -/
def postRecord (f r : Nat) (rec : List Byte) (s : Block) : Block :=
  let x := s.func f
  let e := x.er r
  if !e.en then s
  else if e.full || x.held.any (fun h => h.1 == r) then
    if x.held.length < 256 then s.modFunc f fun x => { x with held := x.held ++ [(r, rec)] } else dropRecord f r s
  else writeRecord f r rec s

/-- The bytes of an event record (R849); a VF's time is rounded down to a multiple of 2^17 (R811). -/
def eventBytes (s : Block) (f : Nat) (st : Status) (source inst ctx flags slot : Nat) (detail : List Byte) : List Byte :=
  let time := if f = 0 then s.gl.timebase.toNat else s.gl.timebase.toNat / 2 ^ 17 * 2 ^ 17
  leBytes 1 st.code ++ leBytes 1 source ++ leBytes 2 inst ++ leBytes 2 ctx ++ leBytes 1 flags ++ leBytes 1 slot
    ++ leBytes 8 time ++ (detail ++ zeros 16).take 16

/-- Post an event record to ring 0 of function `f` (R849, R989). -/
def postEvent (f : Nat) (st : Status) (source inst ctx slot : Nat) (detail : List Byte) (s : Block) : Block :=
  postRecord f 0 (eventBytes s f st source inst ctx 0 slot detail) s

/-- An event record that firmware posts on behalf of no other block: the system core it names is a free choice (R980). -/
def postFirmware (f : Nat) (st : Status) (ctx : Nat) (detail : List Byte) (s : Block) : Block :=
  let (n, s) := s.freeBelow 8
  postEvent f st 0x00 n ctx 0xFF detail s

/-- An event of a basin unit to the function bound to its partition. -/
def postBasinEvent (b : Nat) (st : Status) (ctx slot : Nat) (detail : List Byte) (s : Block) : Block :=
  postEvent (s.fnOfBasin b) st 0x10 b ctx slot detail s

/-! ### Memory errors (R544–R553, R988, R1018) -/

/-- The detail of a memory-error record: the bits of `GL_ECC_LAST` with bit 63 set (R988). -/
def eccDetail (addr space : Nat) (patrol : Bool) : List Byte :=
  leBytes 8 (addr % 2 ^ 48 + space * 2 ^ 48 + b2n patrol * 2 ^ 50 + 2 ^ 63)

/-- Saturating count to 0xFFFF. -/
def sat16 (w : U16) : U16 := if w = 0xFFFF then w else w + 1

/-- The HBM3E stack of a T1 physical address (R512). -/
def stackOf (pa : Nat) : Nat := 3 * (pa / 0x1B_0000_0000) + pa / 65536 % 3

/-- Record an uncorrectable error in `GL_ECC_LAST` and post it to the physical function (R553, R988). -/
def eccLast (addr space : Nat) (patrol : Bool) (source inst slot : Nat) (s : Block) : Block :=
  let s := { s with gl := { s.gl with eccAddr := BitVec.ofNat 48 addr, eccSpace := BitVec.ofNat 2 space,
                                      eccPatrol := patrol, eccValid := true } }
  postEvent 0 .eccUncorrectable source inst 0xFFFF slot (eccDetail addr space patrol) s

/-- An uncorrectable T1 codeword is met. -/
def eccT1 (pa : Nat) (patrol : Bool) (source inst slot : Nat) (s : Block) : Block :=
  let k := stackOf pa
  let e := SMap.get EccCount.init k s.gl.t1Ecc
  let s := { s with gl := { s.gl with t1Ecc := SMap.put .init k { e with uncorrectable := sat16 e.uncorrectable } s.gl.t1Ecc } }
  eccLast (pa / 32 * 32) 0 patrol source inst slot s

/-- An uncorrectable T2 codeword is met. -/
def eccT2 (pa : Nat) (patrol : Bool) (source inst slot : Nat) (s : Block) : Block :=
  let k := pa / 2 ^ 40
  let e := SMap.get EccCount.init k s.gl.t2Ecc
  let s := { s with gl := { s.gl with t2Ecc := SMap.put .init k { e with uncorrectable := sat16 e.uncorrectable } s.gl.t2Ecc } }
  eccLast (pa / 32 * 32) 1 patrol source inst slot s

/-- The physical slot of a core (R29). -/
def Block.pslot (s : Block) (c : Nat) : Nat := SMap.get (c % 16) (c % 16) (s.basin (basinOf c)).phys

/-- An uncorrectable SRAM word of a core is met, at a byte offset of R1018. -/
def eccSram (c off : Nat) (patrol : Bool) (s : Block) : Block :=
  let s' := s.modCore c fun x => { x with regs := { x.regs with sramUncorrectable := sat16 x.regs.sramUncorrectable } }
  eccLast (off / 8 * 8 + s.pslot c * 2 ^ 20 + basinOf c * 2 ^ 25) 2 patrol 0x10 (basinOf c) (c % 16) s'

/-- A correction of a T1 codeword is counted and reported to the physical function (R545, R988). -/
def corrT1 (pa : Nat) (patrol : Bool) (s : Block) : Block :=
  let k := stackOf pa
  let e := SMap.get EccCount.init k s.gl.t1Ecc
  postFirmware 0 .eccCorrected 0xFFFF (eccDetail (pa / 32 * 32) 0 patrol)
    { s with gl := { s.gl with t1Ecc := SMap.put .init k { e with corrected := e.corrected + 1 } s.gl.t1Ecc } }

/-- A correction of a T2 codeword. -/
def corrT2 (pa : Nat) (patrol : Bool) (s : Block) : Block :=
  let k := pa / 2 ^ 40
  let e := SMap.get EccCount.init k s.gl.t2Ecc
  postFirmware 0 .eccCorrected 0xFFFF (eccDetail (pa / 32 * 32) 1 patrol)
    { s with gl := { s.gl with t2Ecc := SMap.put .init k { e with corrected := e.corrected + 1 } s.gl.t2Ecc } }

/-- The codewords with wrong symbols that a range touches. -/
def wrongIn (m : SMap SymErrs) (pa n : Nat) : SMap SymErrs := m.filter fun e => decide (e.1 < pa + n) && decide (pa < e.1 + 32)

/-- The first uncorrectable codeword of some (R546). -/
def firstBad (m : SMap SymErrs) : Option Nat := (m.find? fun e => (rsRead e.2).isNone).map (·.1)

/-- The bytes that a read at `pa` delivers: those stored, but for the symbols of codewords that the decoder takes for
others (R546). -/
def readThrough (m : SMap SymErrs) (pa : Nat) (bs : List Byte) : List Byte :=
  m.foldl (fun bs e =>
    match rsRead e.2 with
    | none => bs
    | some (still, _) => still.foldl (fun bs x =>
        if x.1 < 32 && pa ≤ e.1 + x.1 then bs.modify (e.1 + x.1 - pa) (· ^^^ BitVec.ofNat 8 x.2) else bs) bs) bs

/-- The T1 range touches a codeword with an uncorrectable error: the first such codeword. -/
def t1BadIn (s : Block) (pa n : Nat) : Option Nat := firstBad (wrongIn s.mem.t1Bad pa n)

/-- The T2 range touches an uncorrectable codeword. -/
def t2BadIn (s : Block) (pa n : Nat) : Option Nat := firstBad (wrongIn s.mem.t2Bad pa n)

/-- What a read of a T1 range delivers, where no codeword of it is uncorrectable (R545, R546). -/
def t1Data (s : Block) (pa n : Nat) : List Byte := readThrough (wrongIn s.mem.t1Bad pa n) pa (Mem.read s.mem.t1 pa n)
def t2Data (s : Block) (pa n : Nat) : List Byte := readThrough (wrongIn s.mem.t2Bad pa n) pa (Mem.read s.mem.t2 pa n)

/-- A read of a T1 range corrects codewords: each counts once (R545). The errors stay where they stand. -/
def t1Met (pa n : Nat) (s : Block) : Block :=
  (wrongIn s.mem.t1Bad pa n).foldl (fun s e =>
    match rsRead e.2 with
    | some (_, true) => corrT1 e.1 false s
    | _ => s) s
def t2Met (pa n : Nat) (s : Block) : Block :=
  (wrongIn s.mem.t2Bad pa n).foldl (fun s e =>
    match rsRead e.2 with
    | some (_, true) => corrT2 e.1 false s
    | _ => s) s

/-- The first SRAM word of a core with an uncorrectable error that a range touches. -/
def Core.badIn (c : Core) (off n : Nat) : Option Nat :=
  c.bad.find? fun a => decide (a < off + n) && decide (off < a + 8)

/-- The codewords with wrong symbols that a write of a range changes in part. -/
def partIn (m : SMap SymErrs) (pa n : Nat) : SMap SymErrs :=
  (wrongIn m pa n).filter fun e => !(decide (pa ≤ e.1) && decide (e.1 + 32 ≤ pa + n))

/-- A T1 write would change part of a codeword whose error cannot be corrected (R549). -/
def t1WriteBad (s : Block) (pa n : Nat) : Option Nat := firstBad (partIn s.mem.t1Bad pa n)

/-- The corrected data of a codeword that a write changes in part, before the write (R549). -/
def t1Correct (a : Nat) (s : Block) : Block :=
  let bs := t1Data s a 32
  let s := t1Met a 32 s
  { s with mem := { s.mem with t1 := Mem.write s.mem.t1 a bs } }

/-- Write bytes to T1 physical memory (R549): a codeword written in part is read and corrected first, and one whose read is
uncorrectable keeps the write from being made; every codeword that was written stands without errors. -/
def t1Write (pa : Nat) (bs : List Byte) (s : Block) : Block :=
  if (t1WriteBad s pa bs.length).isSome then s
  else
    let s := (partIn s.mem.t1Bad pa bs.length).foldl (fun s e => t1Correct e.1 s) s
    { s with mem := { s.mem with
        t1 := Mem.write s.mem.t1 pa bs
        t1Bad := s.mem.t1Bad.filter fun e => !(decide (e.1 < pa + bs.length) && decide (pa < e.1 + 32)) } }

/-! ### Stores that others do not see yet (R127, R131, R804) -/

/-- The previous secret retires once OLD_PAGES and OLD_INFLIGHT are both 0 (R804). -/
def KeySlot.retire (k : KeySlot) : KeySlot :=
  if k.st = .rotating && k.oldPages = 0 && k.oldInflight = 0 then { k with st := .active, prev := none } else k

/-- Count an access in flight at the previous epoch (R801). -/
def inflight (slot : Nat) (prev : Bool) (s : Block) : Block :=
  if prev then s.modSlot slot fun k => { k with oldInflight := k.oldInflight + 1 } else s

/-- An access in flight at the previous epoch has finished. -/
def landed (slot : Nat) (prev : Bool) (s : Block) : Block :=
  if prev then s.modSlot slot fun k => KeySlot.retire { k with oldInflight := k.oldInflight - 1 } else s

/-- A store touches a range of T1. -/
def Store.meets (x : Store) (pa n : Nat) : Bool := decide (x.pa < pa + n) && decide (pa < x.pa + x.bytes.length)

/-- A store becomes visible: its bytes are in T1. -/
def landStore (x : Store) (s : Block) : Block :=
  landed x.slot x.prev (t1Write x.pa x.bytes { s with stores := s.stores.erase x })

/-- The stores that `p` names become visible, in their order. -/
def landWhere (p : Store → Bool) (s : Block) : Block := (s.stores.filter p).foldl (fun s x => landStore x s) s

/-- A thread's own stores are in memory. -/
def landOwn (th : Nat) (s : Block) : Block := landWhere (fun x => x.th == th) s

/-- Every store to a range is in memory. -/
def landRange (pa n : Nat) (s : Block) : Block := landWhere (fun x => x.meets pa n) s

/-- An earlier store of the same thread to the same bytes is not visible yet (R127). -/
def storeBlocked (s : Block) (x : Store) : Bool := (s.stores.takeWhile (· ≠ x)).any fun y => y.th == x.th && y.meets x.pa x.bytes.length

/-- Others look: each store that `p` names has become visible or has not, which is not stated (R131); a thread's own stores
to one place become visible in their order (R127). -/
def landSeen (p : Store → Bool) (s : Block) : Block :=
  (s.stores.filter p).foldl (fun s x =>
    let (n, s) := s.freeBelow 2
    if n = 0 || storeBlocked s x then s else landStore x s) s

/-- A range of T1 is looked at. -/
def landLook (pa n : Nat) (s : Block) : Block := landSeen (fun x => x.meets pa n) s

/-- A range of T1, in whole codewords, is written with 0. -/
def t1Zero (pa n : Nat) (s : Block) : Block :=
  { s with mem := { s.mem with
      t1 := Mem.clear s.mem.t1 pa n
      t1Bad := s.mem.t1Bad.filter fun e => !(decide (e.1 < pa + n) && decide (pa < e.1 + 32)) } }

/-- Write bytes to T2, in whole codewords: the errors that stood in them are discarded (R549). -/
def t2Write (pa : Nat) (bs : List Byte) (s : Block) : Block :=
  { s with mem := { s.mem with
      t2 := Mem.write s.mem.t2 pa bs
      t2Bad := s.mem.t2Bad.filter fun e => !(decide (e.1 < pa + bs.length) && decide (pa < e.1 + 32)) } }

/-- A word from its fields, as (lowest bit, width, value). -/
def fields : List (Nat × Nat × Nat) → Nat
  | [] => 0
  | (lo, w, v) :: l => (v % 2 ^ w) * 2 ^ lo + fields l

/-- Write bytes to a core's tile store; a word written whole sheds its error (R1006). -/
def Core.tsWrite (c : Core) (off : Nat) (bs : List Byte) : Core :=
  { c with ts := Mem.write c.ts off bs
           bad := c.bad.filter fun a => !(decide (off ≤ a) && decide (a + 8 ≤ off + bs.length)) }

/-- Every issued transfer of a core that touches a tile-store range, and is not of queue `own`, notes that the range was
touched while it was in flight (R420). -/
def Core.markClash (c : Core) (own off n : Nat) : Core :=
  { c with tw := c.tw.map fun e =>
      if e.1 = own then e
      else (e.1, { e.2 with issued := e.2.issued.map fun t =>
        if off < t.ts + t.len && t.ts < off + n then { t with clash := (off, n) :: t.clash } else t }) }

/-- A running command of a core notes bytes that land in its tile store (R420). -/
def Cmd.noteLanded (core off : Nat) (bs : List Byte) (c : Cmd) : Cmd :=
  if c.core = core && c.phase = .running then { c with clash := c.clash ++ bs.zipIdx.map fun b => (off + b.2, b.1) } else c

/-- Every running command of a core's engines notes bytes that land in its tile store. -/
def Block.noteLanded (core off : Nat) (bs : List Byte) (s : Block) : Block :=
  let f := fun (l : List Cmd) => l.map (Cmd.noteLanded core off bs)
  (s.modCore core fun c => { c with q := { c.q with mx := f c.q.mx, cx := f c.q.cx, vx := f c.q.vx } }).modBasin (basinOf core)
    fun b => { b with mv := f b.mv, up := f b.up, rd := f b.rd }

/-- What is noted of a byte of a shard when the command itself or another writer writes it (R725). -/
def markByte (mine : Bool) (new : Byte) (y : Byte × Byte) : Byte × Byte := if mine then (new, y.2) else (y.1, new)

/-- Bytes from address `a` on, old and new, are written into a shard, of which what was noted from `a` on is given. -/
def markShardRun (mine : Bool) : Nat → List (Byte × Byte) → SMap (Byte × Byte) → SMap (Byte × Byte)
  | _, [], m => m
  | a, x :: l, [] => (a, markByte mine x.2 (x.1, x.1)) :: markShardRun mine (a + 1) l []
  | a, x :: l, (k, y) :: m =>
    if k = a then (a, markByte mine x.2 y) :: markShardRun mine (a + 1) l m
    else (a, markByte mine x.2 (x.1, x.1)) :: markShardRun mine (a + 1) l ((k, y) :: m)

/-- An `up.apply` notes bytes written into its shard. -/
def Cmd.markShard (mine : Bool) (va : Nat) (old new : List Byte) (c : Cmd) : Cmd :=
  { c with shard := c.shard.takeWhile (fun e => decide (e.1 < va))
                      ++ markShardRun mine va (old.zip new) (c.shard.dropWhile fun e => decide (e.1 < va)) }

/-- Bytes written in a context at a virtual address by a unit of a basin: every `up.apply` in a queue whose shard they belong
to notes the breach of R724. A basin's update unit itself breaks nothing. -/
def noteShard (unit basin ctx va : Nat) (old new : List Byte) (s : Block) : Block :=
  let hit := fun (c : Cmd) => c.code == 3 && c.refuse.isNone && s.ctxOf c.core == some ctx
    && c.guard.any fun g => decide (va < g.1 + g.2.1) && decide (g.1 < va + new.length)
  let other := fun (b : Nat) => !(unit == 6 && b == basin)
  if s.basins.any fun e => other e.1 && e.2.up.any hit then
    { s with basins := s.basins.map fun e =>
        (e.1, if other e.1 then
          { e.2 with up := e.2.up.map fun c => if hit c then { c.markShard false va old new with broken := true } else c }
          else e.2) }
  else s

/-- A program touches a tile-store range: a queued command that keeps it out notes the breach (R578, R579). -/
def Core.touchGuard (c : Core) (write : Bool) (off n : Nat) : Core :=
  let hit := fun (g : Nat × Nat × Bool) => decide (off < g.1 + g.2.1) && decide (g.1 < off + n) && (write || g.2.2)
  { c with q := { c.q with mx := c.q.mx.map fun x => { x with broken := x.broken || x.guard.any hit } } }

/-- A tile-store write would change part of a word whose error cannot be corrected (R1006). -/
def Core.tsWriteBad (c : Core) (off n : Nat) : Option Nat :=
  c.bad.find? fun a =>
    (decide (a < off + n) && decide (off < a + 8)) && !(decide (off ≤ a) && decide (a + 8 ≤ off + n))

/-! ### Taking a trap (R150–R157) -/

/-- The status of the event record of a thread that becomes HALTED (R155). -/
def haltStatus (cause : TrapCause) (st : Status) : Status :=
  match cause with
  | .memFault | .fetchFault => st
  | .privOp => .permFault
  | _ => .internal

/-- The encoding of R152. -/
def TrapCause.code : TrapCause → Nat
  | .none => 0 | .illegalOp => 1 | .privOp => 2 | .misaligned => 3 | .tsRange => 4 | .memFault => 5 | .fetchFault => 6
  | .brk => 7 | .icacheEcc => 8

/-- Firmware's event record for a HALTED thread (R155). Bytes 2–3 hold the thread number modulo 65,536: that of a system-core
thread does not fit 16 bits (DESIGN CHOICE, assumption 96). -/
def postHalt (th : Nat) (cause : TrapCause) (st : Status) (va : Nat) (s : Block) : Block :=
  let c := th / 16
  let detail := leBytes 1 cause.code ++ leBytes 1 0 ++ leBytes 2 th ++ leBytes 6 (s.thread th).pc.toNat ++ leBytes 6 va
  if isSystem c then postEvent 0 (haltStatus cause st) 0x00 (c - 4096) 0xFFFF 0xFF detail s
  else postEvent (s.fnOfBasin (basinOf c)) (haltStatus cause st) 0x10 (basinOf c) ((s.ctxOf c).getD 0xFFFF) (c % 16) detail s

/-- TAKING A TRAP: the thread stops at the boundary before the instruction, which has no effect (R150); the outcome is
the table's (R152): PARKED for the pager on NOT_RESIDENT, STOPPED for BREAK, else HALTED with an event record. -/
def takeTrap (th : Nat) (cause : TrapCause) (st : Status) (va : Nat) (s : Block) : Block :=
  let rec_ : Thread → Thread := fun t =>
    { t with cause := cause, status := st, faultVa := BitVec.ofNat 64 va, wait := .none }
  match cause, st with
  | .brk, _ => s.modThread th fun t => { rec_ t with st := .stopped }
  | .memFault, .notResident => s.modThread th fun t => { rec_ t with st := .parked, reason := .pager }
  | .fetchFault, .notResident => s.modThread th fun t => { rec_ t with st := .parked, reason := .pager }
  | _, _ => postHalt th cause st va (s.modThread th fun t => { rec_ t with st := .halted })

/-! ### Parks and wakes (R135–R138, R448) -/

/-- A thread whose wait is over becomes READY, or PARKED for the pager when a fault of a queue it armed is still to be
resolved (R448). -/
def Thread.release (t : Thread) : Thread :=
  if t.pagerDue then { t with st := .parked, reason := .pager, wait := .none, parkArg := 0 }
  else { t with st := .ready, reason := .none, wait := .none, parkArg := 0 }

/-- Set wake pending on thread `th`; a thread PARKED by `th.park` or `th.parkt` takes it and goes on past its park. -/
def wakeThread (th : Nat) (s : Block) : Block :=
  s.modThread th fun t =>
    if t.st = .parked && (t.reason = .park || t.reason = .parkt) then (t.next 4).release else { t with wake := true }

end Sys2Proof.Machine
end

