-- ==== Sys2Proof/Machine/Translate.lean ====
section
/-! DEFINITION. Translation and the checks of R516: the page walk, the basin TLBs and the walkers' pointer caches, key
slots, DIRTY, fault records, and reads and writes of device virtual memory. -/

namespace Sys2Proof.Machine

/-- The kinds of access (R516, R531): the ACCESS bits of a fault record. -/
abbrev accRead : Nat := 1
abbrev accWrite : Nat := 2
abbrev accExec : Nat := 4
abbrev accAtomic : Nat := 8

/-! ### Leaf fields (R514) -/

def leafValid (l : U64) : Bool := bitOf l.toNat 0
def leafIsLeaf (l : U64) : Bool := bitOf l.toNat 1
def leafHome (l : U64) : Nat := bitsOf l.toNat 2 2
def leafR (l : U64) : Bool := bitOf l.toNat 4
def leafW (l : U64) : Bool := bitOf l.toNat 5
def leafX (l : U64) : Bool := bitOf l.toNat 6
def leafPinned (l : U64) : Bool := bitOf l.toNat 7
def leafMoving (l : U64) : Bool := bitOf l.toNat 8
def leafDirty (l : U64) : Bool := bitOf l.toNat 9
def leafEpoch (l : U64) : Nat := bitsOf l.toNat 10 2
def leafFrame (l : U64) : Nat := bitsOf l.toNat 12 36 * 4096
def leafCfmt (l : U64) : Nat := bitsOf l.toNat 48 4
def leafSlot (l : U64) : Nat := bitsOf l.toNat 52 12

/-- Build a leaf from its fields. -/
def mkLeaf (home : Nat) (r w x pinned : Bool) (epoch frame cfmt slot : Nat) : U64 :=
  BitVec.ofNat 64 (1 + 2 + home * 4 + b2n r * 16 + b2n w * 32 + b2n x * 64 + b2n pinned * 128 + epoch * 1024
    + frame / 4096 * 4096 + cfmt * 2 ^ 48 + slot * 2 ^ 52)

/-- Set bits `[lo + len - 1 : lo]` of a leaf. -/
def setBits (l : U64) (lo len v : Nat) : U64 :=
  BitVec.ofNat 64 (l.toNat % 2 ^ lo + v % 2 ^ len * 2 ^ lo + l.toNat / 2 ^ (lo + len) * 2 ^ (lo + len))

/-- A translation that fails: the status of the failing check, the table entry that could not be read (check 2), and
whether the failing page is of 2 MiB. -/
structure XErr where
  st : Status
  entry : Option Nat := none
  big : Bool := false
  deriving DecidableEq, Repr

/-- What a walk finds: a leaf with its table address and size, or the failing check (R516 checks 1 and 2). -/
abbrev WalkResult := Except XErr (U64 × Nat × Bool)

/-- The table address of a leaf that stands in no table (assumption 7): above every T1 address. -/
def noTable : Nat := 2 ^ 48

/-- Bytes a page spans. -/
def pageSize (big : Bool) : Nat := if big then 0x20_0000 else 0x1_0000

/-- The leaf that a page-table entry at level 3 or 4 gives, when it is legal: valid, LEAF set, and for T1 an aligned frame
(R514, R516 check 1). The reserved HOME 0 is a home other than T1: check 6 fails on it. -/
def leafOk (l : U64) (big : Bool) : Bool :=
  leafValid l && leafIsLeaf l && (leafHome l != 1 || leafFrame l % pageSize big == 0)

/-- A legal pointer (R513). -/
def pointerOk (l : U64) : Bool :=
  leafValid l && !leafIsLeaf l && bitsOf l.toNat 2 6 == 0 && bitsOf l.toNat 48 16 == 0

/-- The table a pointer names. -/
def pointerNext (l : U64) : Nat := bitsOf l.toNat 8 40 * 256

/-- The table entry that the walk of `va` uses at a level, from the table at `t` (R511). -/
def entryAddr (t level va : Nat) : Nat :=
  match level with
  | 1 => t + 8 * bitsOf va 39 9
  | 2 => t + 8 * bitsOf va 30 9
  | 3 => t + 8 * bitsOf va 21 9
  | _ => t + 8 * bitsOf va 16 5

/-- One entry of a table in T1; an uncorrectable entry reads as none (check 2). -/
def readEntry (s : Block) (a : Nat) : Option U64 :=
  if (t1BadIn s a 8).isSome then none else some (BitVec.ofNat 64 (leNat (t1Data s a 8)))

/-- One entry of a table as it was written, whatever errors stand in its codeword. -/
def rawEntry (s : Block) (a : Nat) : Option U64 := some (BitVec.ofNat 64 (Mem.nat s.mem.t1 a 8))

/-- The walk's last level: the 64 KiB leaf. `rd` reads an entry at a level and address. -/
def walk4 (rd : Nat → Nat → Option U64) (t va : Nat) : WalkResult :=
  let a := entryAddr t 4 va
  match rd 4 a with
  | none => .error { st := .eccUncorrectable, entry := some a }
  | some l => if leafOk l false then .ok (l, a, false) else .error { st := .xlateFault }

/-- The walk's third level: a 2 MiB leaf or a pointer. -/
def walk3 (rd : Nat → Nat → Option U64) (t va : Nat) : WalkResult :=
  let a := entryAddr t 3 va
  match rd 3 a with
  | none => .error { st := .eccUncorrectable, entry := some a }
  | some l =>
    if leafIsLeaf l then (if leafOk l true then .ok (l, a, true) else .error { st := .xlateFault })
    else if pointerOk l then walk4 rd (pointerNext l) va else .error { st := .xlateFault }

/-- The walk of a context's tables for a 48-bit address (R511, R513, R514). -/
def walkFrom (rd : Nat → Nat → Option U64) (root va : Nat) : WalkResult :=
  match rd 1 (entryAddr root 1 va) with
  | none => .error { st := .eccUncorrectable, entry := some (entryAddr root 1 va) }
  | some l1 =>
    if !pointerOk l1 then .error { st := .xlateFault }
    else
      let a := entryAddr (pointerNext l1) 2 va
      match rd 2 a with
      | none => .error { st := .eccUncorrectable, entry := some a }
      | some l2 => if pointerOk l2 then walk3 rd (pointerNext l2) va else .error { st := .xlateFault }

/-- The walk for a context, its entries read by `rd`; firmware's direct context maps T1 physical addresses with every
permission (assumption 7). -/
def walkWith (s : Block) (rd : Nat → Nat → Option U64) (ctx va : Nat) : WalkResult :=
  if 2 ^ 48 ≤ va then .error { st := .xlateFault }
  else
    match s.context ctx with
    | none => .error { st := .xlateFault }
    | some c =>
      if c.direct then
        if va < 0xD8_0000_0000 then .ok (mkLeaf 1 true true true true 0 (va / 65536 * 65536) 0 0, noTable, false)
        else .error { st := .xlateFault }
      else walkFrom rd c.ptRoot va

/-- The walk with every entry read from T1. -/
def walk (s : Block) (ctx va : Nat) : WalkResult := walkWith s (fun _ a => readEntry s a) ctx va

/-- The walk of the tables as they were written. -/
def rawWalk (s : Block) (ctx va : Nat) : WalkResult := walkWith s (fun _ a => rawEntry s a) ctx va

/-- The entries that a walk reads from level `level` on: level, address and entry. -/
def walkTrail (rd : Nat → Nat → Option U64) (va : Nat) : Nat → Nat → Nat → List (Nat × Nat × U64)
  | 0, _, _ => []
  | n + 1, level, t =>
    match rd level (entryAddr t level va) with
    | none => []
    | some l =>
      (level, entryAddr t level va, l)
        :: (if level < 4 && pointerOk l then walkTrail rd va n (level + 1) (pointerNext l) else [])

/-- The entries that a context's walk reads. -/
def trailOf (s : Block) (rd : Nat → Nat → Option U64) (ctx va : Nat) : List (Nat × Nat × U64) :=
  match s.context ctx with
  | none => []
  | some c => if c.direct || 2 ^ 48 ≤ va then [] else walkTrail rd va 4 1 c.ptRoot

/-- The number a pointer of a walk is cached under: its level and the address bits above it. -/
def ptrKey (level va : Nat) : Nat := level * 2 ^ 40 + va / 2 ^ (48 - 9 * level)

/-- The pointers a die's walker caches (R520). -/
def ptrCache (s : Block) (die : Nat) : List (Nat × Nat × Nat) := SMap.get [] die s.mem.walkCache

/-- The pointer of a walk that a die's cache holds. -/
def cachedPtr (s : Block) (die ctx va level : Nat) : Option U64 :=
  ((ptrCache s die).find? fun e => e.1 == ctx && e.2.1 == ptrKey level va).map fun e => BitVec.ofNat 64 e.2.2

/-- Reading entries with each pointer that the die's cache holds taken from there. -/
def cachedRead (s : Block) (die ctx va : Nat) (level a : Nat) : Option U64 :=
  match (if level < 4 then cachedPtr s die ctx va level else none) with
  | some l => some l
  | none => readEntry s a

/-- Put one pointer into a die's cache of 256; which entry a full cache gives up is not stated (a free value). -/
def ptrFill (die ctx level va : Nat) (l : U64) (s : Block) : Block :=
  let c := (ptrCache s die).filter fun e => !(e.1 == ctx && e.2.1 == ptrKey level va)
  let (i, s) := if c.length < 256 then (256, s) else s.freeBelow 256
  { s with mem := { s.mem with
      walkCache := SMap.put [] die (c.eraseIdx i ++ [(ctx, ptrKey level va, l.toNat)]) s.mem.walkCache } }

/-- Cache the pointers of a walk (R520, R521). -/
def ptrFills (die ctx va : Nat) (trail : List (Nat × Nat × U64)) (s : Block) : Block :=
  trail.foldl (fun s e => if e.1 < 4 && pointerOk e.2.2 then ptrFill die ctx e.1 va e.2.2 s else s) s

/-- Corrections that a walk's reads of T1 make (R545): of the entries that the cache did not give. -/
def walkMet (s : Block) (die ctx va : Nat) (cached : Bool) (trail : List (Nat × Nat × U64)) : Block :=
  trail.foldl (fun s' e => if cached && e.1 < 4 && (cachedPtr s die ctx va e.1).isSome then s' else t1Met e.2.1 8 s') s

/-- A DIE'S WALKER FINDS A LEAF (R520): the walk's result and the entries it read. A walk whose pointers all hit the cache
reads the leaf alone; any other reads entries of T1 where the cache holds none and, for those it holds, the cached pointer
or T1's entry, which of the two is not stated. Where cached pointers no longer agree with the tables, the old ones or the
new ones serve, whichever is not stated (R527). -/
def walkerWalk (die ctx va : Nat) (s : Block) : (WalkResult × List (Nat × Nat × U64)) × Block :=
  let rd := cachedRead s die ctx va
  let all := trailOf s rd ctx va
  let hits := all.all fun e => e.1 == 4 || leafIsLeaf e.2.2 || (cachedPtr s die ctx va e.1).isSome
  let current := all.all fun e => e.1 == 4 || rawEntry s e.2.1 == some e.2.2
  let trail := trailOf s (fun _ a => readEntry s a) ctx va
  let (n, s') := if (hits && current) || trail = all then (1, s) else s.freeBelow 2
  if n = 0 then
    ((walk s ctx va, trail), walkMet s' die ctx va false trail)
  else ((walkWith s rd ctx va, all), walkMet s' die ctx va true all)

/-- Page address of `va`. -/
def pageBase (big : Bool) (va : Nat) : Nat := va / pageSize big * pageSize big

/-- The basin TLB's entry for a context and address (R519). -/
def tlbFind (b : Basin) (ctx va : Nat) : Option TlbEntry :=
  b.tlb.find? fun e => e.ctx == ctx && e.va == pageBase e.big va

/-- The set of 8 ways that a page's entry belongs to (R519: 128 sets of 8 ways; which bits index the sets is DESIGN
CHOICE, assumption 10: the low bits of the page number). -/
def tlbSet (va : Nat) (big : Bool) : Nat := va / pageSize big % 128

/-- Put an entry into a basin TLB: in one of the 8 ways of its set, an invalid one when there is one (R519); which of them
is not stated. -/
def tlbFill (b ctx va : Nat) (big : Bool) (leaf : U64) (s : Block) : Block :=
  let t := (s.basin b).tlb
  let page := pageBase big va
  let mine := t.filter fun e => tlbSet e.va e.big == tlbSet page big
  let ways := (List.range 8).filter fun w => !mine.any (·.way == w)
  let (i, s) := s.freeBelow (if ways.isEmpty then 8 else ways.length)
  let w := if ways.isEmpty then i else ways.getD i 0
  s.modBasin b fun x =>
    { x with tlb := (x.tlb.filter fun e => !(tlbSet e.va e.big == tlbSet page big && e.way == w))
                      ++ [{ ctx := ctx, va := page, big := big, leaf := leaf, way := w }] }

/-- What looking an address up gives: the walk's result, and the entries of a walk that a miss made, to be cached once the
access has passed its checks (R521). -/
structure Found where
  res : WalkResult
  trail : Option (List (Nat × Nat × U64)) := none

/-- A held entry no longer agrees with its leaf in T1: firmware changed it (R525). DIRTY set in T1 alone, through another
basin, is no change by firmware; MOVING is set in both (R464). -/
def staleEntry (e : TlbEntry) (cur : WalkResult) : Bool :=
  match cur with
  | .ok (l, _, big) => big != e.big || (e.leaf ^^^ l) &&& ~~~0x300#64 != 0 || (leafDirty e.leaf && !leafDirty l)
  | .error _ => true

/-- Look an address up through basin `b`'s TLB (R519–R521); a system core's access walks the tables. A store of
firmware to a table that is not visible yet may be from now on (R131). A held entry serves
without a walk. One that firmware has changed in T1 and not invalidated serves, or the new one does, whichever is not stated
(R527). -/
def lookup (b : Option Nat) (ctx va : Nat) (s : Block) : Found × Block :=
  let s := landSeen (fun x => isSystem (x.th / 16)) s
  match b with
  | none => ({ res := walk s ctx va }, (trailOf s (fun _ a => readEntry s a) ctx va).foldl (fun s e => t1Met e.2.1 8 s) s)
  | some b =>
    match tlbFind (s.basin b) ctx va with
    | some e =>
      let cur := rawWalk s ctx va
      let addr := match cur with
        | .ok (_, a, _) => a
        | .error _ => noTable
      if !staleEntry e cur then ({ res := .ok (e.leaf, addr, e.big) }, s)
      else
        let (n, s) := s.freeBelow 2
        if n = 0 then ({ res := .ok (e.leaf, addr, e.big) }, s)
        else
          let ((r, _), s) := walkerWalk (dieOfBasin b) ctx va s
          ({ res := r }, s)
    | none =>
      let s := s.modBasin b fun x => { x with tlbMisses := x.tlbMisses + 1 }
      let ((r, trail), s) := walkerWalk (dieOfBasin b) ctx va s
      ({ res := r, trail := some trail }, s)

/-- A walk that ended without a fault fills the TLB and the walker's cache (R519–R521). -/
def fillFrom (b : Option Nat) (ctx va : Nat) (l : U64) (big : Bool) (f : Found) (s : Block) : Block :=
  match b, f.trail with
  | some b, some trail => tlbFill b ctx va big l (ptrFills (dieOfBasin b) ctx va trail s)
  | _, _ => s

/-- Key slot `k` is in the context's key-slot set for this access (check 3; base reading grants reads only, R1015). -/
def slotHeld (s : Block) (ctx k acc : Nat) : Bool :=
  match s.context ctx with
  | none => false
  | some c => c.direct || c.slots.contains k || (c.baseRead.contains k && acc == accRead)

/-- The leaf grants the access kind (check 3). -/
def leafGrants (l : U64) (acc : Nat) : Bool :=
  if acc == accRead then leafR l else if acc == accWrite then leafW l else if acc == accExec then leafX l
  else leafR l && leafW l

/-- Checks 4 and 5: the slot's state and the page's epoch (R517, R793, R794). -/
def slotCheck (k : KeySlot) (epoch : Nat) : Option Status :=
  match k.st with
  | .active => if epoch = k.epoch.toNat then none else some .keyEpochRetired
  | .rotating => if epoch = k.epoch.toNat || epoch = (k.epoch - 1).toNat then none else some .keyEpochRetired
  | _ => some .keyRevoked

/-- Checks 3 to 6 of R516 on a leaf; firmware's direct context carries no key slot. -/
def leafCheck (s : Block) (ctx : Nat) (l : U64) (acc : Nat) : Option Status :=
  let direct := match s.context ctx with
    | some c => c.direct
    | none => false
  if !slotHeld s ctx (leafSlot l) acc || !leafGrants l acc then some .permFault
  else
    match (if direct then none else slotCheck (s.slot (leafSlot l)) (leafEpoch l)) with
    | some st => some st
    | none => if leafHome l = 1 then none else some .notResident

/-- A translated page of an access: its leaf, the leaf's table address, its size, and the physical address. -/
structure Xlate where
  leaf : U64
  leafAddr : Nat
  big : Bool
  pa : Nat
  deriving DecidableEq, Repr

/-- Translate one address and apply checks 1 to 6 (R516). -/
def translate (b : Option Nat) (ctx va acc : Nat) (s : Block) : Except XErr Xlate × Block :=
  let (f, s) := lookup b ctx va s
  match f.res with
  | .error e => (.error e, s)
  | .ok (l, a, big) =>
    match leafCheck s ctx l acc with
    | some st => (.error { st := st, big := big }, s)
    | none => (.ok { leaf := l, leafAddr := a, big := big, pa := leafFrame l + va % pageSize big }, fillFrom b ctx va l big f s)

/-- The 64 KiB units that an access of `n` bytes touches, by the first byte it touches in each (every page is a whole number
of them). -/
def unitsOf (va n : Nat) : List Nat :=
  (List.range ((va + n - 1) / 65536 - va / 65536 + 1)).map fun i => if i = 0 then va else (va / 65536 + i) * 65536

/-- Which of the checks a status belongs to (R516's order; check 2's and 7's status is told apart by the phase). -/
def checkOrder : Status → Nat
  | .xlateFault => 1 | .eccUncorrectable => 2 | .permFault => 3 | .keyRevoked => 4 | .keyEpochRetired => 5 | _ => 6

/-- A page of an access: its first byte there, its translation, and how many bytes the access has in it. -/
structure Part where
  va : Nat
  x : Xlate
  n : Nat
  deriving DecidableEq, Repr

/-- Of two failures, the one that R1016 takes: of the earlier check, and of the lower address for one check. -/
def firstFailure (a : XErr × Nat) (b : Option (XErr × Nat)) : Option (XErr × Nat) :=
  match b with
  | some x => if checkOrder a.1.st ≤ checkOrder x.1.st then some a else some x
  | none => some a

/-- Translate every page of an access up to `stop`, each once, check by check across its pages (R1016, R527): the first
failure in that order, with the first byte of the access in the failing page, or the translated pages. The units below
`skip` belong to a page that is done. -/
def translateAll (b : Option Nat) (ctx acc stop : Nat) : List Nat → Nat → Block → (Option (XErr × Nat) × List Part) × Block
  | [], _, s => ((none, []), s)
  | va :: rest, skip, s =>
    if va < skip then translateAll b ctx acc stop rest skip s
    else
      match translate b ctx va acc s with
      | (.ok x, s) =>
        let hi := pageBase x.big va + pageSize x.big
        let ((bad, ps), s) := translateAll b ctx acc stop rest hi s
        ((bad, { va := va, x := x, n := min stop hi - va } :: ps), s)
      | (.error e, s) =>
        let ((bad, ps), s) := translateAll b ctx acc stop rest (pageBase e.big va + pageSize e.big) s
        ((firstFailure (e, va) bad, ps), s)

/-- Translate an access of `n` bytes. -/
def translateAccess (b : Option Nat) (ctx acc va n : Nat) (s : Block) : (Option (XErr × Nat) × List Part) × Block :=
  translateAll b ctx acc (va + n) (unitsOf va n) 0 s

/-- R466: a write or an atomic waits, for a page of it is MOVING and no page of it fails checks 1 to 6. -/
def writeHeld (s : Block) (ctx va n acc : Nat) : Bool :=
  let ls := (unitsOf va n).map fun a => rawWalk s ctx a
  ls.all (fun r => match r with
    | .ok (l, _, _) => (leafCheck s ctx l acc).isNone
    | .error _ => false)
  && ls.any fun r => match r with
    | .ok (l, _, _) => leafMoving l
    | .error _ => false

/-- Set DIRTY at the first write through an entry (R523): in the T1 leaf, where it stands in a table, and in the TLB
entry. -/
def setDirty (b : Option Nat) (ctx va : Nat) (x : Xlate) (s : Block) : Block :=
  if leafDirty x.leaf then s
  else
    let cur := BitVec.ofNat 64 (leNat (t1Data s x.leafAddr 8))
    let s := if x.leafAddr = noTable then s else t1Write x.leafAddr (leBytes 8 (cur ||| 0x200).toNat) s
    match b with
    | none => s
    | some b => s.modBasin b fun y =>
        { y with tlb := y.tlb.map fun e =>
            if e.ctx == ctx && e.va == pageBase e.big va then { e with leaf := e.leaf ||| 0x200 } else e }

/-- Who made a faulting access, as a fault record names it (R531). -/
structure Who where
  unit : Nat
  inst : Nat
  basin : Nat
  slot : Nat
  ctx : Nat
  deriving DecidableEq, Repr

/-- A fault record as its 32 bytes (R531). -/
def FaultRec.bytes (r : FaultRec) : List Byte :=
  leBytes 1 r.status.code ++ leBytes 1 r.unit ++ leBytes 1 r.access ++ leBytes 1 r.inst ++ leBytes 2 r.basin ++ leBytes 1 r.slot
    ++ leBytes 1 0 ++ leBytes 2 r.ctx ++ zeros 6 ++ leBytes 8 r.va ++ leBytes 8 r.time

/-- The record that 32 bytes spell. -/
def FaultRec.ofBytes (bs : List Byte) : FaultRec :=
  { status := (Status.ofCode (fld bs 0 1)).getD .internal, unit := fld bs 1 1, access := fld bs 2 1, inst := fld bs 3 1,
    basin := fld bs 4 2, slot := fld bs 6 1, ctx := fld bs 8 2, va := fld bs 0x10 8, time := fld bs 0x18 8 }

/-- The walker writes a fault record to its die's ring and counts the fault in its basin (R531). System cores sit by
no walker; theirs write to the rings of dies 0 and 3 (assumption 13). The rings stand in firmware memory, at addresses that
the manual does not give: the state holds what they hold, oldest record first. -/
def faultRecord (w : Who) (st : Status) (acc va : Nat) (s : Block) : Block :=
  let die := dieOfBasin w.basin
  let r : FaultRec := { status := st, unit := w.unit, access := acc, inst := w.inst, basin := w.basin, slot := w.slot,
                        ctx := w.ctx, va := va, time := s.gl.timebase.toNat }
  let s := s.modBasin w.basin fun b => { b with tlbFaults := b.tlbFaults + 1 }
  { s with faults := SMap.put [] die (SMap.get [] die s.faults ++ [r.bytes]) s.faults }

/-- The outcome of an access to device memory. -/
abbrev Access := Except (Status × Nat)

/-- The bytes of translated pages with the corrections their reads make, or the first uncorrectable codeword with the
address of the access in its page (check 7). -/
def readPages : List Part → Block → Except (Nat × Nat) (List Byte) × Block
  | [], s => (.ok [], s)
  | p :: rest, s =>
    let s := landLook p.x.pa p.n s
    match t1BadIn s p.x.pa p.n with
    | some a => (.error (a, p.va), s)
    | none =>
      match readPages rest (t1Met p.x.pa p.n s) with
      | (.error a, s') => (.error a, s')
      | (.ok bs, s') => (.ok (t1Data s p.x.pa p.n ++ bs), s')

/-- Check 7 fails: the error is counted and reported, at virtual address `va`. -/
def eccAccess (w : Who) (pa : Nat) (s : Block) : Block := eccT1 pa false 0x10 w.basin w.slot s

/-- An access fails a check of its translation: its fault record, and for an unreadable table entry its error's reports
(R516, R531, R988). -/
def xlateFail (w : Who) (e : XErr) (acc va : Nat) (s : Block) : Block :=
  match e.entry with
  | some a => faultRecord w e.st acc va (eccAccess w a s)
  | none => faultRecord w e.st acc va s

/-- Read `n` bytes at a device virtual address through translation with every check of R516; a fault leaves its
record. -/
def vread (w : Who) (b : Option Nat) (va n : Nat) (s : Block) : Access (List Byte) × Block :=
  match translateAccess b w.ctx accRead va n s with
  | ((some (e, fva), _), s) => (.error (e.st, fva), xlateFail w e accRead fva s)
  | ((none, ps), s) =>
    match readPages ps s with
    | (.ok bs, s) => (.ok bs, s)
    | (.error (pa, fva), s) => (.error (.eccUncorrectable, fva), faultRecord w .eccUncorrectable accRead fva (eccAccess w pa s))

/-- Write the bytes of an access page by page. -/
def writePages : List Part → List Byte → Block → Block
  | [], _, s => s
  | p :: rest, bs, s => writePages rest (bs.drop p.n) (t1Write p.x.pa (bs.take p.n) (landLook p.x.pa p.n s))

/-- Set DIRTY on every page of a write. -/
def dirtyPages (b : Option Nat) (ctx : Nat) (ps : List Part) (s : Block) : Block :=
  ps.foldl (fun s p => setDirty b ctx p.va p.x s) s

/-- The first codeword that makes a write impossible (R549), with the address of the access in its page. -/
def pagesWriteBad (s : Block) (ps : List Part) : Option (Nat × Nat) :=
  ps.findSome? fun p => (t1WriteBad s p.x.pa p.n).map fun a => (a, p.va)

/-- Write bytes at a device virtual address through translation with every check (R516, R523, R549). Who makes the write
has seen that no page of it is MOVING (`writeHeld`). -/
def vwrite (w : Who) (b : Option Nat) (va : Nat) (bs : List Byte) (s : Block) : Access Unit × Block :=
  match translateAccess b w.ctx accWrite va bs.length s with
  | ((some (e, fva), _), s) => (.error (e.st, fva), xlateFail w e accWrite fva s)
  | ((none, ps), s) =>
    let s := dirtyPages b w.ctx ps s
    match pagesWriteBad s ps with
    | some (pa, fva) => (.error (.eccUncorrectable, fva), faultRecord w .eccUncorrectable accWrite fva (eccAccess w pa s))
    | none =>
      let old := ps.flatMap fun p => Mem.read s.mem.t1 p.x.pa p.n
      (.ok (), writePages ps bs (noteShard w.unit w.basin w.ctx va old bs s))

/-- The basin whose TLB serves a core; none for a system core. -/
def tlbOf (core : Nat) : Option Nat := if isSystem core then none else some (basinOf core)

/-- A thread as the maker of an access; unit 1 is a thread's access, unit 2 an instruction fetch (R531). -/
def whoThread (s : Block) (th unit : Nat) : Who :=
  let c := th / 16
  if isSystem c then { unit := unit, inst := th % 16, basin := if c < 4100 then 0 else 96, slot := 0xFF, ctx := 0 }
  else { unit := unit, inst := th % 16, basin := basinOf c, slot := c % 16, ctx := (s.ctxOf c).getD 0xFFFF }

/-- An engine of a core as the maker of an access. -/
def whoCore (s : Block) (c unit inst : Nat) : Who :=
  if isSystem c then { unit := unit, inst := inst, basin := if c < 4100 then 0 else 96, slot := 0xFF, ctx := 0 }
  else { unit := unit, inst := inst, basin := basinOf c, slot := c % 16, ctx := (s.ctxOf c).getD 0xFFFF }

end Sys2Proof.Machine
end

