-- ==== Sys2Proof/Machine/Crypt.lean ====
section
/-! DEFINITION. Keys derived from a slot's secrets and the sealing of transfers that leave the module (R795, R799). T1
and T2 hold their pages' plaintext: the encryption of R796 is undone at every access the checks of R516 allow, so no
access can see it (assumption 22). -/

namespace Sys2Proof.Machine

/-- A 256-bit secret as bytes, most significant first (assumption 3). -/
def secretBytes (k : BitVec 256) : List Byte := beBytes 32 k.toNat
def gcmKey (k : BitVec 256) : List Byte := hkdf (zeros 48) (secretBytes k) (ascii "hts gcm") 32
def keyTag (k : BitVec 256) : List Byte := hkdf (zeros 48) (secretBytes k) (ascii "hts tag") 16
/-- The page key pair of R795, R796. -/
def xtsKey (k : BitVec 256) : List Byte := hkdf (zeros 48) (secretBytes k) (ascii "hts xts") 64

/-- A slot that allows accesses (R793). -/
def KeySlot.usable (k : KeySlot) : Bool := decide (k.st = .active) || decide (k.st = .rotating)

/-- The secret of an epoch of a slot. -/
def KeySlot.secretAt (k : KeySlot) (epoch : Nat) : Option Secret :=
  if epoch = k.epoch.toNat then k.cur
  else if k.st = .rotating && epoch = (k.epoch - 1).toNat then k.prev else none

/-- The IV of a secret's next encryption (R799). -/
def Secret.iv (x : Secret) : List Byte := beBytes 4 x.ivPrefix.toNat ++ beBytes 8 x.counter.toNat

/-- Seal a transfer under a slot's current secret (R799): ciphertext, IV, tag and epoch, with the counter advanced; or
the status it fails with. Slot 0 of firmware's direct context seals nothing. -/
def sealUnder (slot : Nat) (aad pt : List Byte) (s : Block) : Except Status (List Byte × List Byte × List Byte × Nat) × Block :=
  let k := s.slot slot
  match k.usable, k.cur with
  | true, some x =>
    if x.counter = BitVec.allOnes 64 then (.error .internal, s)
    else
      let out := Config.gcmSeal (gcmKey x.key) x.iv aad pt
      (.ok (out.take pt.length, x.iv, (out.drop pt.length).take 16, k.epoch.toNat),
        s.modSlot slot fun k => { k with cur := some { x with counter := x.counter + 1 } })
  | _, _ => (.error .keyRevoked, s)

/-- Open a sealed transfer (R794, R799, R806): the plaintext, or the status it is dropped with. -/
def openUnder (slot epoch : Nat) (iv aad ct tag : List Byte) (s : Block) : Except Status (List Byte) :=
  let k := s.slot slot
  if !k.usable then .error .keyRevoked
  else
    match slotCheck k epoch, k.secretAt epoch with
    | none, some x =>
      match Config.gcmOpen (gcmKey x.key) iv aad (ct ++ tag) with
      | some pt => .ok pt
      | none => .error .checkMismatch
    | _, _ => .error .keyEpochRetired

/-- A sealed record as it travels: ciphertext, IV, tag, then the epoch in one byte (assumption 23). -/
def sealBytes (x : List Byte × List Byte × List Byte × Nat) : List Byte := x.1 ++ x.2.1 ++ x.2.2.1 ++ leBytes 1 x.2.2.2

/-- The parts of a sealed record of 29 bytes and more. -/
def openBytes (bs : List Byte) : List Byte × List Byte × List Byte × Nat :=
  let n := bs.length - 29
  (bs.take n, (bs.drop n).take 12, (bs.drop (n + 12)).take 16, fld bs (n + 28) 1)

/-- Accesses and records refused with KEY_EPOCH_RETIRED, and transfers dropped under R806 (`ME_DROPS`). -/
def countDrop (st : Status) (s : Block) : Block :=
  match st with
  | .keyRevoked => { s with revokedDrops := s.revokedDrops + 1 }
  | .keyEpochRetired => { s with epochRetired := s.epochRetired + 1 }
  | _ => s

end Sys2Proof.Machine
end

