-- ==== Sys2Proof/Machine/Operands.lean ====
section
/-! DEFINITION. The operand forms of the instruction rows: the issue of one instruction by a thread, register and
immediate operands, effective addresses, and where a jump goes. -/

namespace Sys2Proof.Machine

/-- What a meaning answers. -/
abbrev Result := Host.Outcome State Fault Refusal
/-- What a command does to the block. -/
abbrev BlockResult := Host.Outcome Block Fault Refusal

/-- A command changes the block and leaves the queue of waiting commands as it is. -/
def onBlock (s : State) (f : Block → BlockResult) : Result :=
  match f s.block with
  | .next b => .next { s with block := b }
  | .fault r => .fault r
  | .refused r => .refused r

/-- A command whose operands name units the module has changes the state by `f`. -/
def within (ok : Bool) (s : Block) (f : Block → Block) : BlockResult := if ok then .next (f s) else .fault .noSuchUnit

/-! ### The instruction cache (R1009) -/

/-- The cache of a core holds the line of a virtual address for its context. -/
def Core.holdsLine (c : Core) (ctx va : Nat) : Bool := c.icache.any fun l => l.ctx == ctx && l.va == va / 64 * 64

/-- The SRAM offset of a line: R1018 gives the array's range, and which line of it a set and a way hold is DESIGN CHOICE
(assumption 95): sets in order, the four ways of a set together. -/
def ICLine.sram (l : ICLine) : Nat := 0xB8000 + (l.set * 4 + l.way) * 64

/-- A held line of a virtual address with an uncorrectable word. -/
def Core.lineBad (c : Core) (ctx va : Nat) : Bool :=
  c.icache.any fun l => l.ctx == ctx && l.va == va / 64 * 64 && (c.badIn l.sram 64).isSome

/-- The address of the last word of an instruction of one or two words at the program counter. -/
def lastWord (pc : Nat) (two : Bool) : Nat := if two then pc + 4 else pc

/-- Every line of the instruction at the program counter is held and sound: the fetch of R104 hits. -/
def fetchHits (s : Block) (th : Nat) (two : Bool) : Bool :=
  let c := s.core (th / 16)
  let ctx := (s.ctxOf (th / 16)).getD 0xFFFF
  let pc := (s.thread th).pc.toNat
  c.holdsLine ctx pc && !c.lineBad ctx pc && c.holdsLine ctx (lastWord pc two) && !c.lineBad ctx (lastWord pc two)

/-- Thread `th` can issue an instruction of one word (or two) now: it is READY, its fetch hits and it is its turn (R99–R101,
R104). -/
def canIssue (s : Block) (th : Nat) (two : Bool) : Bool :=
  decide (th < threadCount) && decide ((s.thread th).st = .ready) && fetchHits s th two && issueTurn s th

/-- The line the thread waits for on a miss: the first missing or unsound one, with the address of the instruction's last
word. A line with an uncorrectable word is dropped, counted and refetched (R152 ICACHE_ECC). -/
def fetchMiss (th : Nat) (two : Bool) (s : Block) : Block :=
  let c := s.core (th / 16)
  let ctx := (s.ctxOf (th / 16)).getD 0xFFFF
  let pc := (s.thread th).pc.toNat
  let va := if c.holdsLine ctx pc && !c.lineBad ctx pc then lastWord pc two else pc
  let wait := fun s : Block => s.modThread th fun t => { t with st := .waiting, wait := .fetch (va / 64 * 64) (c.lineBad ctx va) (lastWord pc two) }
  if c.lineBad ctx va then
    let off := ((c.icache.find? fun l => l.ctx == ctx && l.va == va / 64 * 64).map (·.sram)).getD 0xB8000
    let s := if isSystem (th / 16) then s else eccSram (th / 16) ((c.badIn off 64).getD off) false s
    wait (s.modCore (th / 16) fun c =>
      { c with icache := c.icache.filter (fun l => !(l.ctx == ctx && l.va == va / 64 * 64))
               bad := c.bad.filter fun a => !(decide (off ≤ a) && decide (a < off + 64)) })
  else wait s

/-- Thread `th` issues an instruction: one that the thread is not READY for has no effect (R100); one whose fetch
misses leaves the thread WAITING for its line (R104); one out of its turn has no effect (R101); else its effect is `f`, and
the core notes the thread as the last that issued. -/
def issue (th : Nat) (two : Bool) (s : Block) (f : Block → Block) : BlockResult :=
  if threadCount ≤ th then .fault .noSuchUnit
  else if (s.thread th).st ≠ .ready then .next s
  else if !fetchHits s th two then .next (fetchMiss th two s)
  else if issueTurn s th then .next (noted th (f s))
  else .next s

/-- Every predicate of a list holds its result: no engine command has still to write one (R103). -/
def predsReady (s : Block) (th : Nat) (ps : List Pred) : Bool := ps.all fun p => !(s.thread th).pPend.getLsbD p.toNat

/-- As `issue`, for an instruction of one word that reads or writes predicates: one that an unfinished engine command
has still to write leaves the thread WAITING for it (R103). -/
def issueP (th : Nat) (ps : List Pred) (s : Block) (f : Block → Block) : BlockResult :=
  if decide (th < threadCount) && decide ((s.thread th).st = .ready) && fetchHits s th false && !predsReady s th ps then
    .next (s.modThread th fun t => { t with st := .waiting, wait := .operand })
  else issue th false s f

/-! ### Operands -/

/-- The value of g register `r` of a thread. -/
def Block.g (s : Block) (th : Nat) (r : Reg) : U64 := (s.thread th).getG r

/-- gD becomes a function of gA and gB (R110). -/
def regReg (th : Nat) (d a b : Reg) (f : U64 → U64 → U64) (s : Block) : Block := finishG th d (f (s.g th a) (s.g th b)) s

/-- gD becomes a function of gA. -/
def regOne (th : Nat) (d a : Reg) (f : U64 → U64) (s : Block) : Block := finishG th d (f (s.g th a)) s

/-- A two-word instruction writes gD. -/
def finishLong (th : Nat) (d : Reg) (v : U64) (s : Block) : Block := s.modThread th fun t => (t.setG d v).next 8

/-- Bytes of an access size (R123). -/
def sizeBytes (size : BitVec 2) : Nat := 2 ^ size.toNat

/-- The effective address gA + sext(F) × size (R123), as an unsigned 64-bit value. -/
def effAddr (s : Block) (th : Nat) (a : Reg) (size : BitVec 2) (off : BitVec 11) : U64 :=
  s.g th a + off.signExtend 64 * BitVec.ofNat 64 (sizeBytes size)

/-- A loaded value of `n` bytes, sign- or zero-extended to 64 bits (R123). -/
def extendTo64 (n : Nat) (sx : Bool) (v : Nat) : U64 :=
  if sx then BitVec.ofInt 64 (sextInt (8 * n) v) else BitVec.ofNat 64 (v % 2 ^ (8 * n))

/-- The target of a jump of a signed word offset from an instruction's first word (R118, R119, R121). -/
def jumpTarget (pc : BitVec 48) (off : BitVec 48) : BitVec 48 := pc + off * 4

/-- Bytes at a virtual address, as the checks of R516 would let a read see them now, with no effect. -/
def peek (s : Block) (ctx va n : Nat) : Option (List Byte) :=
  match walk s ctx va with
  | .ok (l, _, big) =>
    match leafCheck s ctx l accRead with
    | none =>
      let pa := leafFrame l + va % pageSize big
      if (t1BadIn s pa n).isSome then none else some (Mem.read s.mem.t1 pa n)
    | some _ => none
  | .error _ => none

/-- Write bytes of one page, all but those in codewords that cannot be corrected (R549). -/
def writeAround (ctx va : Nat) (bs : List Byte) (s : Block) : Block :=
  match walk s ctx va with
  | .ok (l, _, big) => bs.zipIdx.foldl (fun s x => t1Write (leafFrame l + va % pageSize big + x.2) [x.1] s) s
  | .error _ => s

/-- The table entry that a walk cannot read, when it ends at one. -/
def walkEntry (s : Block) (ctx va : Nat) : Option Nat :=
  match walk s ctx va with
  | .error e => e.entry
  | .ok _ => none

/-- The fetch translation of a jump target, without a record: whether it would fault, and how. -/
def fetchStatus (s : Block) (th va : Nat) : Option Status :=
  let ctx := (s.ctxOf (th / 16)).getD 0xFFFF
  if (s.core (th / 16)).holdsLine ctx va then none
  else
    match walk s ctx va with
    | .error e => some e.st
    | .ok (l, _, _) => leafCheck s ctx l accExec

/-- A fetch fault: the walker's record and the trap (R122, R152, R531). -/
def fetchFault (th : Nat) (e : XErr) (va : Nat) (s : Block) : Block :=
  takeTrap th .fetchFault e.st va (xlateFail (whoThread s th 2) e accExec va s)

/-- The thread continues at `target`; a target it may not fetch traps there with FETCH_FAULT (R122). -/
def jumpTo (th : Nat) (target : BitVec 48) (s : Block) : Block :=
  let s := s.modThread th fun t => { t with pc := target &&& ~~~3#48 }
  let va := (s.thread th).pc.toNat
  match fetchStatus s th va with
  | none => s
  | some st => fetchFault th { st := st, entry := (walkEntry s ((s.ctxOf (th / 16)).getD 0xFFFF) va) } va s

/-! ### Lock chambers as operands (R424–R427) -/

/-- Ranges `[a, a + n)` and `[b, b + m)` touch. -/
def overlap (a n b m : Nat) : Bool := decide (a < b + m) && decide (b < a + n)

/-- The base of a pair's chamber. -/
def Pair.chamber (p : Pair) (upper : Bool) : Nat := if upper then p.base + p.half else p.base

/-- The first enabled pair whose stream chamber a tile-store range touches, with the chamber (R425, R427). -/
def Core.streamTouch (c : Core) (off n : Nat) : Option (Nat × Bool) :=
  (c.pairs.find? fun e => e.2.enabled && overlap off n (e.2.chamber (!e.2.upperCompute)) e.2.half).map
    fun e => (e.1, !e.2.upperCompute)

/-- The first enabled pair whose compute chamber a tile-store range touches (R426). -/
def Core.computeTouch (c : Core) (off n : Nat) : Option (Nat × Bool) :=
  (c.pairs.find? fun e => e.2.enabled && overlap off n (e.2.chamber e.2.upperCompute) e.2.half).map
    fun e => (e.1, e.2.upperCompute)

/-- The instruction cannot take effect yet: the thread is WAITING for `w` and issues the word again afterwards. -/
def waitFor (th : Nat) (w : WaitOp) (s : Block) : Block := s.modThread th fun t => { t with st := .waiting, wait := w }

end Sys2Proof.Machine
end

