-- ==== Sys2Proof/Machine/Kreash.lean ====
section
/-! DEFINITION. Kreash links: flits, routes, virtual streams, records, check-value units and link states (R873–R895). -/

namespace Sys2Proof.Machine

/-! ### Links, routes, streams -/

def Kreash.link (k : Kreash) (l : Nat) : Link := SMap.get Link.init l k.links
def Block.link (s : Block) (l : Nat) : Link := s.kreash.link l
def Block.modKreash (s : Block) (f : Kreash → Kreash) : Block := { s with kreash := f s.kreash }
def Block.modLink (s : Block) (l : Nat) (f : Link → Link) : Block :=
  s.modKreash fun k => { k with links := SMap.put Link.init l (f (k.link l)) k.links }
def Block.vsCfg (s : Block) (v : Nat) : VsCfg := SMap.get VsCfg.init v s.kreash.vs

/-- The number of a stream end: (module, VS). -/
def endKey (m v : Nat) : Nat := m * 1024 + v
def Block.rxStream (s : Block) (src v : Nat) : RxStream := SMap.get RxStream.init (endKey src v) s.kreash.rx
def Block.modRx (s : Block) (src v : Nat) (f : RxStream → RxStream) : Block :=
  s.modKreash fun k => { k with rx := SMap.put RxStream.init (endKey src v) (f (SMap.get RxStream.init (endKey src v) k.rx)) k.rx }
def Block.txStream (s : Block) (dst v : Nat) : TxStream := SMap.get TxStream.init (endKey dst v) s.kreash.tx
def Block.modTx (s : Block) (dst v : Nat) (f : TxStream → TxStream) : Block :=
  s.modKreash fun k => { k with tx := SMap.put TxStream.init (endKey dst v) (f (SMap.get TxStream.init (endKey dst v) k.tx)) k.tx }

/-- The link the route table names for a destination (R878): none when it names no link, or one that is not UP. -/
def routeLink (s : Block) (dst : Nat) : Option Nat :=
  let e := SMap.get (BitVec.allOnes 64) (dst / 16) s.kreash.routes
  let l := bitsOf e.toNat (4 * (dst % 16)) 4
  if l < 12 && (s.link l).st = .up then some l else none

/-- A flit leaves on a link (R880: in order). -/
def putFlit (l : Nat) (f : List Byte) (s : Block) : Block := s.modLink l fun x => { x with sent := x.sent ++ [f] }

/-- A flit (R876, R892). -/
def mkFlit (dst src vs falive len flags credit : Nat) (payload : List Byte) : List Byte :=
  let head := leBytes 2 dst ++ leBytes 2 src ++ leBytes 2 vs ++ leBytes 2 falive ++ leBytes 1 len ++ leBytes 1 flags
    ++ leBytes 2 credit ++ payload ++ zeros (240 - payload.length)
  head ++ leBytes 4 (crc32c head)

/-! ### Sending records (R879, R884, R888, R890, R893, R894) -/

/-- The stream trailer of a record. -/
def withTrailer (poly : Bool) (alive : Nat) (bs : List Byte) : List Byte :=
  if poly then
    let b := bs ++ leBytes 2 alive ++ zeros 6
    b ++ leBytes 8 (crc64nvme b)
  else
    let b := bs ++ leBytes 2 alive ++ zeros 2
    b ++ leBytes 4 (crc32c b)

/-- The flits of a record, from the sender's FALIVE on. -/
def recordFlits (dst src vs : Nat) (bs : List Byte) : Nat → Nat → Nat → List (List Byte)
  | 0, _, _ => []
  | n + 1, i, fa =>
    let p := (bs.drop (240 * i)).take 240
    let flags := b2n (i == 0) + 2 * b2n (n == 0)
    mkFlit dst src vs (fa % 65536) p.length flags 0 p :: recordFlits dst src vs bs n (i + 1) (fa + 1)

/-- A record is sent: its trailer, its flits, and one credit. A destination without a usable link loses it. -/
def sendNow (r : TxRecord) (s : Block) : Block :=
  let t := s.txStream r.dst r.vs
  let bs := withTrailer (s.vsCfg r.vs).poly t.alive.toNat r.bytes
  let n := ceilDiv bs.length 240
  let flits := recordFlits r.dst s.kreash.moduleId.toNat r.vs bs n 0 t.falive.toNat
  let s := s.modTx r.dst r.vs fun t =>
    { t with alive := t.alive + 1, falive := t.falive + BitVec.ofNat 16 n, owed := t.owed + 1 }
  let link := match r.link with
    | some l => if (s.link l).st = .up then some l else none
    | none => routeLink s r.dst
  match link with
  | some l => flits.foldl (fun s f => putFlit l f s) s
  | none => s

/-- Credits held toward a destination: RX_DEPTH of the stream, as this module has it, less those that have not returned
(R888; DEDUCED, assumption 44). -/
def txCredits (s : Block) (dst vs : Nat) : Nat := (s.vsCfg vs).rxDepth.toNat + 1 - (s.txStream dst vs).owed

/-- Send a record, or hold it until a credit returns (R888). -/
def sendRecord (r : TxRecord) (s : Block) : Block :=
  if 0 < txCredits s r.dst r.vs && !s.kreash.outbox.any (fun x => x.dst == r.dst && x.vs == r.vs) then sendNow r s
  else s.modKreash fun k => { k with outbox := k.outbox ++ [r] }

/-- Send what the credits toward (dst, vs) now allow. -/
def drainOutbox (dst vs : Nat) : Nat → Block → Block
  | 0, s => s
  | n + 1, s =>
    if txCredits s dst vs = 0 then s
    else
      match s.kreash.outbox.find? fun x => x.dst == dst && x.vs == vs with
      | none => s
      | some r =>
        drainOutbox dst vs n (sendNow r (s.modKreash fun k => { k with outbox := k.outbox.erase r }))

/-- Return credits to a sender in a credit-only flit (R888). -/
def returnCredits (src vs n : Nat) (s : Block) : Block :=
  match routeLink s src with
  | none => s
  | some l => putFlit l (mkFlit src s.kreash.moduleId.toNat vs 0 0 4 (vs + 1024 * n) []) s

/-! ### Receiving flits (R875–R879) -/

/-- The checks of R877. -/
def flitOk (f : List Byte) : Bool :=
  let len := fld f 8 1
  let flags := fld f 9 1
  let type := bitsOf flags 2 2
  f.length == 256 && fld f 0xFC 4 == crc32c (f.take 252) && fld f 0 2 / 4096 == 0 && fld f 2 2 / 4096 == 0
    && fld f 4 2 / 1024 == 0 && flags / 16 == 0 && type != 3
    && (if type = 1 then len == 0 else 1 ≤ len && len ≤ 240)

/-- ASM_DROP of a link (R879). -/
def asmDrop (l : Nat) (s : Block) : Block := s.modLink l fun x => { x with asmDrop := x.asmDrop + 1 }

/-- The payload of an accepted flit joins its record; at EOR the record goes to its check-value unit. -/
def assemble (l src vs : Nat) (f : List Byte) (s : Block) : Block :=
  let sor := bitOf (fld f 9 1) 0
  let eor := bitOf (fld f 9 1) 1
  let r := s.rxStream src vs
  if !sor && (r.skipping || r.assembly.isEmpty) then s
  else
    let bs := (if sor then [] else r.assembly) ++ (f.drop 12).take (fld f 8 1)
    if eor then
      (s.modRx src vs fun r => { r with assembly := [], skipping := false }).modKreash fun k =>
        { k with assembled := k.assembled ++ [({ src := src, vs := vs, link := l, bytes := bs } : RxRecord)] }
    else s.modRx src vs fun r => { r with assembly := bs, skipping := false }

/-- A data flit for this module (R879). A stream that is not enabled takes nothing (assumption 24). -/
def rxData (l : Nat) (f : List Byte) (s : Block) : Block :=
  let src := fld f 2 2
  let vs := fld f 4 2
  if !(s.vsCfg vs).en then asmDrop l s
  else
    let e := (s.rxStream src vs).falive.toNat
    let d := (fld f 6 2 + 65536 - e) % 65536
    if d = 0 then assemble l src vs f (s.modRx src vs fun r => { r with falive := r.falive + 1 })
    else if 32768 ≤ d then asmDrop l s
    else
      let s := asmDrop l (s.modRx src vs fun r =>
        { r with assembly := [], skipping := true, falive := BitVec.ofNat 16 (fld f 6 2 + 1) })
      if bitOf (fld f 9 1) 0 then assemble l src vs f s else s

/-- Credits carried by any flit toward this module (R888). -/
def rxCredits (f : List Byte) (s : Block) : Block :=
  let c := fld f 0xA 2
  let src := fld f 2 2
  let vs := c % 1024
  let n := c / 1024
  if n = 0 then s
  else drainOutbox src vs n (s.modTx src vs fun t => { t with owed := t.owed - n })

/-- A sound flit is taken or forwarded (R878). -/
def rxFlit (l : Nat) (f : List Byte) (s : Block) : Block :=
  let dst := fld f 0 2
  if dst = s.kreash.moduleId.toNat then
    let s := rxCredits f s
    if bitsOf (fld f 9 1) 2 2 = 0 then rxData l f s else s
  else
    match routeLink s dst with
    | some l' => putFlit l' f s
    | none => s.modLink l fun x => { x with noRoute := x.noRoute + 1 }

/-- A flit arrives on a link that is UP (R875, R877). -/
def takeFlit (l : Nat) (f : List Byte) (fec : FecOutcome) (s : Block) : Block :=
  if (s.link l).st ≠ .up then s
  else
    let s := s.modLink l fun x =>
      { x with fecCorr := x.fecCorr + BitVec.ofNat 32 fec.corrected, fecUncorr := x.fecUncorr + BitVec.ofNat 16 fec.uncorrectable }
    if !fec.lost && flitOk f then rxFlit l f s else s.modLink l fun x => { x with crcDrop := x.crcDrop + 1 }

def execFlitRx (link : Nat) (flit : List Byte) (fec : FecOutcome) (s : State) : Result := onBlock s fun s =>
  within (decide (link < 12)) s (takeFlit link flit fec)

/-! ### Check-value units (R893–R895) -/

/-- The unit that a record of a stream passes on the die of a link. -/
def cvUnit (vs link : Nat) : Nat := vs % 4 + if link < 6 then 0 else 4

/-- A check-value unit finds a wrong value (`CV_STAT_u`). -/
def countMismatch (u : Nat) (s : Block) : Block :=
  s.modKreash fun k => { k with cvMismatch := SMap.put 0 u (SMap.get 0 u k.cvMismatch + 1) k.cvMismatch }

/-- A unit drops a record: its count, its event record, and the record's place in the buffer is free again. -/
def cvDrop (r : RxRecord) (st : Status) (alive e : Nat) (s : Block) : Block :=
  let u := cvUnit r.vs r.link
  let s := match st with
    | .checkMismatch => countMismatch u s
    | .aliveRepeat => s.modKreash fun k => { k with cvRepeat := SMap.put 0 u (SMap.get 0 u k.cvRepeat + 1) k.cvRepeat }
    | _ => s.modKreash fun k => { k with cvGap := SMap.put 0 u (SMap.get 0 u k.cvGap + 1) k.cvGap }
  returnCredits r.src r.vs 1
    (postEvent 0 st 0x06 u 0xFFFF 0xFF (leBytes 2 r.vs ++ leBytes 2 r.src ++ leBytes 2 alive ++ leBytes 2 e) s)

/-- The ALIVE that a record carries, by its trailer. -/
def RxRecord.alive (r : RxRecord) (poly : Bool) : Nat := fld r.bytes (r.bytes.length - if poly then 16 else 8) 2

/-- A record that passed its check-value unit has a wrong tag (R799); `before` is the state in which it arrived. -/
def tagDrop (r : RxRecord) (before s : Block) : Block :=
  cvDrop r .checkMismatch (r.alive (before.vsCfg r.vs).poly) (before.rxStream r.src r.vs).alive.toNat s

/-- The first assembled record of (src, vs) passes its check-value unit (R895): stripped of its trailer, or dropped. -/
def cvCheck (r : RxRecord) (s : Block) : Option (List Byte) × Block :=
  let s := s.modKreash fun k => { k with assembled := k.assembled.erase r }
  let n := if (s.vsCfg r.vs).poly then 16 else 8
  let body := r.bytes.take (r.bytes.length - n)
  let alive := fld r.bytes (r.bytes.length - n) 2
  let e := (s.rxStream r.src r.vs).alive.toNat
  if r.bytes.length < n || withTrailer (s.vsCfg r.vs).poly alive body ≠ r.bytes then (none, cvDrop r .checkMismatch alive e s)
  else
    let d := (alive + 65536 - e) % 65536
    if d = 0 then (some body, s.modRx r.src r.vs fun x => { x with alive := x.alive + 1 })
    else if 32768 ≤ d then (none, cvDrop r .aliveRepeat alive e s)
    else (none, cvDrop r .aliveGap alive e (s.modRx r.src r.vs fun x => { x with alive := BitVec.ofNat 16 (alive + 1) }))

/-- The oldest assembled record of (src, vs). -/
def firstAssembled (s : Block) (src vs : Nat) : Option RxRecord :=
  s.kreash.assembled.find? fun r => r.src == src && r.vs == vs

/-- A record of a context stream is opened under its stream's key slot (R799, R806), or dropped. -/
def acceptContext (r : RxRecord) (before : Block) (body : List Byte) (s : Block) : Block :=
  let cfg := s.vsCfg r.vs
  let (ct, iv, tag, epoch) := openBytes body
  match openUnder cfg.keySlot.toNat epoch iv [] ct tag s with
  | .ok pt => s.modKreash fun k => { k with buffers := k.buffers ++ [{ r with bytes := pt }] }
  | .error st =>
    if st = .checkMismatch then tagDrop r before s else returnCredits r.src r.vs 1 (countDrop st s)

/-- A context-stream record is checked and accepted into its receive buffer while that has room (R888, R895). -/
def execStreamRecordRx (src vs : Nat) (s : State) : Result := onBlock s fun s =>
  within (decide (32 ≤ vs) && decide (vs < 1024)) s fun s =>
    match firstAssembled s src vs with
    | none => s
    | some r =>
      if (s.vsCfg vs).rxDepth.toNat + 1 ≤ (s.kreash.buffers.filter fun x => x.src == src && x.vs == vs).length then s
      else
        match cvCheck r s with
        | (some body, s') => acceptContext r s body s'
        | (none, s) => s

/-! ### Link states (R886, R891) and streams (R888, R894) -/

/-- The event record of a link that enters or leaves UP. -/
def linkEvent (l : Nat) (up : Bool) (s : Block) : Block :=
  postEvent 0 .internal 0x05 l 0xFFFF 0xFF
    (leBytes 1 (if up then 0x11 else 0x10) ++ leBytes 1 l ++ leBytes 2 (s.link l).peer.toNat) s

/-- A link leaves UP, if it is UP, for another state. -/
def leaveUp (l : Nat) (dest : LinkState) (s : Block) : Block :=
  if (s.link l).st = .up then linkEvent l false (s.modLink l fun x => { x with st := dest, downCount := x.downCount + 1 })
  else s.modLink l fun x => { x with st := dest }

/-- EN of a link is set or cleared. -/
def linkEnable (l : Nat) (en : Bool) (s : Block) : Block :=
  if en then s.modLink l fun x => { x with en := true, st := if x.st = .disabled then .train else x.st }
  else leaveUp l .disabled (s.modLink l fun x => { x with en := false })

def execLinkEnable (link : Nat) (en : Bool) (s : State) : Result := onBlock s fun s => within (decide (link < 12)) s (linkEnable link en)

def execLinkTrainDone (link : Nat) (s : State) : Result := onBlock s fun s =>
  within (decide (link < 12)) s (·.modLink link fun x => { x with st := if x.st = .train then .ident else x.st })

/-- Training that did not finish is retried: the link stays in TRAIN. -/
def execLinkTrainRetry (link : Nat) (s : State) : Result := onBlock s fun s =>
  within (decide (link < 12)) s (·.modLink link fun x => { x with st := if x.st = .train then .train else x.st })

def execLinkIdentDone (link : Nat) (peer : BitVec 12) (s : State) : Result := onBlock s fun s =>
  within (decide (link < 12)) s fun s =>
    if (s.link link).st = .ident then linkEvent link true (s.modLink link fun x => { x with st := .up, peer := peer }) else s

def execLinkDown (link : Nat) (s : State) : Result := onBlock s fun s =>
  within (decide (link < 12)) s fun s => if (s.link link).st = .up then leaveUp link .train s else s

/-- The configuration a value of `KL_VS_CFG_v` holds. -/
def vsCfgOf (w : Nat) : VsCfg :=
  { en := bitOf w 0, poly := bitOf w 1, peer := BitVec.ofNat 12 (bitsOf w 2 12), keySlot := BitVec.ofNat 12 (bitsOf w 14 12),
    rxDepth := BitVec.ofNat 6 (bitsOf w 26 6), ctx := BitVec.ofNat 16 (bitsOf w 32 16) }

/-- Counters and credits of a stream start again, with what was on its way; the receiver's buffers of it are empty. -/
def resetStream (v : Nat) (k : Kreash) : Kreash :=
  { k with rx := k.rx.filter fun e => e.1 % 1024 != v
           tx := k.tx.filter fun e => e.1 % 1024 != v
           assembled := k.assembled.filter fun r => r.vs != v
           buffers := k.buffers.filter fun r => r.vs != v
           outbox := k.outbox.filter fun r => r.vs != v }

/-- A write of `KL_VS_CFG_v`: setting EN resets the stream's counters and credits. -/
def writeVsCfg (v w : Nat) (s : Block) : Block :=
  let old := s.vsCfg v
  let new := vsCfgOf w
  s.modKreash fun k =>
    let k := if new.en && !old.en then resetStream v k else k
    { k with vs := SMap.put VsCfg.init v new k.vs }

def execStreamEnable (vs : Nat) (value : U64) (s : State) : Result := onBlock s fun s =>
  within (decide (vs < 1024)) s (writeVsCfg vs value.toNat)

/-- A context stream's peer is out of reach for 1 s: firmware clears the stream's EN (R886), when the link that the
route table names toward PEER is indeed not UP. -/
def execLinkReturnTimeout (vs : Nat) (s : State) : Result := onBlock s fun s =>
  within (decide (32 ≤ vs) && decide (vs < 1024)) s fun s =>
    let c := s.vsCfg vs
    if c.en && (routeLink s c.peer.toNat).isNone then
      s.modKreash fun k => { k with vs := SMap.put VsCfg.init vs { c with en := false } k.vs }
    else s

/-! ### Management records (R808, R922, R923) -/

/-- The neighbours that learn of a weir level: the peers of the links that are UP (assumption 25). -/
def upPeers (s : Block) : List Nat :=
  ((List.range 12).filterMap fun l => if (s.link l).st = .up then some (s.link l).peer.toNat else none).eraseDups

/-- A weir notice (R922). -/
def weirNotice (s : Block) (level : Nat) : List Byte :=
  [0x48#8, 0x57#8, 0x52#8, 0x4E#8] ++ leBytes 2 1 ++ leBytes 1 level ++ zeros 1 ++ leBytes 2 s.kreash.moduleId.toNat ++ zeros 6
    ++ leBytes 8 s.gl.timebase.toNat ++ zeros 40

def sendWeirNotice (level : Nat) (s : Block) : Block :=
  (upPeers s).foldl (fun s p => sendRecord { dst := p, vs := 0, link := none, bytes := weirNotice s level } s) s

/-- The first assembled management record of a source, checked, when it is of the kind asked for. -/
def takeManagement (src : Nat) (magic : List Byte) (s : Block) : Option (List Byte) × Block :=
  match firstAssembled s src 0 with
  | none => (none, s)
  | some r =>
    if r.bytes.take 4 ≠ magic then (none, s)
    else
      match cvCheck r s with
      | (some body, s) => (some body, returnCredits src 0 1 s)
      | (none, s) => (none, s)

/-- The record of a weir notice; which compute die's INSTANCE it carries is a free choice. -/
def postNotice (s : Block) : Block :=
  let (d, s) := s.freeBelow 8
  postEvent 0 .refusedSag 0x02 d 0xFFFF 0xFF [] s

/-- A weir notice arrives (R923). -/
def execWeirNoticeRx (src : Nat) (s : State) : Result := onBlock s fun s =>
  within (decide (src < 4096)) s fun s =>
    match takeManagement src [0x48#8, 0x57#8, 0x52#8, 0x4E#8] s with
    | (some _, s) =>
      postNotice { s with lock := { s.lock with notices := s.lock.notices + 1 } }
    | (none, s) => s

end Sys2Proof.Machine
end

