-- ==== Sys2Proof/Machine/Codec.lean ====
section
/-! DEFINITION. The cart codec and compressed pages, down to the bit (R473, R474, R493–R508). The symbol table that the
device's encoder chooses for a block is not stated (R504): it is an opaque constant, used where it is a valid table. -/

namespace Sys2Proof.Machine

/-! ### Formats (R493) -/

/-- Bits of an element, its sign, exponent and mantissa widths. -/
structure CodecFmt where
  bits : Nat
  s : Nat
  x : Nat
  m : Nat
  deriving DecidableEq, Repr

/-- The plane parameters of a codec format; none for RAW_BYTES, KEEP and the reserved values. -/
def codecFmt : Nat → Option CodecFmt
  | 1 => some ⟨32, 1, 8, 23⟩
  | 2 => some ⟨16, 1, 8, 7⟩
  | 3 => some ⟨16, 1, 5, 10⟩
  | 4 => some ⟨8, 1, 4, 3⟩
  | 5 => some ⟨8, 1, 5, 2⟩
  | 6 => some ⟨8, 1, 2, 3⟩
  | 7 => some ⟨8, 1, 3, 2⟩
  | 8 => some ⟨4, 1, 2, 1⟩
  | 9 => some ⟨8, 0, 8, 0⟩
  | _ => none

/-- A format an entry or a header may name. -/
def cfmtOk (f : Nat) : Bool := decide (f ≤ 9)

/-- The cart size of an MX format (R473). -/
def mxCart (f : Nat) : Option Nat := if f = 6 || f = 7 then some 2112 else if f = 8 then some 2176 else none

/-! ### Bits, most significant first (R497) -/

/-- The low `n` bits of a number, most significant first. -/
def msbBits (n v : Nat) : List Bool := (List.range n).map fun i => bitOf v (n - 1 - i)

/-- The number that bits spell, most significant first. -/
def msbNat (l : List Bool) : Nat := l.foldl (fun a b => 2 * a + b2n b) 0

/-- Bits as bytes, bit 7 of the first byte first, padded with 0. -/
def packBits : List Bool → Nat → List Byte
  | _, 0 => []
  | l, n + 1 => BitVec.ofNat 8 (msbNat ((l ++ List.replicate 8 false).take 8)) :: packBits (l.drop 8) n

/-- A plane of bits in whole bytes. -/
def plane (l : List Bool) : List Byte := packBits l (ceilDiv l.length 8)

/-- The bits of bytes. -/
def unpackBits (bs : List Byte) : List Bool := bs.flatMap fun b => msbBits 8 b.toNat

/-! ### Elements (R494) -/

/-- The elements of a block, as numbers. -/
def codecElems (f : CodecFmt) (bs : List Byte) : Nat → List Nat
  | 0 => []
  | n + 1 =>
    if f.bits = 4 then
      match bs with
      | b :: rest => b.toNat % 16 :: b.toNat / 16 :: codecElems f rest n
      | [] => []
    else if bs.isEmpty then [] else leNat (bs.take (f.bits / 8)) :: codecElems f (bs.drop (f.bits / 8)) n

def signOf (f : CodecFmt) (e : Nat) : Nat := bitsOf e (f.x + f.m) f.s
def expOf (f : CodecFmt) (e : Nat) : Nat := bitsOf e f.m f.x
def mantOf (f : CodecFmt) (e : Nat) : Nat := bitsOf e 0 f.m

/-- Elements as the bytes of a block. -/
def packCodec (f : CodecFmt) : List Nat → List Byte
  | [] => []
  | [a] => leBytes (if f.bits = 4 then 1 else f.bits / 8) a
  | a :: b :: rest =>
    if f.bits = 4 then BitVec.ofNat 8 (a + 16 * b) :: packCodec f rest else leBytes (f.bits / 8) a ++ packCodec f (b :: rest)

/-! ### Symbol tables (R498–R500, R502) -/

/-- A table entry: its delta (none for ESC) and code length. -/
abbrev SymEntry := Option Int × Nat

/-- A table entry as stored (R498). -/
def symWord (e : SymEntry) : Nat :=
  (match e.1 with
   | none => 0x100
   | some d => (d % 512).toNat) + e.2 * 2 ^ 9

/-- A stored entry; none when a reserved bit is 1 or the length is 0. -/
def symOf (w : Nat) : Option SymEntry :=
  if w / 2 ^ 13 ≠ 0 || bitsOf w 9 4 = 0 then none
  else some (if w % 512 = 0x100 then none else some (sextInt 9 w), bitsOf w 9 4)

/-- The conditions of R498 and R502 on a table. -/
def tableOk (x : Nat) (t : List SymEntry) : Bool :=
  (1 ≤ t.length && t.length ≤ 16) && t.all (fun e => decide (1 ≤ e.2) && decide (e.2 ≤ 15))
    && t.all (fun e => match e.1 with
      | none => true
      | some d => decide (d.natAbs ≤ 2 ^ x - 1))
    && decide (t.map (·.1)).Nodup && decide ((t.map fun e => 2 ^ (15 - e.2)).sum ≤ 2 ^ 15)

/-- Insert an entry with its index by ascending length, keeping the order of equal lengths. -/
def insertSym (e : SymEntry) : List SymEntry → List SymEntry
  | [] => [e]
  | y :: ys => if e.2 < y.2 then e :: y :: ys else y :: insertSym e ys

/-- Canonical codes over entries in ascending (L, index) (R499): each entry's code bits and delta. -/
def assignCodes : List SymEntry → Nat → Nat → List (List Bool × Option Int)
  | [], _, _ => []
  | e :: rest, code, len =>
    let c := code * 2 ^ (e.2 - len)
    (msbBits e.2 c, e.1) :: assignCodes rest (c + 1) e.2

/-- The codes of a table. -/
def codesOf (t : List SymEntry) : List (List Bool × Option Int) :=
  let sorted := t.foldl (fun l e => insertSym e l) []
  assignCodes sorted 0 (match sorted with
    | e :: _ => e.2
    | [] => 0)

/-- The exponent stream of exponents after the first; none when an exponent has no code (R500). -/
def encodeExps (codes : List (List Bool × Option Int)) (x : Nat) : Nat → List Nat → Option (List Bool)
  | _, [] => some []
  | prev, e :: rest =>
    let d := (e : Int) - prev
    let code := match codes.find? fun c => c.2 == some d with
      | some c => some c.1
      | none => (codes.find? fun c => c.2 == none).map fun c => c.1 ++ msbBits x e
    match code, encodeExps codes x e rest with
    | some c, some r => some (c ++ r)
    | _, _ => none

/-- Exponents read from a stream, with the bits left; none when it holds no code or leaves the range (R500, R502). -/
def decodeExps (codes : List (List Bool × Option Int)) (x : Nat) : Nat → Nat → List Bool → Option (List Nat × List Bool)
  | 0, _, bits => some ([], bits)
  | n + 1, prev, bits =>
    match codes.find? fun c => c.1.isPrefixOf bits with
    | none => none
    | some c =>
      let bits := bits.drop c.1.length
      let step := match c.2 with
        | none => if bits.length < x then none else some (msbNat (bits.take x), bits.drop x)
        | some d =>
          let e := (prev : Int) + d
          if 0 ≤ e && e < 2 ^ x then some (e.toNat, bits) else none
      match step with
      | none => none
      | some (e, bits) =>
        match decodeExps codes x n e bits with
        | none => none
        | some (es, bits) => some (e :: es, bits)

/-! ### Blocks (R495–R504) -/

/-- A block header (R495). -/
def blockHeader (cfmt kind nsym e0 plen blen ebits : Nat) : List Byte :=
  leBytes 8 (cfmt + kind * 2 ^ 4 + nsym * 2 ^ 6 + e0 * 2 ^ 10 + plen * 2 ^ 18 + blen * 2 ^ 30 + ebits * 2 ^ 41)

/-- The payload of a coded block with a table, its table length, first exponent and stream length; none when the table
is not one the block can be coded with. -/
def codedPayload (f : CodecFmt) (t : List SymEntry) (bs : List Byte) : Option (List Byte × Nat × Nat × Nat) :=
  let es := codecElems f bs bs.length
  match es with
  | [] => none
  | e :: rest =>
    if !tableOk f.x t then none
    else
      match encodeExps (codesOf t) f.x (expOf f e) (rest.map (expOf f)) with
      | none => none
      | some stream =>
        some ((t.flatMap fun e => leBytes 2 (symWord e)) ++ plane (es.flatMap fun e => msbBits f.m (mantOf f e))
                ++ plane (es.flatMap fun e => msbBits f.s (signOf f e)) ++ plane stream,
              t.length - 1, expOf f e, stream.length)

/-- A block stored verbatim. -/
def rawBlock (cfmt : Nat) (bs : List Byte) : List Byte := blockHeader cfmt 1 0 0 bs.length (bs.length - 1) 0 ++ bs

/-- The device's encoder for one block of at most 2,048 bytes (R496, R504). -/
def encodeBlock (cfmt : Nat) (bs : List Byte) : List Byte :=
  if bs.all (· == 0) then blockHeader cfmt 2 0 0 0 (bs.length - 1) 0
  else
    match codecFmt cfmt with
    | none => rawBlock cfmt bs
    | some f =>
      if (cfmt == 6 || cfmt == 7) && bs.any (fun b => decide (64 ≤ b.toNat)) then rawBlock cfmt bs
      else
        match codedPayload f (Config.codecTable cfmt bs) bs with
        | none => rawBlock cfmt bs
        | some (p, nsym, e0, ebits) =>
          if bs.length ≤ p.length then rawBlock cfmt bs
          else blockHeader cfmt 0 nsym e0 p.length (bs.length - 1) ebits ++ p

/-- What makes a page invalid, with the kind R503 gives. -/
inductive CodecErr where
  | pageHeader | blockHeader | table | stream | length
  deriving DecidableEq, Repr

/-- The kind of R503. -/
def CodecErr.code : CodecErr → Nat
  | .pageHeader => 1 | .blockHeader => 2 | .table => 3 | .stream => 4 | .length => 5

/-- The header's own conditions (R501). -/
def blockHeaderOk (h : Nat) : Bool :=
  let cfmt := bitsOf h 0 4
  let kind := bitsOf h 4 2
  let n := bitsOf h 30 11 + 1
  let plen := bitsOf h 18 12
  let ebits := bitsOf h 41 14
  cfmtOk cfmt && kind != 3 && h / 2 ^ 55 == 0 &&
    match codecFmt cfmt with
    | none => (kind == 1 && plen == n) || (kind == 2 && h / 2 ^ 6 % 2 ^ 24 == 0 && ebits == 0)
    | some f =>
      let count := n * 8 / f.bits
      n % (ceilDiv f.bits 8) == 0 &&
        match kind with
        | 0 => plen == 2 * (bitsOf h 6 4 + 1) + ceilDiv (count * f.m) 8 + ceilDiv (count * f.s) 8 + ceilDiv ebits 8
        | 1 => plen == n
        | _ => h / 2 ^ 6 % 2 ^ 24 == 0 && ebits == 0

/-- Bits past the end of a plane are 0. -/
def padOk (l : List Bool) (n : Nat) : Bool := (l.drop n).all (!·)

/-- The bytes of a coded block (R496, R500, R502). -/
def decodeCoded (f : CodecFmt) (h : Nat) (p : List Byte) : Except CodecErr (List Byte) :=
  let n := bitsOf h 30 11 + 1
  let count := n * 8 / f.bits
  let nsym := bitsOf h 6 4 + 1
  let t := (List.range nsym).map fun i => symOf (fld p (2 * i) 2)
  if t.any (·.isNone) || !tableOk f.x (t.filterMap id) then .error .table
  else
    let mlen := ceilDiv (count * f.m) 8
    let slen := ceilDiv (count * f.s) 8
    let mants := unpackBits ((p.drop (2 * nsym)).take mlen)
    let signs := unpackBits ((p.drop (2 * nsym + mlen)).take slen)
    let stream := unpackBits (p.drop (2 * nsym + mlen + slen))
    let ebits := bitsOf h 41 14
    let e0 := bitsOf h 10 8
    if 2 ^ f.x ≤ e0 then .error .stream
    else
      match decodeExps (codesOf (t.filterMap id)) f.x (count - 1) e0 (stream.take ebits) with
      | some (es, []) =>
        if !padOk mants (count * f.m) || !padOk signs (count * f.s) || !padOk stream ebits then .error .stream
        else
          .ok (packCodec f ((e0 :: es).mapIdx fun i e =>
            msbNat ((mants.drop (i * f.m)).take f.m) + e * 2 ^ f.m + msbNat ((signs.drop (i * f.s)).take f.s) * 2 ^ (f.m + f.x)))
      | _ => .error .stream

/-- Decode the block at the head of bytes: its bytes and the length it takes with padding to 8 bytes. -/
def decodeBlock (bs : List Byte) : Except CodecErr (List Byte × Nat) :=
  let h := fld bs 0 8
  let n := bitsOf h 30 11 + 1
  let plen := bitsOf h 18 12
  if bs.length < 8 || !blockHeaderOk h then .error .blockHeader
  else if bs.length < 8 + plen then .error .length
  else
    let p := (bs.drop 8).take plen
    let len := ceilDiv (8 + plen) 8 * 8
    match bitsOf h 4 2, codecFmt (bitsOf h 0 4) with
    | 2, _ => .ok (zeros n, len)
    | 0, some f =>
      match decodeCoded f h p with
      | .ok out => .ok (out, len)
      | .error e => .error e
    | _, _ => .ok (p, len)

/-! ### Compressed pages (R505–R508) -/

/-- Cut bytes into blocks of 2,048 with a shorter last one. -/
def cut2048 : Nat → List Byte → List (List Byte)
  | 0, _ => []
  | n + 1, bs => if bs.isEmpty then [] else bs.take 2048 :: cut2048 n (bs.drop 2048)

/-- The role of each byte of an MX page: whether it is an element byte (R474). -/
def isElem (c a : Nat) : Bool := decide (a % c < 2048)

/-- The bytes of a page at address `va` split into element bytes and scale bytes. -/
def mxSplit (c va : Nat) (bs : List Byte) : List Byte × List Byte :=
  let l := bs.mapIdx fun i b => (isElem c (va + i), b)
  ((l.filter (·.1)).map (·.2), (l.filter (!·.1)).map (·.2))

/-- Put element bytes and scale bytes back in address order. -/
def mxJoin (c : Nat) : Nat → Nat → List Byte → List Byte → List Byte
  | _, 0, _, _ => []
  | a, n + 1, es, ss =>
    if isElem c a then (es.headD 0) :: mxJoin c (a + 1) n es.tail ss else (ss.headD 0) :: mxJoin c (a + 1) n es ss.tail

/-- The blocks of a page, each with the format it is coded in (R506). -/
def pageBlocks (cfmt va : Nat) (bs : List Byte) : List (Nat × List Byte) :=
  match mxCart cfmt with
  | none => (cut2048 1024 bs).map (cfmt, ·)
  | some c =>
    let (es, ss) := mxSplit c va bs
    (cut2048 1024 es).map (cfmt, ·) ++ (cut2048 1024 ss).map (9, ·)

/-- Pad to a multiple of 8 bytes. -/
def pad8 (bs : List Byte) : List Byte := bs ++ zeros (ceilDiv bs.length 8 * 8 - bs.length)

/-- The compressed page of a page's bytes (R505, R506); 2 MiB pages are `big`. -/
def encodePage (cfmt : Nat) (big : Bool) (va : Nat) (bs : List Byte) : List Byte :=
  let blocks := (pageBlocks cfmt va bs).map fun b => pad8 (encodeBlock b.1 b.2)
  let body := blocks.flatten
  [0x4B#8, 0x43#8, 0x50#8, 0x47#8] ++ leBytes 1 (b2n big) ++ leBytes 1 cfmt ++ leBytes 2 blocks.length
    ++ leBytes 4 (32 + body.length) ++ zeros 4 ++ leBytes 8 va ++ zeros 8 ++ body

/-- Decode `n` blocks; an error with its block index. -/
def decodeBlocks : Nat → Nat → List Byte → Except (CodecErr × Nat) (List (List Byte) × Nat)
  | 0, _, _ => .ok ([], 0)
  | n + 1, i, bs =>
    match decodeBlock bs with
    | .error e => .error (e, i)
    | .ok (out, len) =>
      match decodeBlocks n (i + 1) (bs.drop len) with
      | .error e => .error e
      | .ok (outs, total) => .ok (out :: outs, len + total)

/-- The lengths of a page's blocks. -/
def blockLens (cfmt va size : Nat) : List Nat := (pageBlocks cfmt va (zeros size)).map (·.2.length)

/-- The bytes of a compressed page of a page at address `va` (R501, R502, R506, R507). -/
def decodePage (va : Nat) (big : Bool) (bs : List Byte) : Except (CodecErr × Nat) (List Byte) :=
  let size := if big then 0x20_0000 else 0x1_0000
  let cfmt := fld bs 5 1
  let lens := blockLens cfmt va size
  if bs.take 4 != [0x4B#8, 0x43#8, 0x50#8, 0x47#8] || fld bs 4 1 != b2n big || fld bs 0x10 8 != va || !cfmtOk cfmt
      || !allZero bs 0xC 4 || !allZero bs 0x18 8 || fld bs 6 2 != lens.length then .error (.pageHeader, 0)
  else
    match decodeBlocks lens.length 0 (bs.drop 32) with
    | .error e => .error e
    | .ok (outs, total) =>
      if outs.map (·.length) != lens || fld bs 8 4 != 32 + total then .error (.length, 0)
      else
        let all := outs.flatten
        match mxCart cfmt with
        | none => .ok all
        | some c =>
          let ne := ((List.range size).filter fun i => isElem c (va + i)).length
          .ok (mxJoin c va size (all.take ne) (all.drop ne))

/-- Granules of 4 KiB of a compressed page (R508). -/
def granulesOf (clen : Nat) : Nat := ceilDiv clen 4096

end Sys2Proof.Machine
end

