-- ==== Sys2Proof/Machine/Numeric.lean ====
section
/-! DEFINITION. Number formats, exact values, conversion, stochastic rounding and the accumulator additions
(R294–R329). Words of every format are numbers below 2^(its bits). -/

namespace Sys2Proof.Machine

/-! ### Formats (R294, R295) -/

/-- The element formats of R294 and INT32. -/
inductive Fmt where
  | fp32 | bf16 | fp16 | e4m3 | e5m2 | e2m3 | e3m2 | e2m1 | int8 | int32
  deriving DecidableEq, Repr

def Fmt.bits : Fmt → Nat
  | .fp32 | .int32 => 32
  | .bf16 | .fp16 => 16
  | .e4m3 | .e5m2 | .int8 => 8
  | .e2m3 | .e3m2 => 6
  | .e2m1 => 4
/-- Mantissa bits. -/
def Fmt.mant : Fmt → Nat
  | .fp32 => 23 | .bf16 => 7 | .fp16 => 10 | .e4m3 => 3 | .e5m2 => 2 | .e2m3 => 3 | .e3m2 => 2 | .e2m1 => 1
  | .int8 | .int32 => 0
/-- Exponent bits. -/
def Fmt.expo : Fmt → Nat
  | .fp32 | .bf16 => 8 | .fp16 | .e5m2 => 5 | .e4m3 => 4 | .e2m3 | .e2m1 => 2 | .e3m2 => 3 | .int8 | .int32 => 0
def Fmt.bias : Fmt → Nat
  | .fp32 | .bf16 => 127 | .fp16 | .e5m2 => 15 | .e4m3 => 7 | .e2m3 | .e2m1 => 1 | .e3m2 => 3 | .int8 | .int32 => 0
/-- The format has infinities. -/
def Fmt.hasInf : Fmt → Bool
  | .fp32 | .bf16 | .fp16 | .e5m2 => true
  | _ => false
/-- The largest finite word. -/
def Fmt.maxFinite : Fmt → Nat
  | .fp32 => 0x7F7FFFFF | .bf16 => 0x7F7F | .fp16 => 0x7BFF | .e4m3 => 0x7E | .e5m2 => 0x7B | .e2m3 | .e3m2 => 0x1F
  | .e2m1 => 7 | .int8 => 127 | .int32 => 0x7FFFFFFF
/-- The default NaN word; formats without one give 0 (R303, R306). -/
def Fmt.nan : Fmt → Nat
  | .fp32 => 0x7FC00000 | .bf16 => 0x7FC0 | .fp16 => 0x7E00 | .e4m3 => 0x7F | .e5m2 => 0x7E | _ => 0
/-- Integer formats. -/
def Fmt.isInt : Fmt → Bool
  | .int8 | .int32 => true
  | _ => false

/-- A value: NaN, a signed infinity, or ± m × 2^e with its sign kept for zero. -/
inductive Val where
  | nan
  | inf (neg : Bool)
  | fin (neg : Bool) (m : Nat) (e : Int)
  deriving DecidableEq, Repr

/-- The value a word encodes (R295, R296). -/
def decodeFmt (f : Fmt) (w : Nat) : Val :=
  if f.isInt then
    let v := sextInt f.bits w
    .fin (decide (v < 0)) v.natAbs 0
  else
    let neg := bitOf w (f.bits - 1)
    let ex := bitsOf w f.mant f.expo
    let mt := bitsOf w 0 f.mant
    let top := 2 ^ f.expo - 1
    if f.hasInf && ex == top then (if mt = 0 then .inf neg else .nan)
    else if f = .e4m3 && ex == 15 && mt == 7 then .nan
    else if ex = 0 then .fin neg mt (1 - (f.bias : Int) - f.mant)
    else .fin neg (mt + 2 ^ f.mant) ((ex : Int) - f.bias - f.mant)

/-- An E8M0 scale; none for NaN (R298). -/
def scaleExp (e : Nat) : Option Int := if e = 0xFF then none else some ((e : Int) - 127)

/-- A value times 2^k. -/
def Val.scale : Val → Int → Val
  | .fin n m e, k => .fin n m (e + k)
  | v, _ => v

def Val.isZero : Val → Bool
  | .fin _ m _ => m == 0
  | _ => false
def Val.isNan : Val → Bool
  | .nan => true
  | _ => false
def Val.isInf : Val → Bool
  | .inf _ => true
  | _ => false
def Val.neg? : Val → Bool
  | .nan => false
  | .inf n => n
  | .fin n _ _ => n
def Val.negate : Val → Val
  | .nan => .nan
  | .inf n => .inf (!n)
  | .fin n m e => .fin (!n) m e

/-! ### Exact sums -/

/-- An exact dyadic number m × 2^e. -/
structure Dy where
  m : Int
  e : Int
  deriving DecidableEq, Repr

def Dy.zero : Dy := { m := 0, e := 0 }
/-- The integer the number is in units of 2^e' (e' at most its exponent). -/
def Dy.at (x : Dy) (e' : Int) : Int := x.m * 2 ^ (x.e - e').toNat
def Dy.add (x y : Dy) : Dy :=
  if x.m = 0 then y else if y.m = 0 then x
  else let e := min x.e y.e; { m := x.at e + y.at e, e := e }
def Dy.mul (x y : Dy) : Dy := { m := x.m * y.m, e := x.e + y.e }
def Dy.neg (x : Dy) : Dy := { x with m := -x.m }
def Dy.lt (x y : Dy) : Bool := let e := min x.e y.e; decide (x.at e < y.at e)
/-- A finite value as an exact number. -/
def Val.dy : Val → Dy
  | .fin n m e => { m := if n then -(m : Int) else m, e := e }
  | _ => .zero
/-- An exact number as a value; zero takes the sign given. -/
def Dy.val (x : Dy) (zeroNeg : Bool) : Val := if x.m = 0 then .fin zeroNeg 0 0 else .fin (decide (x.m < 0)) x.m.natAbs x.e

/-- Exact sum; an exactly zero sum is +0 except of two −0 (R325). -/
def Val.add : Val → Val → Val
  | .nan, _ => .nan
  | _, .nan => .nan
  | .inf a, .inf b => if a = b then .inf a else .nan
  | .inf a, _ => .inf a
  | _, .inf b => .inf b
  | a, b => (a.dy.add b.dy).val (a.neg? && b.neg? && a.isZero && b.isZero)

/-- Exact product. -/
def Val.mul : Val → Val → Val
  | .nan, _ => .nan
  | _, .nan => .nan
  | .fin a m e, .fin b n f => .fin (a != b) (m * n) (e + f)
  | a, b => if a.isZero || b.isZero then .nan else .inf (a.neg? != b.neg?)

/-- Comparison of values as IEEE 754 orders them; NaN compares below nothing. -/
def Val.lt : Val → Val → Bool
  | .nan, _ => false
  | _, .nan => false
  | .inf a, .inf b => a && !b
  | .inf a, _ => a
  | _, .inf b => !b
  | a, b => a.dy.lt b.dy
def Val.eqv : Val → Val → Bool
  | .nan, _ => false
  | _, .nan => false
  | a, b => !a.lt b && !b.lt a

/-! ### Rounding (R301, R302, R316) -/

/-- Bits of a positive number. -/
def bitLen (m : Nat) : Nat := if m = 0 then 0 else Nat.log2 m + 1

/-- The exponent of the grid step of a format at magnitude m × 2^e: subnormal spacing below, exponent unbounded above. -/
def gridExp (f : Fmt) (m : Nat) (e : Int) : Int :=
  if f.isInt then 0 else max ((bitLen m : Int) + e - (f.mant + 1)) (1 - (f.bias : Int) - f.mant)

/-- A magnitude in grid steps: its whole part, and the part left over as a fraction over 2^s. -/
def gridSplit (m : Nat) (e q : Int) : Nat × Nat × Nat :=
  if q ≤ e then (m * 2 ^ (e - q).toNat, 0, 0)
  else let s := (q - e).toNat; (m / 2 ^ s, m % 2 ^ s, s)

/-- Steps after rounding: to nearest, ties to even, or stochastically with the random word R (R316). -/
def roundSteps (sr : Option Nat) (lo rest s : Nat) : Nat :=
  if rest = 0 then lo
  else
    match sr with
    | some r => if r < 2 ^ 32 * rest / 2 ^ s then lo + 1 else lo
    | none =>
      let half := 2 ^ (s - 1)
      if half < rest || (rest == half && lo % 2 == 1) then lo + 1 else lo

/-- The word of n grid steps of 2^q, when it is finite in the format: none when it exceeds the largest finite value. -/
def packSteps (f : Fmt) (n : Nat) (q : Int) : Option Nat :=
  let n' := if bitLen n = f.mant + 2 then n / 2 else n
  let q' := if bitLen n = f.mant + 2 then q + 1 else q
  let w : Int :=
    if n' < 2 ^ f.mant then n'
    else (q' + f.mant + f.bias) * 2 ^ f.mant + (n' - 2 ^ f.mant : Nat)
  if w.toNat ≤ f.maxFinite then some w.toNat else none

/-- What a conversion counts (R302, R303). -/
structure Counts where
  nan : Nat
  inf : Nat
  sat : Nat
  deriving DecidableEq, Repr

def Counts.zero : Counts := { nan := 0, inf := 0, sat := 0 }
def Counts.add (a b : Counts) : Counts := { nan := a.nan + b.nan, inf := a.inf + b.inf, sat := a.sat + b.sat }

/-- The sign bit of a format's word. -/
def signBit (f : Fmt) (neg : Bool) : Nat := if neg then 2 ^ (f.bits - 1) else 0

/-- CONVERT A VALUE to a format's word (R301–R305, R316, R317). -/
def convert (f : Fmt) (sr : Option Nat) (v : Val) : Nat × Counts :=
  match v with
  | .nan => (f.nan, { nan := 1, inf := 0, sat := 0 })
  | .inf neg =>
    if f.hasInf then (signBit f neg + (2 ^ f.expo - 1) * 2 ^ f.mant, { nan := 0, inf := 1, sat := 0 })
    else if f.isInt then ((if neg then 2 ^ (f.bits - 1) else f.maxFinite), { nan := 0, inf := 0, sat := 1 })
    else (signBit f neg + f.maxFinite, { nan := 0, inf := 0, sat := 1 })
  | .fin neg m e =>
    if m = 0 then (if f.isInt then 0 else signBit f neg, .zero)
    else
      let q := gridExp f m e
      let (lo, rest, s) := gridSplit m e q
      let n := roundSteps sr lo rest s
      if f.isInt then
        let lim := if neg then 2 ^ (f.bits - 1) else f.maxFinite
        let k := min n lim
        ((if neg then 2 ^ f.bits - k else k) % 2 ^ f.bits, { nan := 0, inf := 0, sat := b2n (decide (lim < n)) })
      else
        match packSteps f n q with
        | some w => (signBit f neg + w, .zero)
        | none => (signBit f neg + f.maxFinite, { nan := 0, inf := 0, sat := 1 })

/-- Round to FP32 to nearest with the saturation of R302: the word, and whether it saturated. -/
def toF32 (v : Val) : Nat × Bool := let (w, c) := convert .fp32 none v; (w, decide (0 < c.sat))

def f32Val (w : Nat) : Val := decodeFmt .fp32 w
/-- The largest finite FP32 word with a sign. -/
def f32Max (neg : Bool) : Nat := signBit .fp32 neg + 0x7F7FFFFF

/-! ### Philox4x32-10 (R315)

The manual names the generator; its constants are the paper's (PRESUMED, assumption 20). -/

def philoxRound (c : Nat × Nat × Nat × Nat) (k : Nat × Nat) : Nat × Nat × Nat × Nat :=
  let p0 := 0xD2511F53 * c.1
  let p1 := 0xCD9E8D57 * c.2.2.1
  ((p1 / 2 ^ 32) ^^^ c.2.1 ^^^ k.1, p1 % 2 ^ 32, (p0 / 2 ^ 32) ^^^ c.2.2.2 ^^^ k.2, p0 % 2 ^ 32)

def philoxLoop : Nat → (Nat × Nat × Nat × Nat) → Nat × Nat → Nat × Nat × Nat × Nat
  | 0, c, _ => c
  | n + 1, c, k => philoxLoop n (philoxRound c k) ((k.1 + 0x9E3779B9) % 2 ^ 32, (k.2 + 0xBB67AE85) % 2 ^ 32)

/-- The random word of element (i, j) (R315). -/
def philox (seed step tensor i j : Nat) : Nat :=
  (philoxLoop 10 (j % 2 ^ 32, i % 2 ^ 32, tensor % 2 ^ 32, step % 2 ^ 32) (seed % 2 ^ 32, seed / 2 ^ 32)).1

/-! ### Accumulation (R320–R329) -/

/-- A word after an addition, with the SAT and NAN it sets. -/
structure Summed where
  w : Nat
  sat : Bool
  nan : Bool
  deriving DecidableEq, Repr

/-- The FP32 addition of accumulators (R324, R325): an infinite sum is the largest finite value and saturates. -/
def accAdd32 (a b : Nat) : Summed :=
  match (f32Val a).add (f32Val b) with
  | .nan => { w := 0x7FC00000, sat := false, nan := true }
  | .inf neg => { w := f32Max neg, sat := true, nan := false }
  | v => let (w, sat) := toF32 v; { w := w, sat := sat, nan := false }

/-- Round an exact value to a compensated pair (low word s, high word c), with the NaN and saturation cases of R320
and R326; a zero sum takes the sign `zeroNeg`. -/
def toPair (v : Val) (zeroNeg : Bool) : Summed :=
  match v with
  | .nan => { w := 0x7FC00000, sat := false, nan := true }
  | .inf neg => { w := f32Max neg, sat := true, nan := false }
  | .fin n m e =>
    if m = 0 then { w := signBit .fp32 zeroNeg, sat := false, nan := false }
    else
      let (s, sat) := toF32 (.fin n m e)
      if sat then { w := s, sat := true, nan := false }
      else
        let rest := (Val.fin n m e).dy.add (f32Val s).dy.neg
        let c := (toF32 (rest.val false)).1
        { w := s + c * 2 ^ 32, sat := false, nan := false }

/-- The two words of a compensated pair. -/
def pairS (w : Nat) : Nat := w % 2 ^ 32
def pairC (w : Nat) : Nat := w / 2 ^ 32 % 2 ^ 32

/-- The exact value of a compensated pair (R326, R329): −0 only when both words are −0. -/
def pairVal (w : Nat) : Val := (f32Val (pairS w)).add (f32Val (pairC w))

/-- The compensated addition (R326). -/
def accAddPair (a b : Nat) : Summed :=
  let allNegZero := [pairS a, pairC a, pairS b, pairC b].all (· == 0x80000000)
  toPair ((pairVal a).add (pairVal b)) allNegZero

/-- The INT32 addition (R327). -/
def accAddInt (a b : Nat) : Summed :=
  let v := sextInt 32 a + sextInt 32 b
  if v < -(2 ^ 31) then { w := 2 ^ 31, sat := true, nan := false }
  else if 2 ^ 31 - 1 < v then { w := 2 ^ 31 - 1, sat := true, nan := false }
  else { w := (v % 2 ^ 32).toNat, sat := false, nan := false }

/-- The accumulator kinds (R254). -/
inductive AccKind where
  | fp32 | comp | int32
  deriving DecidableEq, Repr

/-- Bytes of an accumulator word (R331). -/
def AccKind.bytes : AccKind → Nat
  | .comp => 8
  | _ => 4

/-- The addition of a kind. -/
def AccKind.add : AccKind → Nat → Nat → Summed
  | .fp32 => accAdd32
  | .comp => accAddPair
  | .int32 => accAddInt

/-- The exact sum of values, with the NaN and infinity rules of R322 and R323. -/
def sumVals (vs : List Val) : Val :=
  let r := vs.foldl (fun (acc : Bool × Bool × Bool × Dy) v =>
    match v with
    | .nan => (true, acc.2.1, acc.2.2.1, acc.2.2.2)
    | .inf n => (acc.1, acc.2.1 || n, acc.2.2.1 || !n, acc.2.2.2)
    | v => (acc.1, acc.2.1, acc.2.2.1, acc.2.2.2.add v.dy)) (false, false, false, Dy.zero)
  if r.1 || (r.2.1 && r.2.2.1) then .nan
  else if r.2.1 then .inf true
  else if r.2.2.1 then .inf false
  else r.2.2.2.val false

/-- A K-block sum as a word of the kind (R320–R323): the exact sum of the products rounded once. -/
def kblock (k : AccKind) (products : List Val) : Summed :=
  let v := sumVals products
  match k with
  | .fp32 =>
    match v with
    | .nan => { w := 0x7FC00000, sat := false, nan := true }
    | .inf n => { w := f32Max n, sat := true, nan := false }
    | v => let (w, sat) := toF32 v; { w := w, sat := sat, nan := false }
  | .comp => toPair v false
  | .int32 => { w := (v.dy.at 0 % 2 ^ 32).toNat, sat := false, nan := false }

/-- The value of an accumulator word. -/
def AccKind.val (k : AccKind) (w : Nat) : Val :=
  match k with
  | .fp32 => f32Val w
  | .comp => pairVal w
  | .int32 => decodeFmt .int32 w

/-! ### MX blocks (R298–R300, R306) -/

/-- Largest exponent of an MX element format. -/
def Fmt.emax : Fmt → Int
  | .e3m2 => 4
  | _ => 2

/-- ⌊log₂⌋ of a positive finite value. -/
def Val.log2 : Val → Int
  | .fin _ m e => (Nat.log2 m : Int) + e
  | _ => 0

/-- CONVERT 32 VALUES to an MX block (R306): the elements, the scale, and the counts. -/
def toMx (f : Fmt) (vs : List Val) : List Nat × Nat × Counts :=
  let nans := (vs.filter Val.isNan).length
  if 0 < nans then (vs.map fun _ => 0, 0xFF, { nan := nans, inf := 0, sat := 0 })
  else
    let fins := vs.filter fun v => !v.isInf && !v.isZero
    let e : Int :=
      match fins with
      | [] => 0
      | v :: rest => max 0 (min 254 ((rest.foldl (fun a x => max a x.log2) v.log2) - f.emax + 127))
    let r := vs.map fun v => convert f none (v.scale (127 - e))
    (r.map (·.1), e.toNat, (r.map (·.2)).foldl Counts.add .zero)

/-! ### Packed elements -/

/-- Element `i` of a run of elements of `bits` bits packed from bit 0 of byte 0. -/
def packedElem (bs : List Byte) (bits i : Nat) : Nat := bitsOf (leNat ((bs.drop (i * bits / 8)).take 5)) (i * bits % 8) bits

/-- Elements packed into bytes, low bits first. -/
def packElems (bits : Nat) (es : List Nat) : List Byte :=
  leBytes ((es.length * bits + 7) / 8) (es.foldr (fun x acc => x + acc * 2 ^ bits) 0)

end Sys2Proof.Machine
end

