-- ==== Sys2Proof/Machine/Queues.lean ====
section
/-! DEFINITION. Engine queues, tickets, dependencies, lock passes and completion: what every unit's commands share
(R173–R217, R902–R914, R924–R928). -/

namespace Sys2Proof

/-! ### Queues (R173) -/

/-- A number for each queue, unique over the module. -/
def QueueRef.key : QueueRef → Nat
  | .mx c => 16 * c | .cx c => 16 * c + 1 | .vx c => 16 * c + 2 | .tw c => 16 * c + 3
  | .sysRd k => 16 * (4096 + k) + 4 | .sysTm k => 16 * (4096 + k) + 5 | .sysCk k => 16 * (4096 + k) + 6
  | .mv b => 2 ^ 20 + 4 * b | .up b => 2 ^ 20 + 4 * b + 1 | .rd b => 2 ^ 20 + 4 * b + 2 | .tm b => 2 ^ 20 + 4 * b + 3

/-- The queue names a queue the module has. -/
def QueueRef.ok : QueueRef → Bool
  | .mx c | .cx c | .vx c | .tw c => decide (c < 4096)
  | .mv b | .up b | .rd b | .tm b => decide (b < 256)
  | .sysRd k | .sysTm k | .sysCk k => decide (k < 8)

/-- The queue is one of a system core. -/
def QueueRef.isSys : QueueRef → Bool
  | .sysRd _ | .sysTm _ | .sysCk _ => true
  | _ => false

/-- Depth of a queue (R173). -/
def QueueRef.depth : QueueRef → Nat
  | .mx _ | .vx _ | .sysRd _ | .sysTm _ | .sysCk _ => 8
  | _ => 4

/-- The compute die and basin whose lock-keeper and shares a queue's commands use: its own basin, and for a system core
that of the nearer dies 0 and 3 (assumption 13). -/
def QueueRef.basin : QueueRef → Nat
  | .mx c | .cx c | .vx c | .tw c => c / 16
  | .mv b | .up b | .rd b | .tm b => b
  | .sysRd k | .sysTm k | .sysCk k => if k < 4 then 0 else 96

end Sys2Proof

namespace Sys2Proof.Machine

/-- The commands in a queue, oldest first. -/
def Block.queue (s : Block) : QueueRef → List Cmd
  | .mx c => (s.core c).q.mx | .cx c => (s.core c).q.cx | .vx c => (s.core c).q.vx | .tw c => (s.core c).q.tw
  | .sysRd k => (s.core (4096 + k)).q.rd | .sysTm k => (s.core (4096 + k)).q.tm | .sysCk k => (s.core (4096 + k)).q.ck
  | .mv b => (s.basin b).mv | .up b => (s.basin b).up | .rd b => (s.basin b).rd | .tm b => (s.basin b).tm

def Core.modQ (c : Core) (f : CoreQueues → CoreQueues) : Core := { c with q := f c.q }

/-- Replace the commands in a queue. -/
def Block.setQueue (s : Block) (q : QueueRef) (l : List Cmd) : Block :=
  match q with
  | .mx c => s.modCore c (·.modQ fun x => { x with mx := l })
  | .cx c => s.modCore c (·.modQ fun x => { x with cx := l })
  | .vx c => s.modCore c (·.modQ fun x => { x with vx := l })
  | .tw c => s.modCore c (·.modQ fun x => { x with tw := l })
  | .sysRd k => s.modCore (4096 + k) (·.modQ fun x => { x with rd := l })
  | .sysTm k => s.modCore (4096 + k) (·.modQ fun x => { x with tm := l })
  | .sysCk k => s.modCore (4096 + k) (·.modQ fun x => { x with ck := l })
  | .mv b => s.modBasin b fun x => { x with mv := l }
  | .up b => s.modBasin b fun x => { x with up := l }
  | .rd b => s.modBasin b fun x => { x with rd := l }
  | .tm b => s.modBasin b fun x => { x with tm := l }

/-- The queue that commands of a unit code enter from a core; none where the unit is not valid there (R143). -/
def queueOf (core unit : Nat) : Option QueueRef :=
  if isSystem core then
    match unit with
    | 8 => some (.sysRd (core - 4096))
    | 9 => some (.sysTm (core - 4096))
    | 10 => some (.sysCk (core - 4096))
    | _ => none
  else
    match unit with
    | 1 | 6 => some (.mx core)
    | 2 => some (.cx core)
    | 3 => some (.mv (basinOf core))
    | 4 => some (.vx core)
    | 5 => some (.tw core)
    | 7 => some (.up (basinOf core))
    | 8 => some (.rd (basinOf core))
    | 9 => some (.tm (basinOf core))
    | _ => none

/-- Change the command with id `id` in a queue. -/
def Block.modCmd (s : Block) (q : QueueRef) (id : Nat) (f : Cmd → Cmd) : Block :=
  s.setQueue q ((s.queue q).map fun c => if c.id = id then f c else c)

/-! ### The command block (R179, R180) -/

def Cmd.fld (c : Cmd) (off n : Nat) : Nat := Machine.fld c.block off n
def Cmd.flags (c : Cmd) : Nat := c.fld 2 1
def Cmd.dep (c : Cmd) : Bool := bitOf c.flags 0
def Cmd.depStrict (c : Cmd) : Bool := bitOf c.flags 1
def Cmd.signal (c : Cmd) : Bool := bitOf c.flags 2
def Cmd.depTicket (c : Cmd) : Nat := c.fld 4 2
def Cmd.wakeThread (c : Cmd) : Nat := bitsOf (c.fld 6 1) 0 4
def Cmd.grantQ (c : Cmd) : Nat := c.fld 8 4
def Cmd.grantLk (c : Cmd) : Nat := c.fld 0xC 4
def Cmd.grantTlb (c : Cmd) : Nat := c.fld 0x10 4

/-- The header checks of R181. -/
def headerOk (block : List Byte) (unit code : Nat) : Bool :=
  fld block 7 1 == 1 && fld block 0 1 == unit && fld block 1 1 == code && bitsOf (fld block 2 1) 4 4 == 0
    && bitsOf (fld block 6 1) 4 4 == 0 && fld block 0x14 4 == 0
    && (!bitOf (fld block 2 1) 3 || (unit == 1 && (1 ≤ code && code ≤ 4)))

/-- A tile-store region lies wholly in tile store (R1022). -/
def inTile (off n : Nat) : Bool := decide (off + n ≤ 0x80000)

/-- A command keeps what its unit holds at a stop. -/
def Block.holdCmd (s : Block) (q : QueueRef) (id : Nat) (carried : List Nat) : Block :=
  s.modCmd q id fun x => { x with carried := carried }

/-! ### Tickets (R188–R197) -/

/-- The ticket of a command. -/
def Cmd.ticket (c : Cmd) : Nat := c.unit * 4096 + c.index % 4096

/-- What a ticket names on a core. -/
inductive TicketIs where
  | null | invalid | stale | done (st : Status) | waiting (index : Nat)
  deriving DecidableEq, Repr

/-- Commands of a unit code the core has entered since it was bound (R189). -/
def Core.entered (c : Core) (unit : Nat) : Nat := SMap.get 0 unit c.q.entered

/-- What a 16-bit ticket names (R190–R192). -/
def ticketIs (s : Block) (core ticket : Nat) : TicketIs :=
  if ticket = 0 then .null
  else
    let unit := ticket / 4096
    if (queueOf core unit).isNone then .invalid
    else
      let n := (s.core core).entered unit
      let seq := ticket % 4096
      let age := (n + 4096 - 1 - seq % 4096 + 4096 * (n + 1)) % 4096
      if age < 256 && age < n then
        let index := n - 1 - age
        match (s.core core).q.done.find? fun d => d.unit == unit && d.index == index with
        | some d =>
          match d.status with
          | some st => .done st
          | none => .waiting index
        | none => .waiting index
      else .stale

/-- What the dependency of a command comes to as it enters (R185–R187, R190, R191, R196): the command it waits for, or the
status it is cancelled with. -/
def depAtEntry (s : Block) (c : Cmd) : Option (Nat × Nat) × Option Status :=
  if !c.dep then (none, none)
  else
    match ticketIs s c.core c.depTicket with
    | .null | .stale => (none, none)
    | .invalid => (none, some .internal)
    | .waiting index => (some (c.depTicket / 4096, index), none)
    | .done st => (none, if c.depStrict && st.isFailure then some st else none)

/-- A command's dependency is satisfied, or has cancelled it. -/
def depMet (c : Cmd) : Bool := c.depOn.isNone

/-- The dependency of a block, if it has one, is satisfied as the command enters: the checks that need the command's
operands can be made at once (assumption 17). -/
def depReady (s : Block) (core : Nat) (block : List Byte) : Bool :=
  !bitOf (fld block 2 1) 0 ||
    match ticketIs s core (fld block 4 2) with
    | .waiting _ => false
    | _ => true

/-! ### Lock passes (R899–R914) -/

/-- The partition that a queue's commands run for: 64, which no partition is, for a system core's queue (R45). -/
def partOfQueue (s : Block) (q : QueueRef) : Nat := if q.isSys then 64 else (s.partOfBasin q.basin).getD 64

/-- The key of a partition's share on a die. -/
def shareKey (die p : Nat) : Nat := die * 64 + p

/-- Basins of a partition on a die (R899). -/
def shareBasins (s : Block) (die p : Nat) : Nat :=
  match SMap.find p s.parts with
  | some x => (x.basins.filter fun b => dieOfBasin b == die).length
  | none => 0

/-- SCALE of a die, 12 fraction bits (R901). -/
def Block.scale (s : Block) (die : Nat) : Nat := (SMap.get 0x1000 die s.lock.scale).toNat

/-- The smallest class whose 2^(c−1) µJ is at least the energy, from `c` on, at most 20 (R905). Energies are in pJ. -/
def classFrom (e : Nat) : Nat → Nat → Nat
  | c, 0 => c
  | c, k + 1 => if e ≤ 2 ^ (c - 1) * 1000000 then c else classFrom e (c + 1) k

/-- The derived class (R905). -/
def derivedClass (scaled : Nat) : Nat := classFrom scaled 1 19

/-- The scaled energy of a command on a die. -/
def scaledEnergy (s : Block) (die e : Nat) : Nat := ceilDiv (s.scale die * e) 4096

/-- The units whose requests level 2 refuses (R913). -/
def refusedAt2 (unit : Nat) : Bool := unit == 1 || unit == 2 || unit == 3 || unit == 6

/-- A new request of a unit is refused at the present weir level (R913). -/
def weirRefuses (s : Block) (unit : Nat) : Bool :=
  decide (3 ≤ s.lock.level) || (decide (2 ≤ s.lock.level) && refusedAt2 unit)

/-- Count a refused request (`LK_DIE_WAIT_d`). -/
def countRefused (die : Nat) (s : Block) : Block :=
  { s with lock := { s.lock with refused := SMap.put 0 die (SMap.get 0 die s.lock.refused + 1) s.lock.refused } }

/-- The partition whose share a basin belongs to. -/
def partOfShare (s : Block) (b : Nat) : Nat := (s.partOfBasin b).getD 64

/-- A request joins the FIFO of its class in a basin (R909). -/
def addRequest (r : PassReq) (b : Nat) (s : Block) : Block := s.modBasin b fun x => { x with passes := x.passes ++ [r] }

/-- A heavy command requests its pass: of the declared class when that is higher than the derived one (R182, R183), or,
resuming, of the class derived from its work (R912). A refused new request makes it complete with REFUSED_SAG (R913). -/
def requestPass (q : QueueRef) (c : Cmd) (s : Block) : Block :=
  let die := dieOfBasin c.passBasin
  if weirRefuses s c.unit && !c.resumePass then
    countRefused die (s.modCmd q c.id fun x => { x with cancel := some .refusedSag })
  else
    let e := scaledEnergy s die c.energy
    let cls := if c.resumePass then derivedClass e else max c.passClass (derivedClass e)
    let s := s.modCmd q c.id fun x => { x with phase := .passWait, passClass := cls, more := ceilDiv e 524288000000 - 1 }
    addRequest { q := q, id := c.id, cls := cls, part := partOfShare s c.passBasin, since := s.gl.timebase.toNat } c.passBasin s

/-- The running power of a share of basin `b` starts or ends (R911). -/
def addPower (b : Nat) (mw : Int) (s : Block) : Block :=
  let k := shareKey (dieOfBasin b) (partOfShare s b)
  let old := SMap.get 0 k s.lock.runMw
  { s with lock := { s.lock with runMw := SMap.put 0 k ((old : Int) + mw).toNat s.lock.runMw } }

/-! ### Unit power states (R924–R928) -/

/-- The gateable unit that runs a queue's commands. -/
def gateOf : QueueRef → Option GateRef
  | .mx c | .cx c => some (.core c false)
  | .vx c => some (.core c true)
  | .mv b => some (.basin b false)
  | .up b => some (.basin b true)
  | _ => none

def Block.gate (s : Block) : GateRef → Gate
  | .core c false => (s.core c).regs.gate0
  | .core c true => (s.core c).regs.gate1
  | .basin b false => (s.basin b).gate0
  | .basin b true => (s.basin b).gate1

def Block.setGate (s : Block) (u : GateRef) (g : Gate) : Block :=
  match u with
  | .core c false => s.modCore c fun x => { x with regs := { x.regs with gate0 := g } }
  | .core c true => s.modCore c fun x => { x with regs := { x.regs with gate1 := g } }
  | .basin b false => s.modBasin b fun x => { x with gate0 := g }
  | .basin b true => s.modBasin b fun x => { x with gate1 := g }

/-- A unit that is not gateable, or is ON, runs commands. -/
def unitOn (s : Block) (q : QueueRef) : Bool :=
  match gateOf q with
  | none => true
  | some u => decide ((s.gate u).st = .on) || decide ((s.gate u).st = .stopping)

/-- A command enters a queue whose unit is OFF or STOPPING (R927): OFF starts; STOPPING holds a pending enable. -/
def gateEnter (q : QueueRef) (s : Block) : Block :=
  match gateOf q with
  | none => s
  | some u =>
    let g := s.gate u
    match g.st with
    | .off => s.setGate u { g with st := .starting }
    | .stopping => s.setGate u { g with pendingEn := true }
    | _ => s

/-- The command finds its unit STOPPING, so that it completes with UNIT_STOPPING when no other status applies (R927). -/
def enterHeld (s : Block) (q : QueueRef) : Bool :=
  match gateOf q with
  | none => false
  | some u => decide ((s.gate u).st = .stopping)

/-! ### Stops (R536, R537, R540, R918) -/

/-- The core's engines are stopped or stopping: STOP_REQ, or weir level 3 and above. -/
def coreStopped (s : Block) (c : Nat) : Bool := (s.core c).regs.stopReq || decide (3 ≤ s.lock.level)

/-- The basin's MVU and update unit are stopped or stopping. -/
def basinStopped (s : Block) (b : Nat) : Bool := (s.basin b).stopReq || decide (3 ≤ s.lock.level)

/-- No command of the queue starts now. -/
def queueStopped (s : Block) : QueueRef → Bool
  | .mx c | .cx c | .vx c | .tw c => coreStopped s c
  | .mv b | .up b => basinStopped s b
  | .rd _ | .tm _ | .sysRd _ | .sysTm _ => decide (3 ≤ s.lock.level)
  | .sysCk _ => false

/-! ### Entering a queue -/

/-- What a unit makes of a block at entry: the status of a failed check and whether the command then has no other effect, or whether the command is heavy, its derived
energy in pJ and its pass power in mW, and the basin its pass is charged to where that is not the queue's. -/
structure Entry where
  refuse : Option Status
  quiet : Bool := false
  heavy : Bool
  energy : Nat
  power : Nat
  basin : Option Nat := none
  deriving DecidableEq, Repr

/-- A command that is never heavy and passes its checks. -/
def Entry.light : Entry := { refuse := none, heavy := false, energy := 0, power := 0 }
/-- A command refused at entry, with no other effect: its SIGNAL is not given. -/
def Entry.bad (st : Status) : Entry := { refuse := some st, quiet := true, heavy := false, energy := 0, power := 0 }
/-- A command that ends at entry with a status by a rule that does not take its SIGNAL away. -/
def Entry.fails (st : Status) : Entry := { refuse := some st, heavy := false, energy := 0, power := 0 }
/-- INTERNAL with no other effect unless `ok`, else the entry. -/
def Entry.when (ok : Bool) (e : Entry) : Entry := if ok then e else .bad .internal
/-- INTERNAL unless `ok`, else the entry. -/
def Entry.unless (ok : Bool) (e : Entry) : Entry := if ok then e else .fails .internal
/-- A heavy command: a reserved ENERGY_CLASS is INTERNAL (R903). -/
def Entry.heavyOf (block : List Byte) (energy power : Nat) : Entry :=
  if 0x14 < fld block 3 1 then .fails .internal else { refuse := none, heavy := true, energy := energy, power := power }

/-- Threads of a core that wait for queue `q` issue again (R145, R210). -/
def releaseQueue (q : QueueRef) (s : Block) : Block :=
  { s with cores := s.cores.map fun e =>
      (e.1, { e.2 with threads := e.2.threads.map fun t =>
        if t.2.st = .parked && t.2.reason = .queueFull && t.2.wait = .queue q then (t.1, t.2.release) else t }) }

/-- Completion statuses kept: those of current tickets (R193). -/
def pruneDone (unit n : Nat) (l : List Done) : List Done :=
  l.filter fun d => d.unit != unit || decide (n < d.index + 257)

/-- A STEP change that has entered the vector queue of a core and not completed (R312). -/
def stepPending (s : Block) (core : Nat) : Option U32 :=
  ((s.core core).q.vx.find? fun c => c.code == 3 && c.refuse.isNone && c.cancel.isNone).map fun c => BitVec.ofNat 32 (c.fld 0x18 4)

/-- The STEP a command entering now rounds with (R311, R312). -/
def stepAtEntry (core : Nat) (s : Block) : U32 × Block :=
  match stepPending s core with
  | none => ((s.core core).step, s)
  | some new =>
    let (n, s) := s.freeBelow 2
    (if n = 0 then (s.core core).step else new, s)

/-- A command enters its queue: it takes its ticket, which gD receives (R141, R174, R188, R189). A heavy one whose
dependency is satisfied requests its pass (R907). -/
def enterCmd (th : Nat) (d : Reg) (pk : Pred) (unit code : Nat) (q : QueueRef) (block : List Byte) (e : Entry)
    (s : Block) : Block :=
  let core := th / 16
  let n := (s.core core).entered unit
  let (step, s) := stepAtEntry core s
  let c : Cmd :=
    { id := s.nextId, unit := unit, code := code, index := n, core := core, thread := th, block := block,
      refuse := e.refuse, cancel := none, quiet := e.quiet, depOn := none, phase := .entered, heavy := e.heavy, passClass := fld block 3 1, energy := e.energy,
      power := e.power, more := 0, resumePass := false, pk := pk.toNat, gather := none, stopping := false, pos := 0,
      faultVa := none, hold := enterHeld s q, step := step, guard := [],
      broken := false, passBasin := e.basin.getD q.basin, carried := [], strict := none, clash := [],
      shard := [] }
  let dep := if e.refuse.isSome then (none, none) else depAtEntry s c
  let c := { c with depOn := dep.1, cancel := dep.2 }
  let s := { s with nextId := s.nextId + 1 }
  let s := s.modCore core (·.modQ fun x =>
    { x with entered := SMap.put 0 unit (n + 1) x.entered
             done := pruneDone unit (n + 1) x.done ++ [{ unit := unit, index := n, status := none }] })
  let s := s.modThread th fun t =>
    { (t.setG d (BitVec.ofNat 64 c.ticket)).next 4 with
      pPend := if pk = 0 then t.pPend else t.pPend ||| (1#8 <<< pk.toNat) }
  let s := gateEnter q (s.setQueue q (s.queue q ++ [c]))
  if e.heavy && e.refuse.isNone && c.cancel.isNone && depMet c then requestPass q c s else s

/-- The grant number check of ticket mode (R89, R90, R209): `none` lets the command wait, else whether it repeats a
number already granted. -/
def grantState (s : Block) (q : QueueRef) (g : Nat) : Option Bool :=
  if !s.ticketMode (partOfQueue s q) then some false
  else
    let next := SMap.get 0 q.key s.gl.grantQ
    if next < g then none else some (decide (g < next))

/-- The granted number of a queue moves on. -/
def grantTaken (q : QueueRef) (g : Nat) (s : Block) : Block :=
  if s.ticketMode (partOfQueue s q) then
    releaseQueue q { s with gl := { s.gl with grantQ := SMap.put 0 q.key (g + 1) s.gl.grantQ } }
  else s

/-- The thread is PARKED on the `eng` word of a queue it cannot enter (R145, R209). -/
def parkOnQueue (th : Nat) (q : QueueRef) (s : Block) : Block :=
  s.modThread th fun t => { t with st := .parked, reason := .queueFull, wait := .queue q }

/-- Read a command block (R129, R142): from tile store, or through translation on a system core; a failing read
traps. The thread's stores are in memory first. -/
def readBlock (th : Nat) (addr : U64) (s : Block) : Option (List Byte) × Block :=
  let core := th / 16
  let s := landOwn th s
  if addr.toNat % 64 ≠ 0 then (none, takeTrap th .misaligned .ok 0 s)
  else if isSystem core then
    match vread (whoThread s th 1) none addr.toNat 64 s with
    | (.ok bs, s) => (some bs, s)
    | (.error (st, va), s) => (none, takeTrap th .memFault st va s)
  else if 0x7FFC0 < addr.toNat then (none, takeTrap th .tsRange .ok 0 s)
  else
    match (s.core core).badIn addr.toNat 64 with
    | some w => (none, takeTrap th .memFault .eccUncorrectable 0 (eccSram core w false s))
    | none => (some (Mem.read (s.core core).ts addr.toNat 64), s)

/-- The address checks of R142 that come before the queue is asked for room. -/
def blockTrap (th : Nat) (addr : U64) : Option TrapCause :=
  if addr.toNat % 64 ≠ 0 then some .misaligned
  else if !isSystem (th / 16) && decide (0x7FFC0 < addr.toNat) then some .tsRange
  else none

/-- ISSUING AN ENGINE COMMAND: the shared form of every `eng` row that takes a ticket (R141–R145, R181, R209). `entry`
gives the unit's checks and energy for a block whose header is sound, `enter` what entering does. -/
def engWord (th : Nat) (a : Reg) (unit code : Nat) (entry : Block → List Byte → Entry)
    (enter : QueueRef → List Byte → Entry → Block → Block) (s : Block) : Block :=
  match queueOf (th / 16) unit with
  | none => takeTrap th .illegalOp .ok 0 s
  | some q =>
    match blockTrap th (s.g th a) with
    | some cause => takeTrap th cause .ok 0 s
    | none =>
      if q.depth ≤ (s.queue q).length then parkOnQueue th q s
      else
        match readBlock th (s.g th a) s with
        | (none, s) => s
        | (some block, s) =>
          match grantState s q (fld block 8 4) with
          | none => parkOnQueue th q s
          | some true => enter q block (.bad .internal) s
          | some false =>
            let e := if headerOk block unit code then entry s block else .bad .internal
            enter q block e (grantTaken q (fld block 8 4) s)

/-- An `eng` row whose command enters its queue as an ordinary command. -/
def issueEng (th : Nat) (d a : Reg) (pk : Pred) (unit code : Nat) (entry : Block → List Byte → Entry) (s : Block) : BlockResult :=
  issueP th [pk] s (engWord th a unit code entry fun q block e s => enterCmd th d pk unit code q block e s)

/-- The command codes a unit has; the others of its 256 are reserved (R284, R358, R558 and the code tables of the other units). -/
def unitCodes : Nat → List Nat
  | 1 => [1, 2, 3, 4, 5]
  | 2 | 3 | 5 | 8 | 9 => [1, 2, 3]
  | 4 => [0x01, 0x02, 0x03, 0x04, 0x05, 0x41, 0x42, 0x43, 0x44, 0x45, 0x46, 0x47, 0x48, 0x49, 0x4A, 0x4B, 0x4C, 0x4D, 0x4E, 0x4F,
      0x50, 0x51, 0x52, 0x58, 0x59, 0x5A, 0x5B, 0x5C, 0x5D]
  | 6 => [0x10, 0x11, 0x12]
  | 7 => [1, 2, 3, 4]
  | _ => [1]

/-- The first row of a unit, which also stands for the unit's reserved codes: a command of a reserved code enters its queue and
completes with INTERNAL, with no other effect (R181, R284, R559). A code of another row is not this row's. -/
def issueFirst (th : Nat) (d a : Reg) (pk : Pred) (unit own : Nat) (code : BitVec 8) (f : Block → BlockResult) (s : Block) :
    BlockResult :=
  if code.toNat = own then f s
  else if (unitCodes unit).contains code.toNat then .fault .noSuchUnit
  else issueEng th d a pk unit code.toNat (fun _ _ => .bad .internal) s

/-! ### Completion (R175, R193, R199) -/

/-- What an engine's work on a command comes to: a status, a wait for a page (its address), a stop point with the work
before it done and the partial sums the unit holds there, or nothing yet. Positions count the pieces of work between stop
points that are done. -/
inductive Work where
  | done (st : Status) (s : Block)
  | fault (va : Nat) (pos : Nat) (s : Block)
  | point (pos : Nat) (carried : List Nat) (s : Block)
  | notYet (s : Block)

/-- How far a run of a command of `n` pieces goes from piece `pos`: to the end, or over at most `k` pieces. -/
def runTo (limit : Option Nat) (pos n : Nat) : Nat :=
  match limit with
  | none => n
  | some k => min n (pos + k)

/-- A command asked to reach a stop point has none left. -/
def noPoint (limit : Option Nat) (pos n : Nat) : Bool := limit.isSome && decide (n ≤ pos)

/-! ### TLB grant numbers (R89, R90, R208, R211) -/

/-- Drop from the numbers granted ahead those that are next: a sequence is held as its next number and those above it that
are granted already. -/
def compactGrants : Nat → Nat → List Nat → List Nat
  | 0, next, l => next :: l
  | n + 1, next, l => if l.contains next then compactGrants n (next + 1) (l.filter (· != next)) else next :: l

/-- A sequence after some numbers are granted. -/
def takeGrants (ns l : List Nat) : List Nat := compactGrants (l.length + ns.length) (l.headD 0) (ns ++ l.tail)

/-- Whether it is the turn of grant number `g` in a sequence: none to wait for lower numbers, else whether it repeats one
already granted. -/
def grantTurn (l : List Nat) (g : Nat) : Option Bool :=
  let next := l.headD 0
  if g < next || l.tail.contains g then some true else if g = next then some false else none

/-- Whether it is the turn of grant number `g` at the TLB of a queue's basin. -/
def tlbTurn (s : Block) (q : QueueRef) (g : Nat) : Option Bool :=
  if s.ticketMode (partOfQueue s q) then grantTurn (SMap.get [] q.basin s.gl.grantTlb) g else some false

/-- The TLB of a queue's basin has granted some numbers. -/
def tlbDone (q : QueueRef) (ns : List Nat) (s : Block) : Block :=
  if s.ticketMode (partOfQueue s q) then
    { s with gl := { s.gl with grantTlb := SMap.put [] q.basin (takeGrants ns (SMap.get [] q.basin s.gl.grantTlb)) s.gl.grantTlb } }
  else s

/-- A thread goes on past the word it was PARKED on, with a value in gD. -/
def finishWait (t : Thread) (d : Nat) (v : Nat) : Thread :=
  ((t.setG (BitVec.ofNat 5 d) (BitVec.ofNat 64 v)).next 4).release

/-- Threads of the core that wait on the completed command: `sy.wait` (R194) and fences (R200). A stopped thread keeps
its wait and looks again when it resumes (R206). -/
def releaseWaiters (c : Cmd) (st : Status) (t : Thread) : Thread :=
  if t.st = .parked && t.reason = .sywait then
    match t.wait with
    | .ticket unit index d => if unit = c.unit && index = c.index then finishWait t d st.code else t
    | .restored unit index => if unit = c.unit && index = c.index then t.release else t
    | .fence ids =>
      if ids.contains c.id then
        let ids := ids.filter (· != c.id)
        if ids.isEmpty then (t.next 4).release else { t with wait := .fence ids }
      else t
    | _ => t
  else t

/-- The LAST_STATUS and COMPLETED of a unit move on. -/
def UnitStat.bump (u : UnitStat) (st : Status) : UnitStat := { last := st, completed := u.completed + 1 }

/-- The reduction engine nearer to a compute die (R747): that of the I/O die at its end of the row. -/
def engineOfDie (die : Nat) : Nat := if die % 4 < 2 then 0 else 1

def modRdEngine (e : Nat) (f : RdEngine → RdEngine) (s : Block) : Block :=
  { s with rdEngines := SMap.put RdEngine.init e (f (SMap.get RdEngine.init e s.rdEngines)) s.rdEngines }

/-- The status register of the completed command's unit. -/
def bumpStat (c : Cmd) (st : Status) (s : Block) : Block :=
  match c.unit with
  | 1 => s.modCore c.core fun x => { x with regs := { x.regs with mxStat := x.regs.mxStat.bump st } }
  | 2 => s.modCore c.core fun x => { x with regs := { x.regs with cxStat := x.regs.cxStat.bump st } }
  | 3 => s.modBasin (basinOf c.core) fun x => { x with mvStat := x.mvStat.bump st }
  | 4 => s.modCore c.core fun x => { x with regs := { x.regs with vxStat := x.regs.vxStat.bump st } }
  | 6 => s.modCore c.core fun x => { x with regs := { x.regs with atStat := x.regs.atStat.bump st } }
  | 7 => s.modBasin (basinOf c.core) fun x => { x with upStat := x.upStat.bump st, upCode := c.code }
  | 8 => modRdEngine (engineOfDie (dieOfBasin (if isSystem c.core then (if c.core < 4100 then 0 else 96) else basinOf c.core)))
      (fun e => { e with last := st }) s
  | _ => s

/-- A dependency on command (unit, index), which completes with a status, is met or cancels (R180, R185); a gathered
submission keeps the status for the end of its group (R229). -/
def Cmd.depEnds (unit index : Nat) (st : Status) (x : Cmd) : Cmd :=
  if x.depOn = some (unit, index) then
    let x := { x with depOn := none }
    if !(x.depStrict && st.isFailure) then x
    else if x.gather.isSome then { x with strict := some st }
    else { x with cancel := some (x.cancel.getD st) }
  else x

/-- Every command of a core that depends on a completed one takes note of its status. -/
def settleDeps (c : Cmd) (st : Status) (s : Block) : Block :=
  let f := fun (l : List Cmd) => l.map fun x => if x.core = c.core then x.depEnds c.unit c.index st else x
  let s := s.modCore c.core (·.modQ fun x =>
    { x with mx := f x.mx, cx := f x.cx, vx := f x.vx, tw := f x.tw, rd := f x.rd, tm := f x.tm, ck := f x.ck })
  if isSystem c.core then s
  else s.modBasin (basinOf c.core) fun b => { b with mv := f b.mv, up := f b.up, rd := f b.rd, tm := f b.tm }

/-- The summary that `vx.sum` on (unit, index) reads, when one is held (R212, R216, R217). -/
def Core.summary (c : Core) (unit index : Nat) : Option Summary :=
  c.q.summaries.find? fun x => x.unit == unit && x.index == index

/-- One field of a summary (R212); none for a reserved SELECT. -/
def Summary.field (x : Summary) (sel : Nat) : Option Nat :=
  let sat := fun n => min n 0xFFFFFFFF
  match sel with
  | 0 => some x.sum.toNat
  | 1 => some x.maxAbs.toNat
  | 2 => some (sat x.nanCount)
  | 3 => some (sat x.infCount)
  | 4 => some (sat x.satCount)
  | 5 => some (sat x.maskCount)
  | 6 => some (sat x.emptyRows)
  | 7 => some (b2n (x.nanCount != 0) + 2 * b2n (x.infCount != 0) + 4 * b2n (x.satCount != 0) + 8 * b2n (x.emptyRows != 0))
  | _ => none

/-- `vx.sum` answers: gD and its predicate (R215, R217). -/
def answerSum (c : Core) (unit index sel d pk : Nat) (t : Thread) : Thread :=
  let v := (c.summary unit index).bind (·.field sel)
  (t.setG (BitVec.ofNat 5 d) (BitVec.ofNat 64 (v.getD 0))).setP (BitVec.ofNat 3 pk) v.isSome

/-- Threads WAITING in `vx.sum` for the completed command (R214). -/
def releaseSums (c : Cmd) (core : Core) (t : Thread) : Thread :=
  if t.st = .waiting then
    match t.wait with
    | .sum unit index sel d pk =>
      if unit = c.unit && index = c.index then ((answerSum core unit index sel d pk t).next 4).release else t
    | _ => t
  else t

/-- The predicate an engine command defines is written: threads WAITING for it go on (R103). -/
def clearPending (pk : Nat) (t : Thread) : Thread :=
  let t := { t with pPend := t.pPend &&& ~~~(1#8 <<< pk) }
  if t.st = .waiting && t.wait = .operand then t.release else t

/-- A COMMAND COMPLETES with a status: it leaves its queue, its status is recorded and its waiters go on; a command
held by a unit's restart turns OK into UNIT_STOPPING (R175, R180, R193, R927). -/
def finishCmd (q : QueueRef) (c : Cmd) (st : Status) (s : Block) : Block :=
  let st := if st = .ok && c.hold then .unitStopping else st
  let s := s.setQueue q ((s.queue q).filter fun x => x.id != c.id)
  let s := s.modBasin c.passBasin fun b => { b with passes := b.passes.filter fun p => p.id != c.id }
  let s := if c.heavy && c.phase = .running then addPower c.passBasin (-(c.power : Int)) s else s
  let s := bumpStat c st s
  let s := s.modCore c.core fun x =>
    let x := x.modQ fun y =>
      { y with done := y.done.map fun d => if d.unit = c.unit && d.index = c.index then { d with status := some st } else d }
    { x with threads := x.threads.map fun t => (t.1, releaseSums c x (releaseWaiters c st t.2)) }
  let s := settleDeps c st (if c.pk = 0 then s else s.modThread c.thread (clearPending c.pk))
  let s := if c.signal && !c.quiet then wakeThread (c.core * 16 + c.wakeThread) s else s
  releaseQueue q s

/-- Every command in every queue of the module, with its queue. -/
def allQueues (s : Block) : List (QueueRef × Cmd) :=
  (s.cores.flatMap fun e =>
    if isSystem e.1 then
      e.2.q.rd.map (QueueRef.sysRd (e.1 - 4096), ·) ++ e.2.q.tm.map (QueueRef.sysTm (e.1 - 4096), ·)
        ++ e.2.q.ck.map (QueueRef.sysCk (e.1 - 4096), ·)
    else
      e.2.q.mx.map (QueueRef.mx e.1, ·) ++ e.2.q.cx.map (QueueRef.cx e.1, ·) ++ e.2.q.vx.map (QueueRef.vx e.1, ·)
        ++ e.2.q.tw.map (QueueRef.tw e.1, ·))
  ++ s.basins.flatMap fun e =>
    e.2.mv.map (QueueRef.mv e.1, ·) ++ e.2.up.map (QueueRef.up e.1, ·) ++ e.2.rd.map (QueueRef.rd e.1, ·)
      ++ e.2.tm.map (QueueRef.tm e.1, ·)

/-- No command of a queue stands before `c` from the same core (R175). -/
def firstOfCore (s : Block) (q : QueueRef) (c : Cmd) : Bool :=
  match (s.queue q).find? fun x => x.core == c.core with
  | some x => x.id == c.id
  | none => false

end Sys2Proof.Machine
end

