-- ==== Sys2Proof/Machine/LoadStore.lean ====
section
/-! DEFINITION. Loads and stores, atomics, the return of their data, and instruction-cache fills (R104, R123–R134,
R1009). -/

namespace Sys2Proof.Machine

/-- A tile-store access of a thread is checked in turn: class, alignment, range, lock chambers, memory errors (R124–R126,
R146, R427, R1006). Where several of these fail, which trap is taken is DESIGN CHOICE: this order (assumption 96). -/
def tileAccess (th : Nat) (ea : U64) (n : Nat) (bad : Core → Option Nat) (f : Block → Block) (s : Block) : Block :=
  let c := th / 16
  if isSystem c then takeTrap th .illegalOp .ok 0 s
  else if ea.toNat % n ≠ 0 then takeTrap th .misaligned .ok 0 s
  else if 0x7FFFF - n + 1 < ea.toNat then takeTrap th .tsRange .ok 0 s
  else
    match (s.core c).streamTouch ea.toNat n with
    | some (k, upper) => waitFor th (.chamber k upper) s
    | none =>
      match bad (s.core c) with
      | some w => takeTrap th .memFault .eccUncorrectable 0 (eccSram c w false s)
      | none => f s

/-- `ldt` (R123–R126). -/
def execLdt (th : Nat) (d a : Reg) (size : BitVec 2) (sx : Bool) (off : BitVec 11) (s : State) : Result := onBlock s fun s =>
  issue th false s fun s =>
    let ea := effAddr s th a size off
    let n := sizeBytes size
    tileAccess th ea n (·.badIn ea.toNat n)
      (fun s => finishG th d (extendTo64 n sx (Mem.nat (s.core (th / 16)).ts ea.toNat n))
        (s.modCore (th / 16) fun c => c.touchGuard false ea.toNat n)) s

/-- `stt` (R123–R126, R128). -/
def execStt (th : Nat) (d a : Reg) (size : BitVec 2) (off : BitVec 11) (s : State) : Result := onBlock s fun s =>
  issue th false s fun s =>
    let ea := effAddr s th a size off
    let n := sizeBytes size
    tileAccess th ea n (·.tsWriteBad ea.toNat n)
      (fun s =>
        let v := s.g th d
        (s.modCore (th / 16) fun c =>
          ((c.markClash 4 ea.toNat n).touchGuard true ea.toNat n).tsWrite ea.toNat (leBytes n v.toNat)).noteLanded (th / 16) ea.toNat
            (leBytes n v.toNat) |>.modThread th fun t => t.next 4) s

/-- A memory access of a thread faults: its record and the trap (R126, R152, R531). -/
def memFault (th : Nat) (e : XErr) (acc va : Nat) (s : Block) : Block :=
  takeTrap th .memFault e.st va (xlateFail (whoThread s th 1) e acc va s)

/-- The access holds the key slot's previous epoch (R801, R804): the slot's number when it does. -/
def prevEpochOf (s : Block) (l : U64) : Bool :=
  let k := s.slot (leafSlot l)
  decide (k.st = .rotating) && leafEpoch l != k.epoch.toNat

/-- Translate a thread's access of `n` bytes with checks 1 to 6, faulting or going on with the physical page (R516); a
write or an atomic to a page that is MOVING leaves the thread WAITING (R466). -/
def threadXlate (th va n acc : Nat) (f : Xlate → Block → Block) (s : Block) : Block :=
  let c := th / 16
  let ctx := (s.ctxOf c).getD 0xFFFF
  if acc ≠ accRead && writeHeld s ctx va n acc then waitFor th (.moving va) s
  else
    match translate (tlbOf c) ctx va acc s with
    | (.error e, s) => memFault th e acc va s
    | (.ok x, s) => f x s

/-- The thread's own stores to a range are in memory: its accesses to one place take effect in program order (R127). -/
def landMine (th pa n : Nat) (s : Block) : Block := landWhere (fun x => x.th == th && x.meets pa n) s

/-- `ldv` (R126): after its checks the thread is WAITING for the data. A misaligned address makes no access: its trap records
address 0, as a cause without a faulting address does (DESIGN CHOICE, assumption 96). -/
def execLdv (th : Nat) (d a : Reg) (size : BitVec 2) (sx : Bool) (off : BitVec 11) (s : State) : Result := onBlock s fun s =>
  issue th false s fun s =>
    let ea := (effAddr s th a size off).toNat
    let n := sizeBytes size
    if ea % n ≠ 0 then takeTrap th .misaligned .ok 0 s
    else
      threadXlate th ea n accRead (fun x s =>
        let prev := prevEpochOf s x.leaf
        inflight (leafSlot x.leaf) prev (waitFor th (.load d.toNat ea x.pa n sx prev (leafSlot x.leaf)) (landMine th x.pa n s))) s

/-- `stv` (R126, R523, R549): once its checks have passed the thread goes on; its bytes are visible to others now or later,
which is not stated (R131), and to the thread itself at once (R127). -/
def execStv (th : Nat) (d a : Reg) (size : BitVec 2) (off : BitVec 11) (s : State) : Result := onBlock s fun s =>
  issue th false s fun s =>
    let ea := (effAddr s th a size off).toNat
    let n := sizeBytes size
    if ea % n ≠ 0 then takeTrap th .misaligned .ok 0 s
    else
      threadXlate th ea n accWrite (fun x s =>
        let ctx := (s.ctxOf (th / 16)).getD 0xFFFF
        let v := (s.g th d).toNat
        let prev := prevEpochOf s x.leaf
        let s := setDirty (tlbOf (th / 16)) ctx ea x s
        match t1WriteBad s x.pa n with
        | some w => memFault th { st := .eccUncorrectable } accWrite ea (eccAccess (whoThread s th 1) w s)
        | none =>
          let y : Store := { th := th, ctx := ctx, va := ea, pa := x.pa, bytes := leBytes n v, slot := leafSlot x.leaf, prev := prev }
          let s := landLook x.pa n (landMine th x.pa n s)
          let s := noteShard 1 (basinOf (th / 16)) ctx ea (Mem.read s.mem.t1 x.pa n) y.bytes s
          let s := inflight (leafSlot x.leaf) prev { s with stores := s.stores ++ [y] }
          (landLook x.pa n s).modThread th fun t => t.next 4) s

/-- The new value an atomic stores (R132); `w` is its width in bits. -/
def amoValue (op : AmoOp) (w : Nat) (old opnd expected : Nat) : Nat :=
  let m := 2 ^ w
  match op with
  | .add => (old + opnd) % m
  | .and => old &&& (opnd % m)
  | .or => old ||| (opnd % m)
  | .xor => old ^^^ (opnd % m)
  | .min => if sextInt w opnd < sextInt w old then opnd % m else old
  | .max => if sextInt w old < sextInt w opnd then opnd % m else old
  | .minu => min old (opnd % m)
  | .maxu => max old (opnd % m)
  | .swap => opnd % m
  | .cas => if old = expected % m then opnd % m else old

/-- The form of every `amo` (R132–R134): after its checks the thread is WAITING; the atomic is applied at the memory
controller when its data returns. -/
def amo (op : AmoOp) (th : Nat) (d a b : Reg) (wide : Bool) (s : Block) : BlockResult :=
  issue th false s fun s =>
    let ea := (s.g th a).toNat
    let n := if wide then 8 else 4
    if ea % n ≠ 0 then takeTrap th .misaligned .ok 0 s
    else
      threadXlate th ea n accAtomic (fun x s =>
        let prev := prevEpochOf s x.leaf
        let w := WaitOp.amo op d.toNat ea x.pa wide (s.g th b) (s.g th d) prev (leafSlot x.leaf) s.nextId
        let s := setDirty (tlbOf (th / 16)) ((s.ctxOf (th / 16)).getD 0xFFFF) ea x (landMine th x.pa n s)
        inflight (leafSlot x.leaf) prev (waitFor th w { s with nextId := s.nextId + 1 })) s

def execAmoAdd (th : Nat) (d a b : Reg) (wide : Bool) (s : State) : Result := onBlock s fun s => amo .add th d a b wide s
def execAmoAnd (th : Nat) (d a b : Reg) (wide : Bool) (s : State) : Result := onBlock s fun s => amo .and th d a b wide s
def execAmoOr (th : Nat) (d a b : Reg) (wide : Bool) (s : State) : Result := onBlock s fun s => amo .or th d a b wide s
def execAmoXor (th : Nat) (d a b : Reg) (wide : Bool) (s : State) : Result := onBlock s fun s => amo .xor th d a b wide s
def execAmoMin (th : Nat) (d a b : Reg) (wide : Bool) (s : State) : Result := onBlock s fun s => amo .min th d a b wide s
def execAmoMax (th : Nat) (d a b : Reg) (wide : Bool) (s : State) : Result := onBlock s fun s => amo .max th d a b wide s
def execAmoMinu (th : Nat) (d a b : Reg) (wide : Bool) (s : State) : Result := onBlock s fun s => amo .minu th d a b wide s
def execAmoMaxu (th : Nat) (d a b : Reg) (wide : Bool) (s : State) : Result := onBlock s fun s => amo .maxu th d a b wide s
def execAmoSwap (th : Nat) (d a b : Reg) (wide : Bool) (s : State) : Result := onBlock s fun s => amo .swap th d a b wide s
def execAmoCas (th : Nat) (d a b : Reg) (wide : Bool) (s : State) : Result := onBlock s fun s => amo .cas th d a b wide s

/-- An instruction with an outstanding access completes with a value in gD: the thread goes on, or reaches the boundary
at which a stop waits for it (R159, R448). -/
def finishAccess (d : Nat) (v : U64) (t : Thread) : Thread :=
  let t := (t.setG (BitVec.ofNat 5 d) v).next 4
  if t.stopAsked then { t with st := .stopped, wait := .none, stopAsked := false, reason := if t.pagerDue then .pager else .none }
  else t.release

/-- What a `sys.tstop` that waits for a thread in this state answers: OK once it is STOPPED, BUSY when it has become a
thread that cannot be stopped (R148, R149). -/
def tstopAnswer : TState → Option Status
  | .stopped => some .ok
  | .halted | .free => some .busy
  | _ => none

/-- Threads WAITING in `sys.tstop` for thread `th` receive their answer. -/
def answerTstop (th : Nat) (s : Block) : Block :=
  match tstopAnswer (s.thread th).st with
  | none => s
  | some st =>
    { s with cores := s.cores.map fun e =>
        (e.1, { e.2 with threads := e.2.threads.map fun t =>
          match t.2.wait with
          | .tstop target d => if t.2.st = .waiting && target = th then (t.1, finishWait t.2 d st.code) else t
          | _ => t }) }

/-- An outstanding access meets an uncorrectable error: its trap, and a stop that waited for it is answered by the
halt (R126, R159). -/
def accessError (th pa acc va slot : Nat) (prev : Bool) (s : Block) : Block :=
  (memFault th { st := .eccUncorrectable } acc va (landed slot prev (eccAccess (whoThread s th 1) pa s)))

/-- A thread's wait for the accesses that `sys.tlbinv` named, one of which was of thread `th`, which has none any more: with
the last of them it completes with OK (R528). -/
def invalStep (th : Nat) (t : Thread) : Thread :=
  match t.wait with
  | .inval ths d =>
    let ths := ths.filter (· != th)
    if t.st ≠ .waiting then t else if ths.isEmpty then finishWait t d Status.ok.code else { t with wait := .inval ths d }
  | _ => t

/-- An outstanding access of thread `th` is over: who waits for that goes on. -/
def accessOver (th : Nat) (s : Block) : Block :=
  answerTstop th { s with cores := s.cores.map fun e => (e.1, { e.2 with threads := e.2.threads.map fun t => (t.1, invalStep th t.2) }) }

/-- An older atomic of the same partition on the same location is outstanding: in ticket mode it comes first (R89; the words
of `amo` carry no grant number, and their order is that of their issue: DESIGN CHOICE, assumption 97). -/
def atomicHeld (s : Block) (th pa n order : Nat) : Bool :=
  match s.partOfBasin (basinOf (th / 16)) with
  | none => false
  | some p =>
    !isSystem (th / 16) && s.ticketMode p && s.cores.any fun e =>
      !isSystem e.1 && s.partOfBasin (basinOf e.1) == some p && e.2.threads.any fun t =>
        t.2.st = .waiting &&
          match t.2.wait with
          | .amo _ _ _ pa' wide _ _ _ _ o => decide (o < order) && overlap pa n pa' (if wide then 8 else 4)
          | _ => false

/-- The data of an outstanding `ldv` or atomic returns (R104): checks on the data itself (check 7 of R516, R549), the
atomic's one indivisible step (R133), and the thread leaves WAITING. -/
def dataReturn (th : Nat) (s : Block) : Block :=
  match (s.thread th).wait with
  | .load d va pa n sx prev slot =>
    let s := landLook pa n s
    match t1BadIn s pa n with
    | some w => accessOver th (accessError th w accRead va slot prev s)
    | none =>
      let v := extendTo64 n sx (leNat (t1Data s pa n))
      accessOver th (landed slot prev ((t1Met pa n s).modThread th (finishAccess d v)))
  | .amo op d va pa wide opnd expected prev slot order =>
    let n := if wide then 8 else 4
    if atomicHeld s th pa n order then s
    else
      let s := landLook pa n s
      match t1BadIn s pa n with
      | some w => accessOver th (accessError th w accAtomic va slot prev s)
      | none =>
        let old := leNat (t1Data s pa n)
        let new := leBytes n (amoValue op (8 * n) old opnd.toNat expected.toNat)
        let ctx := (s.ctxOf (th / 16)).getD 0xFFFF
        let s := t1Write pa new (noteShard 1 (basinOf (th / 16)) ctx va (leBytes n old) new s)
        accessOver th (landed slot prev (s.modThread th (finishAccess d (extendTo64 n true old))))
  | _ => s

def execLdvDataReturn (th : Nat) (s : State) : Result := onBlock s fun s =>
  within (decide (th < threadCount)) s fun s => if (s.thread th).st = .waiting then dataReturn th s else s

/-- Put a line into the instruction cache: in an invalid way of its set when there is one, else in one of the four (R1009);
which of them is not stated (a free value). -/
def icInstall (c ctx va : Nat) (data : List Byte) (s : Block) : Block :=
  let set := bitsOf va 6 7
  let mine := (s.core c).icache.filter fun l => l.set == set
  let ways := (List.range 4).filter fun w => !mine.any (·.way == w)
  let (i, s) := s.freeBelow (if ways.isEmpty then 4 else ways.length)
  let w := if ways.isEmpty then i else ways.getD i 0
  s.modCore c fun x =>
    { x with icache := (x.icache.filter fun l => !(l.set == set && l.way == w) && !(l.ctx == ctx && l.va == va))
                         ++ [{ ctx := ctx, va := va, set := set, way := w, data := data }] }

/-- A line that thread `th` waits for, or needs next, arrives (R1009): it is installed and the thread is released; a
fetch that fails its checks, made across the pages of the instruction's words from `va` to `last` (R1016), traps with FETCH_FAULT
(R122), or ICACHE_ECC when it was the refetch of a line with an
uncorrectable error (R152). -/
def fetchLine (th va last : Nat) (ecc : Bool) (s : Block) : Block :=
  let c := th / 16
  let ctx := (s.ctxOf c).getD 0xFFFF
  match translateAccess (tlbOf c) ctx accExec va (last + 4 - va) s with
  | ((some (e, fva), _), s) => fetchFault th e fva s
  | ((none, []), s) => s
  | ((none, p :: _), s) =>
    let line := p.x.pa / 64 * 64
    let s := landLook line 64 s
    match t1BadIn s line 64 with
    | some w =>
      let s := eccAccess (whoThread s th 2) w s
      if ecc then takeTrap th .icacheEcc .eccUncorrectable va s else fetchFault th { st := .eccUncorrectable } va s
    | none =>
      let s := icInstall c ctx (va / 64 * 64) (t1Data s line 64) (t1Met line 64 s)
      s.modThread th fun t => if t.st = .waiting then t.release else t

def execIcacheFill (th : Nat) (s : State) : Result := onBlock s fun s =>
  within (decide (th < threadCount)) s fun s =>
    let t := s.thread th
    let c := s.core (th / 16)
    let ctx := (s.ctxOf (th / 16)).getD 0xFFFF
    match t.st, t.wait with
    | .waiting, .fetch va ecc last => fetchLine th (if va = t.pc.toNat / 64 * 64 then t.pc.toNat else va) last ecc s
    | .ready, _ => if c.holdsLine ctx t.pc.toNat then s else fetchLine th t.pc.toNat t.pc.toNat false s
    | _, _ => s

end Sys2Proof.Machine
end

