-- ==== Sys2Proof/Machine/ThreadOps.lean ====
section
/-! DEFINITION. Thread control, identity and `sy.wait` (R135–R140, R190–R197). -/

namespace Sys2Proof.Machine

/-- `th.park` and `th.parkt`: take a pending wake and go on, or become PARKED (R135). -/
def parkThread (th : Nat) (reason : ParkReason) (limit : U64) (s : Block) : Block :=
  s.modThread th fun t =>
    if t.wake then ({ t with wake := false }).next 4
    else { t with st := .parked, reason := reason, parkArg := limit }

def execThPark (th : Nat) (s : State) : Result := onBlock s fun s => issue th false s (parkThread th .park 0)
def execThParkt (th : Nat) (a : Reg) (s : State) : Result := onBlock s fun s =>
  issue th false s fun s => parkThread th .parkt (s.g th a) s

/-- `th.wake` (R135–R138). -/
def execThWake (th : Nat) (a : Reg) (s : State) : Result := onBlock s fun s =>
  issue th false s fun s => (wakeThread (th / 16 * 16 + (s.g th a).toNat % 16) s).modThread th fun t => t.next 4

/-- `th.start` (R135); bits [1:0] of the start address are dropped, as R97 keeps them 0 (assumption 14). -/
def execThStart (th : Nat) (d a b : Reg) (s : State) : Result := onBlock s fun s =>
  issue th false s fun s =>
    let target := th / 16 * 16 + (s.g th a).toNat % 16
    if (s.thread target).st ≠ .free then finishG th d (BitVec.ofNat 64 Status.busy.code) s
    else
      let me := s.thread th
      let pc := (s.g th b).truncate 48 &&& ~~~3#48
      finishG th d (BitVec.ofNat 64 Status.ok.code) (s.setThread target { Thread.init with g := me.g, pc := pc, st := .ready })

/-- `th.exit` (R135): the thread is FREE; its queued commands continue. -/
def execThExit (th : Nat) (s : State) : Result := onBlock s fun s =>
  issue th false s fun s => s.modThread th fun t => { t.next 4 with st := .free, wake := t.wake }

/-- `th.yield` (R135): not READY until YIELD_EXPIRY. R135 says only that it is not READY: that it is WAITING meanwhile is
DESIGN CHOICE (assumption 96). -/
def execThYield (th : Nat) (s : State) : Result := onBlock s fun s =>
  issue th false s fun s => s.modThread th fun t => { t.next 4 with st := .waiting, wait := .yield }

def execYieldExpiry (th : Nat) (s : State) : Result := onBlock s fun s =>
  within (decide (th < threadCount)) s fun s =>
    s.modThread th fun t => if t.st = .waiting && t.wait = .yield then t.release else t

/-- `th.brk` (R135, R152): the thread's stores complete before it is STOPPED (R160). -/
def execThBrk (th : Nat) (s : State) : Result := onBlock s fun s => issue th false s fun s => takeTrap th .brk .ok 0 (landOwn th s)

/-- The timebase as a reader in the fabric sees it: never greater than the count, never more than 1 µs behind (R96). -/
def fabricTime (s : Block) : U64 × Block :=
  let (n, s) := s.freeBelow 101
  (BitVec.ofNat 64 (s.gl.timebase.toNat - n), s)

/-- TICK as `rdst` reads it on a core: the coarse tick, or the timebase in the system class (R140). A migrated
context's coarse tick continues from its saved value (R871). -/
def tick (s : Block) (core : Nat) : U64 × Block :=
  let (t, s) := fabricTime s
  if isSystem core then (t, s)
  else
    let off := match (s.ctxOf core).bind s.context with
      | some c => c.tickOffset
      | none => 0
    (BitVec.ofNat 64 (t.toNat / 2 ^ 17 + off), s)

/-- The coarse tick passes a `th.parkt` limit and the thread goes on (R135). -/
def execParktTimeout (th : Nat) (s : State) : Result := onBlock s fun s =>
  within (decide (th < threadCount)) s fun s =>
    let t := s.thread th
    if t.st = .parked && t.reason = .parkt then
      let (now, s) := tick s (th / 16)
      if t.parkArg.toNat < now.toNat then s.modThread th fun t => (t.next 4).release else s
    else s

/-- The index of a core among its context's cores in ascending number (R139). -/
def coreIndex (s : Block) (core : Nat) : Nat :=
  match (s.ctxOf core).bind s.context with
  | some c => (c.cores.filter fun x => decide (x < core)).length
  | none => 0

/-- `rdst` (R139, R140). On a system core, which lies in no partition's basins, PARTITION returns 0 (DESIGN CHOICE,
assumption 96). -/
def execRdst (th : Nat) (d : Reg) (sel : RdstSel) (s : State) : Result := onBlock s fun s =>
  issue th false s fun s =>
    let c := th / 16
    match sel with
    | .context => finishG th d (BitVec.ofNat 64 ((s.ctxOf c).getD 0)) s
    | .thread => finishG th d (BitVec.ofNat 64 th) s
    | .threadLocal => finishG th d (BitVec.ofNat 64 (th % 16)) s
    | .core => finishG th d (BitVec.ofNat 64 c) s
    | .coreInContext => finishG th d (BitVec.ofNat 64 (coreIndex s c)) s
    | .partition => finishG th d (BitVec.ofNat 64 ((s.partOfBasin (basinOf c)).getD 0)) s
    | .tick => let (v, s) := tick s c; finishG th d v s
    | .pc => finishG th d ((s.thread th).pc.zeroExtend 64) s

/-- `sy.wait` (R190–R197): the ticket is gA[15:0]. -/
def execSyWait (th : Nat) (d a : Reg) (s : State) : Result := onBlock s fun s =>
  issue th false s fun s =>
    let ticket := (s.g th a).toNat % 65536
    match ticketIs s (th / 16) ticket with
    | .null => finishG th d (BitVec.ofNat 64 Status.ok.code) s
    | .invalid | .stale => finishG th d (BitVec.ofNat 64 Status.internal.code) s
    | .done st => finishG th d (BitVec.ofNat 64 st.code) s
    | .waiting index =>
      s.modThread th fun t =>
        { t with st := .parked, reason := .sywait, parkArg := BitVec.ofNat 64 ticket,
                 wait := .ticket (ticket / 4096) index d.toNat }

end Sys2Proof.Machine
end

