-- ==== Sys2Proof/Machine/SystemOps.lean ====
section
/-! DEFINITION. The privileged `sys` group: stopping, saving and restoring threads, binding and scrubbing cores, and
translation maintenance (R146–R149, R158–R164, R525–R528, R541, R542). -/

namespace Sys2Proof.Machine

/-- The form of every `sys` word: outside the system class it traps with PRIV_OP and has no other effect (R147). -/
def sysWord (th : Nat) (s : Block) (f : Block → Block) : BlockResult :=
  issue th false s fun s => if isSystem (th / 16) then f s else takeTrap th .privOp .ok 0 s

/-- A `sys` operation completes with a status in gD. -/
def sysDone (th : Nat) (d : Reg) (st : Status) (s : Block) : Block := finishG th d (BitVec.ofNat 64 st.code) s

/-- A thread on a compute-die core (R148). An operand that names none is answered BUSY, as one that names a core which is not
on a compute die or a context that does not exist: the manual gives no status for them (DESIGN CHOICE, assumption 96). -/
def partyThread (n : Nat) : Bool := decide (n < 65536)

/-- A thread stops at the boundary before the instruction it waits to issue. -/
def stopNow (t : Thread) : Thread := { t with st := .stopped, stopAsked := false }

/-- `sys.tstop` on a thread (R148, R158–R162): its stores complete (R160), and it is STOPPED now, or at its next boundary; with an outstanding `ldv` or
atomic, either the boundary falls after it or the request is discarded and it falls before (R159; which is not stated).
True when the thread is stopped now. -/
def stopThread (n : Nat) (s : Block) : Bool × Block :=
  let s := landOwn n s
  let t := s.thread n
  match t.wait with
  | .load _ _ _ _ _ prev slot | .amo _ _ _ _ _ _ _ prev slot _ =>
    let (k, s) := s.freeBelow 2
    if k = 0 then (false, s.modThread n fun t => { t with stopAsked := true })
    else (true, accessOver n (landed slot prev (s.modThread n fun t => stopNow { t with wait := .none })))
  | .ticket .. => (true, s.modThread n stopNow)
  | _ => (true, s.modThread n fun t => stopNow { t with wait := .none })

/-- `sys.tstop` (R148, R149). -/
def execSysTstop (th : Nat) (d a : Reg) (s : State) : Result := onBlock s fun s =>
  sysWord th s fun s =>
    let n := (s.g th a).toNat
    if !partyThread n then sysDone th d .busy s
    else
      match (s.thread n).st with
      | .free | .halted => sysDone th d .busy s
      | .stopped => sysDone th d .ok (s.modThread n fun t => { t with weirSaved := none })
      | _ =>
        match stopThread n s with
        | (true, s) => sysDone th d .ok s
        | (false, s) => waitFor th (.tstop n d.toNat) s

/-- The encodings of R99 and R163. -/
def TState.code : TState → Nat
  | .free => 0 | .ready => 1 | .waiting => 2 | .parked => 3 | .stopped => 4 | .halted => 5
def ParkReason.code : ParkReason → Nat
  | .none => 0 | .park => 1 | .parkt => 2 | .sywait => 3 | .queueFull => 4 | .pager => 5

/-- The thread save record (R163). -/
def saveRecord (t : Thread) : List Byte :=
  let tstate := (t.p ||| 1#8).toNat + t.st.code * 2 ^ 8 + b2n t.wake * 2 ^ 11 + t.cause.code * 2 ^ 12
    + t.status.code * 2 ^ 18 + t.reason.code * 2 ^ 26
  leBytes 8 t.pc.toNat ++ leBytes 8 tstate ++ leBytes 8 t.faultVa.toNat ++ leBytes 8 t.parkArg.toNat
    ++ (List.range 31).flatMap (fun i => leBytes 8 (t.getG (BitVec.ofNat 5 (i + 1))).toNat) ++ zeros 40

def trapOfCode (n : Nat) : Option TrapCause :=
  [TrapCause.none, .illegalOp, .privOp, .misaligned, .tsRange, .memFault, .fetchFault, .brk, .icacheEcc].find? (·.code == n)
def reasonOfCode (n : Nat) : Option ParkReason :=
  [ParkReason.none, .park, .parkt, .sywait, .queueFull, .pager].find? (·.code == n)

/-- The g registers a record holds. -/
def recordRegs (r : List Byte) : SMap U64 :=
  (List.range 31).foldl (fun m i => SMap.put 0 (i + 1) (BitVec.ofNat 64 (fld r (0x20 + 8 * i) 8)) m) []

/-- The thread a save record describes, STOPPED; none where R164 refuses it. Reserved codes in its fields, bits [1:0] of PC
and a bit 0 of TSTATE that is not 1 are refused as reserved fields (DESIGN CHOICE, assumption 16). -/
def readRecord (r : List Byte) : Option Thread :=
  let ts := fld r 8 8
  let st := bitsOf ts 8 3
  if fld r 0 8 / 2 ^ 48 ≠ 0 || fld r 0 8 % 4 ≠ 0 || ts / 2 ^ 30 ≠ 0 || !allZero r 0x118 40 || st = 0 || 6 ≤ st
      || !bitOf ts 0 then none
  else
    match trapOfCode (bitsOf ts 12 6), reasonOfCode (bitsOf ts 26 4), Status.ofCode (bitsOf ts 18 8) with
    | some cause, some reason, some status =>
      some { Thread.init with
        g := recordRegs r, p := BitVec.ofNat 8 (ts % 256) &&& 0xFE#8, pc := BitVec.ofNat 48 (fld r 0 8), wake := bitOf ts 11,
        st := .stopped, reason := reason, cause := cause, status := status, faultVa := BitVec.ofNat 64 (fld r 0x10 8),
        parkArg := BitVec.ofNat 64 (fld r 0x18 8) }
    | _, _, _ => none

/-- `sys.tsave` (R148, R163): the record goes to the address in gB through firmware's translation. -/
def execSysTsave (th : Nat) (d a b : Reg) (s : State) : Result := onBlock s fun s =>
  sysWord th s fun s =>
    let n := (s.g th a).toNat
    let t := s.thread n
    if !partyThread n || (t.st ≠ .stopped && t.st ≠ .halted) then sysDone th d .busy s
    else if writeHeld s 0 (s.g th b).toNat 320 accWrite then waitFor th (.moving (s.g th b).toNat) s
    else
      match vwrite (whoThread s th 1) none (s.g th b).toNat (saveRecord t) s with
      | (.ok (), s) => sysDone th d .ok s
      | (.error (st, va), s) => takeTrap th .memFault st va s

/-- `sys.trest` (R148, R164). -/
def execSysTrest (th : Nat) (d a b : Reg) (s : State) : Result := onBlock s fun s =>
  sysWord th s fun s =>
    let n := (s.g th a).toNat
    if !partyThread n || (s.thread n).st ≠ .free then sysDone th d .busy s
    else
      match vread (whoThread s th 1) none (s.g th b).toNat 320 s with
      | (.error (st, va), s) => takeTrap th .memFault st va s
      | (.ok r, s) =>
        match readRecord r with
        | none => sysDone th d .internal s
        | some t => sysDone th d .ok (s.setThread n t)

/-- A STOPPED thread resumes (R148, R162, R206): PARKED where it was parked and its park still holds; a thread parked
on a queue or a fence issues its word again. A thread that a save record parked on a `sy.wait` waits for the command that the
ticket of PARK_ARG names on its core, and then issues its word again. -/
def goThread (n : Nat) (s : Block) : Block :=
  let t := { s.thread n with weirSaved := none }
  match t.reason with
  | .none => s.setThread n t.release
  | .park | .parkt =>
    if t.wake then s.setThread n (({ t with wake := false }).next 4).release else s.setThread n { t with st := .parked }
  | .pager => s.setThread n { t with st := .parked }
  | .queueFull => s.setThread n t.release
  | .sywait =>
    match t.wait with
    | .restored unit index =>
      match (s.core (n / 16)).q.done.find? fun x => x.unit == unit && x.index == index with
      | some { status := none, .. } => s.setThread n { t with st := .parked }
      | _ => s.setThread n t.release
    | .none =>
      let ticket := t.parkArg.toNat % 65536
      match ticketIs s (n / 16) ticket with
      | .waiting index => s.setThread n { t with st := .parked, wait := .restored (ticket / 4096) index }
      | _ => s.setThread n t.release
    | .ticket unit index d =>
      match (s.core (n / 16)).q.done.find? fun x => x.unit == unit && x.index == index with
      | some { status := some st, .. } => s.setThread n (finishWait t d st.code)
      | some { status := none, .. } => s.setThread n { t with st := .parked }
      | none => s.setThread n t.release
    | _ => s.setThread n t.release

/-- `sys.tgo` (R148). -/
def execSysTgo (th : Nat) (d a : Reg) (s : State) : Result := onBlock s fun s =>
  sysWord th s fun s =>
    let n := (s.g th a).toNat
    if !partyThread n || (s.thread n).st ≠ .stopped then sysDone th d .busy s else sysDone th d .ok (goThread n s)

/-- `sys.tfree` (R148). -/
def execSysTfree (th : Nat) (d a : Reg) (s : State) : Result := onBlock s fun s =>
  sysWord th s fun s =>
    let n := (s.g th a).toNat
    let t := s.thread n
    if !partyThread n || (t.st ≠ .stopped && t.st ≠ .halted) then sysDone th d .busy s
    else sysDone th d .ok (s.modThread n fun t => { t with st := .free, reason := .none, wait := .none })

/-- Every thread of a core is FREE. -/
def Core.allFree (c : Core) : Bool := c.threads.all fun t => decide (t.2.st = .free)

/-- A core is no core of any context any more. -/
def leaveContext (core : Nat) (s : Block) : Block :=
  { s with contexts := s.contexts.map fun e => (e.1, { e.2 with cores := e.2.cores.filter (· != core) }) }

/-- A core is one of a context's cores, which stand in ascending number (R46, R139). -/
def joinContext (ctx core : Nat) (s : Block) : Block :=
  (leaveContext core s).modContext ctx fun x =>
    { x with cores := x.cores.filter (fun k => decide (k < core)) ++ core :: x.cores.filter (fun k => decide (core < k)) }

/-- `sys.ctxbind` (R50, R148, R189, R310, R431): BUSY unless every thread is FREE, the core has been scrubbed since its
last binding, and the context is one of the core's partition (R47). -/
def bindCore (core ctx : Nat) (s : Block) : Option Block :=
  match s.context ctx with
  | none => none
  | some x =>
    let c := s.core core
    if 4096 ≤ core || !c.allFree || !c.scrubbed || s.partOfBasin (basinOf core) ≠ some x.part then none
    else
      some ((joinContext ctx core s).setCore core
        { c with ctx := some ctx, scrubbed := false, seed := x.seed, step := 0, pairs := []
                 q := { c.q with entered := [], done := [], summaries := [], groups := [] } })

def execSysCtxbind (th : Nat) (d a b : Reg) (s : State) : Result := onBlock s fun s =>
  sysWord th s fun s =>
    match bindCore (s.g th a).toNat (s.g th b).toNat s with
    | none => sysDone th d .busy s
    | some s => sysDone th d .ok s

/-- `sys.ptroot` (R148, R511): the root is the physical address in gB, 4 KiB-aligned (its low bits are dropped,
assumption 16). BUSY for a context that does not exist. -/
def execSysPtroot (th : Nat) (d a b : Reg) (s : State) : Result := onBlock s fun s =>
  sysWord th s fun s =>
    let ctx := (s.g th a).toNat
    match s.context ctx with
    | none => sysDone th d .busy s
    | some _ =>
      let root := (s.g th b).toNat % 2 ^ 48 / 4096 * 4096
      sysDone th d .ok (s.modContext ctx fun c => { c with ptRoot := root, direct := false })

/-- The bounds of the page that a context maps at an address: 2 MiB where a leaf or a TLB entry of it says so. -/
def namedPage (s : Block) (ctx va : Nat) : Nat × Nat :=
  let big := (match rawWalk s ctx va with
    | .ok (_, _, big) => big
    | .error _ => false)
    || s.basins.any fun e => e.2.tlb.any fun t => t.ctx == ctx && t.big && t.va == pageBase true va
  (pageBase big va, pageBase big va + pageSize big)

/-- Threads with an access of the context to the page (or to any page) that has translated and not finished (R528). -/
def accessThreads (s : Block) (ctx : Nat) (va : Option Nat) : List Nat :=
  let hit := fun (a : Nat) => va.all fun v =>
    let (lo, hi) := namedPage s ctx v
    decide (lo ≤ a) && decide (a < hi)
  s.cores.flatMap fun e =>
    if s.ctxOf e.1 ≠ some ctx then []
    else (e.2.threads.filter fun t =>
      t.2.st = .waiting &&
        match t.2.wait with
        | .load _ a _ _ _ _ _ | .amo _ _ a _ _ _ _ _ _ _ => hit a
        | _ => false).map fun t => e.1 * 16 + t.1

/-- The stores of a context to a page (or to any page) complete (R528). -/
def landPage (ctx : Nat) (va : Option Nat) (s : Block) : Block :=
  landWhere (fun x => x.ctx == ctx && va.all fun v =>
    let (lo, hi) := namedPage s ctx v
    decide (lo ≤ x.va) && decide (x.va < hi)) s

/-- A basin TLB without a context's entries for a page, or without any of them. -/
def Basin.dropTlb (x : Basin) (ctx : Nat) (va : Option Nat) : Basin :=
  { x with tlb := x.tlb.filter fun t => !(t.ctx == ctx && va.all fun v => t.va == pageBase t.big v) }

/-- Drop a context's entries for a page, or all of them, from every basin TLB of its partition; all of them from the walkers'
caches too, which hold pointers and no pages (R148, R526, R528). -/
def tlbInvalidate (ctx : Nat) (va : Option Nat) (s : Block) : Block :=
  let part := (s.context ctx).map (·.part)
  let basins := s.basins.map fun e =>
    (e.1, if part.isNone || s.partOfBasin e.1 == part then e.2.dropTlb ctx va else e.2)
  let caches := if va.isSome then s.mem.walkCache else s.mem.walkCache.map fun e => (e.1, e.2.filter fun p => p.1 != ctx)
  { s with basins := basins, mem := { s.mem with walkCache := caches.filter fun e => !e.2.isEmpty } }

/-- `sys.tlbinv` (R148, R528): the entries are dropped, and it completes once no access that translated through them is
outstanding; until then its thread is WAITING for those accesses. -/
def execSysTlbinv (th : Nat) (d a b : Reg) (s : State) : Result := onBlock s fun s =>
  sysWord th s fun s =>
    let ctx := (s.g th a).toNat
    let va := if s.g th b = BitVec.allOnes 64 then none else some (s.g th b).toNat
    let ths := accessThreads s ctx va
    let s := tlbInvalidate ctx va (landPage ctx va s)
    if ths.isEmpty then sysDone th d .ok s else waitFor th (.inval ths d.toNat) s

/-- Every queue of the core is empty, and its basin's MVU and update unit hold no command of it (R541). -/
def coreIdle (s : Block) (core : Nat) : Bool :=
  let c := s.core core
  let b := s.basin (basinOf core)
  c.q.mx.isEmpty && c.q.cx.isEmpty && c.q.vx.isEmpty && c.q.tw.isEmpty
    && c.tw.all (fun e => e.2.active.isNone && e.2.pending.isNone && e.2.emitted.isEmpty && e.2.issued.isEmpty
                          && e.2.retry.isEmpty && e.2.ended.isEmpty)
    && b.mv.all (·.core != core) && b.up.all (·.core != core)

/-- A core after a scrub (R542): its registers, gates and towpath depths stay. -/
def Core.scrub (c : Core) : Core :=
  { Core.init with
    regs := c.regs, twDepth := c.twDepth,
    tw := c.tw.filterMap fun e =>
      let q := { TwQueue.init with completed := e.2.completed, lastStatus := e.2.lastStatus }
      if q = TwQueue.init then none else some (e.1, q)
    q := { CoreQueues.init with gatherWindow := c.q.gatherWindow, gatherEn := c.q.gatherEn, groupsFull := c.q.groupsFull,
                                groupsShort := c.q.groupsShort } }

/-- `sys.scrub` (R148, R541, R542). -/
def execSysScrub (th : Nat) (d a : Reg) (s : State) : Result := onBlock s fun s =>
  sysWord th s fun s =>
    let core := (s.g th a).toNat
    if 4096 ≤ core || !(s.core core).allFree || !coreIdle s core then sysDone th d .busy s
    else sysDone th d .ok (leaveContext core (s.modCore core Core.scrub))

end Sys2Proof.Machine
end

