-- ==== Sys2Proof/Machine/Matrix.lean ====
section
/-! DEFINITION. The matrix array and the row gatherer (R218–R262, R283–R289, R320–R341), with the arithmetic the MVU
shares. -/

namespace Sys2Proof.Machine

/-! ### Formats and carts (R235–R243, R262, R283) -/

/-- The format a code names (R283). -/
def fmtOf : Nat → Option Fmt
  | 1 => some .bf16 | 2 => some .fp16 | 3 => some .e4m3 | 4 => some .e5m2 | 5 => some .int8 | 6 => some .e2m3
  | 7 => some .e3m2 | 8 => some .e2m1 | 9 => some .fp32 | _ => none
/-- Products per cell (R235). -/
def Fmt.p : Fmt → Nat
  | .e4m3 | .e5m2 | .int8 | .e2m3 | .e3m2 => 2
  | .e2m1 => 4
  | _ => 1
/-- Twice the element size in bytes (R238, R242). -/
def Fmt.e2 : Fmt → Nat
  | .fp32 | .int32 => 8 | .bf16 | .fp16 => 4 | .e2m1 => 1 | _ => 2
def Fmt.isMx : Fmt → Bool
  | .e2m3 | .e3m2 | .e2m1 => true
  | _ => false
/-- Bytes of a cart (R238, R239, R262). -/
def Fmt.cartSize : Fmt → Nat
  | .e2m3 | .e3m2 => 2112 | .e2m1 => 2176 | .fp32 => 4096 | _ => 2048
/-- The formats pair as operands of one product (R237). -/
def pairOk (a w : Fmt) : Bool :=
  a.p == w.p && (decide (a = .int8) == decide (w = .int8)) && (decide (a = .fp32) == decide (w = .fp32))

/-- The word of element `i` of a run of elements in bytes. -/
def elemWord (f : Fmt) (bs : List Byte) (i : Nat) : Nat :=
  match f with
  | .e2m1 => bitsOf (fld bs (i / 2) 1) (i % 2 * 4) 4
  | .e2m3 | .e3m2 => bitsOf (fld bs i 1) 0 6
  | f => fld bs (i * (f.e2 / 2)) (f.e2 / 2)

/-- A value under an E8M0 scale; scale 0xFF makes it NaN (R299, R300). -/
def scaled (v : Val) (e : Nat) : Val :=
  match scaleExp e with
  | none => .nan
  | some k => v.scale k

/-- Element (k, n) of a cart (R238, R239, R240, R262). -/
def cartVal (f : Fmt) (cart : List Byte) (k n : Nat) : Val :=
  let v := decodeFmt f (elemWord f (cart.drop (k / f.p * (if f = .fp32 then 256 else 128))) (n * f.p + k % f.p))
  if f.isMx then scaled v (fld cart (2048 + 64 * (k / 32) + n) 1) else v

/-! ### The parameters of a product (R285, R291) -/

/-- The fields of a product's body. -/
structure MM where
  act : Nat
  w : Nat
  out : Nat
  scale : Nat
  clist : Nat
  m : Nat
  tiles : Nat
  stride : Nat
  wstride : Nat
  af : Option Fmt
  wf : Option Fmt
  acc : Nat
  opt : Nat
  rev : Bool
  split : Bool
  deriving DecidableEq, Repr

def mmOf (b : List Byte) (rev split : Bool) : MM :=
  { act := fld b 0x18 4, w := fld b 0x1C 4, out := fld b 0x20 4, scale := fld b 0x24 4, clist := fld b 0x28 4,
    m := fld b 0x2C 2, tiles := fld b 0x2E 2, stride := fld b 0x30 2, wstride := fld b 0x32 2 * 64,
    af := fmtOf (fld b 0x34 1), wf := fmtOf (fld b 0x35 1), acc := fld b 0x36 1, opt := fld b 0x37 1, rev := rev,
    split := split }

def MM.a (p : MM) : Fmt := p.af.getD .bf16
def MM.f (p : MM) : Fmt := p.wf.getD .bf16
def MM.kind (p : MM) : AccKind := match bitsOf p.acc 0 2 with
  | 1 => .comp
  | 2 => .int32
  | _ => .fp32
/-- Sums go to tile store as partials (R251). -/
def MM.part (p : MM) : Bool := bitOf p.acc 2
def MM.init (p : MM) : Bool := bitOf p.acc 3
def MM.carry (p : MM) : Bool := bitOf p.opt 0
/-- Terms of one K-block, and columns a row writes (R250, R1026). -/
def MM.terms (p : MM) : Nat := if p.rev then 64 else 16 * p.f.p
def MM.cols (p : MM) : Nat := if p.rev then 16 * p.f.p else 64
/-- Bytes of a row's elements for one tile (R241, R242). -/
def MM.rowBytes (p : MM) : Nat := p.terms * p.a.e2 / 2

/-- The smallest tile shape for M rows (R330). -/
def shapeOf (m : Nat) : Nat := if m ≤ 16 then 16 else if m ≤ 32 then 32 else if m ≤ 64 then 64 else 128
/-- Bytes of an accumulator tile (R331). -/
def tileBytes (m : Nat) (k : AccKind) : Nat := shapeOf m * 64 * k.bytes

/-- Where element (r, c) of strip j accumulates: an accumulator-store or a tile-store offset (R251, R291, R331). -/
def MM.dest (p : MM) (strip r c : Nat) : Nat :=
  if p.part then p.out + 256 * (p.m * strip + r) + 4 * c
  else (p.out + strip) * tileBytes p.m p.kind + p.kind.bytes * (64 * r + c)

/-! ### Carriage lists (R263–R269, R1019) -/

/-- A carriage-list entry (R265). -/
structure CEntry where
  aAddr : Nat
  aStride : Nat
  bAddr : Nat
  h : Nat
  scale : Nat
  rank : Nat
  fmt : Nat
  zero : Bool
  deriving DecidableEq, Repr

/-- Row `i`'s entry of the list at `clist`; 0xFFFF_FFFF gives entries of rank 0 (R285, R288). -/
def centry (ts : Mem) (clist i : Nat) : CEntry :=
  if clist = 0xFFFFFFFF then { aAddr := 0, aStride := 0, bAddr := 0, h := 0, scale := 0, rank := 0, fmt := 0, zero := true }
  else
    let b := Mem.read ts (clist + 512 * (i / 16) + 32 * (i % 16)) 32
    { aAddr := fld b 0 4, aStride := fld b 4 4, bAddr := fld b 8 4, h := fld b 0xC 4, scale := fld b 0x10 4,
      rank := fld b 0x14 2, fmt := fld b 0x16 1, zero := allZero b 0x17 9 }

def CEntry.f (e : CEntry) : Fmt := (fmtOf e.fmt).getD .bf16
/-- Bytes of the entry's up-term block, and of one down-term slice. -/
def CEntry.upBytes (e : CEntry) (rev : Bool) : Nat := (if rev then 16 * e.f.p else 64) * e.rank * e.f.e2 / 2
def CEntry.downBytes (e : CEntry) (rev : Bool) : Nat := (if rev then 64 else 16 * e.f.p) * e.rank * e.f.e2 / 2

/-- The entry's own fields are sound for activations of a format (R263, R1019). -/
def CEntry.ok (e : CEntry) (a : Fmt) : Bool :=
  e.zero && decide (e.rank ≤ 256) && (e.rank == 0 || ((1 ≤ e.fmt && e.fmt ≤ 4) && e.f.p == a.p))

/-- The activation formats a carriage list serves (R264). -/
def carryFmt (a : Fmt) : Bool := match a with
  | .bf16 | .fp16 | .e4m3 | .e5m2 => true
  | _ => false

/-- The first `tiles` down-term slices of an entry, the blocks of its first `strips` up terms and its h or g vector lie in
tile store (R1019). -/
def CEntry.inStore (e : CEntry) (rev : Bool) (tiles strips : Nat) : Bool :=
  e.rank == 0 || (inTile e.bAddr (strips * e.upBytes rev) && inTile e.h (2 * e.rank)
    && (tiles == 0 || inTile e.aAddr ((tiles - 1) * e.aStride + e.downBytes rev)))

/-- The entries that the rows of a command use. -/
def centries (ts : Mem) (clist m : Nat) : List CEntry := (List.range m).map (centry ts clist)

/-- Tile-store bytes of a carriage list for M rows. -/
def clistRange (clist m : Nat) : List (Nat × Nat) :=
  if clist = 0xFFFFFFFF then [] else [(clist, 512 * ((m - 1) / 16) + 32 * ((m - 1) % 16 + 1))]

/-- The ranges that the up terms of a command read. -/
def upRanges (p : MM) (strips : Nat) (es : List CEntry) : List (Nat × Nat) :=
  es.flatMap fun e => if e.rank = 0 then [] else [(e.bAddr, strips * e.upBytes p.rev), (e.h, 2 * e.rank)]

/-! ### Checks at entry (R237, R241, R242, R251, R286, R1019, R1022) -/

/-- The rows of a product do not overlap (R241, R242). -/
def MM.strideOk (p : MM) : Bool := decide (p.rowBytes * p.tiles ≤ 32 * p.stride)

/-- The formats and field limits of a product of some strips (R237, R286). -/
def mmOk (p : MM) (strips : Nat) : Bool :=
  p.af.isSome && p.wf.isSome && pairOk p.a p.f && (decide (p.f = .fp32) == p.split)
    && (1 ≤ p.m && p.m ≤ 4096) && (1 ≤ p.tiles && p.tiles ≤ 4096) && 1 ≤ p.stride && p.f.cartSize ≤ p.wstride
    && bitsOf p.acc 4 4 == 0 && bitsOf p.acc 0 2 != 3
    && (decide (p.kind = .int32) == decide (p.f = .int8))
    && (if p.part then p.kind != .comp else p.m ≤ 128 && p.out + strips ≤ 65536 / tileBytes p.m p.kind)

/-- Bytes of a row's block scales. -/
def MM.scaleRow (p : MM) : Nat := 2 * p.stride / p.a.e2

/-- The tile-store ranges a product touches, row by row, less its carts. -/
def mmRanges (p : MM) (strips : Nat) (es : List CEntry) : List (Nat × Nat) :=
  ((List.range p.m).map fun r => (p.act + 32 * r * p.stride, p.rowBytes * p.tiles))
    ++ (if p.a.isMx then (List.range p.m).map fun r => (p.scale + r * p.scaleRow, (p.terms * p.tiles + 31) / 32) else [])
    ++ (if p.part then (List.range (p.m * strips)).map fun r => (p.out + 256 * r, 4 * p.cols) else [])
    ++ (if p.carry then clistRange p.clist p.m ++ upRanges p strips es else [])

/-- Every range lies in tile store (R1022). -/
def rangesOk (l : List (Nat × Nat)) : Bool := l.all fun r => inTile r.1 r.2

/-- The carriage list that CARRY uses, if there is one, is sound (R264, R265, R1019). A command's slices are those of its
own tiles (assumption 99). -/
def carryOk (p : MM) (strips : Nat) (es : List CEntry) : Bool :=
  !p.carry || p.clist == 0xFFFFFFFF || (carryFmt p.a && p.clist % 512 == 0 && rangesOk (clistRange p.clist p.m)
    && es.all fun e => e.ok p.a && e.inStore p.rev p.tiles strips)

def mmEntries (ts : Mem) (p : MM) : List CEntry := if p.carry then centries ts p.clist p.m else []

/-- Carts of a matrix command. -/
def cartRanges (p : MM) : List (Nat × Nat) := (List.range p.tiles).map fun t => (p.w + t * p.wstride, p.f.cartSize)

/-- Array wavefronts of M rows over the command's tiles (R248, R261). The 16 of a first tile that does not overlap depend
on what runs before the command, so a weight that the unit derives from the command's sizes (R182) leaves them out
(assumption 99). -/
def mxWaves (p : MM) (m : Nat) : Nat :=
  p.tiles * (if p.split then (if m < 16 then 6 * m + 48 else 6 * m + 3) else if m < 16 then m + 16 else m + 1)

/-- Energy of a matrix command in pJ (R904). -/
def mxEnergy (p : MM) (m : Nat) : Nat := 390 * mxWaves p m

/-- A matrix command of this many wavefronts is heavy. -/
def heavyWaves (n : Nat) : Bool := decide (1024 ≤ n)

/-- Some tile-store range of a command touches a stream chamber: it may not begin (R427). -/
def chamberHeld (s : Block) (core : Nat) (l : List (Nat × Nat)) : Bool :=
  l.any fun r => ((s.core core).streamTouch r.1 r.2).isSome

/-- The entries of a product's carriage list, unless they cannot be looked at: a list in a stream chamber is not read (R427). -/
def listNow (full : Bool) (s : Block) (core : Nat) (p : MM) : List CEntry :=
  if full && !(p.carry && chamberHeld s core (clistRange p.clist p.m)) then mmEntries (s.core core).ts p else []

/-- The checks of a product command, and its weight. With `full`, those of its carriage list too, which are made before
the command starts (R1019): at entry for a gathered submission (R1023) or a satisfied dependency, else when the
dependency is satisfied (assumption 17). -/
def mxEntry (rev split full : Bool) (s : Block) (core : Nat) (b : List Byte) : Entry :=
  let p := mmOf b rev split
  let ok := mmOk p 1 && allZero b 0x38 8 && bitsOf p.opt 1 7 == 0
  if !ok then .bad .internal
  else
    let es := listNow full s core p
    .when (rangesOk (cartRanges p ++ mmRanges p 1 es) && carryOk p 1 es) (.unless p.strideOk
      (if heavyWaves (mxWaves p p.m) then .heavyOf b (mxEnergy p p.m) 620 else .light))

/-! ### The product (R250, R254, R259–R261, R267–R269, R320–R327) -/

/-- The elements of activation row `r` for tile `t` (R241–R243). -/
def actVals (ts : Mem) (p : MM) (r t : Nat) : List Val :=
  let bs := Mem.read ts (p.act + 32 * r * p.stride + p.rowBytes * t) p.rowBytes
  (List.range p.terms).map fun i =>
    let v := decodeFmt p.a (elemWord p.a bs i)
    if p.a.isMx then
      scaled v (Mem.byte ts (p.scale + r * p.scaleRow + (p.terms * t + i) / 32)).toNat
    else v

/-- The three BF16 parts of a value (R259, R1021). -/
def split3 (v : Val) : Val × Val × Val :=
  let rne := fun v => decodeFmt .bf16 (convert .bf16 none v).1
  let z := Val.fin false 0 0
  match v with
  | .fin _ m _ =>
    if m = 0 then (v, z, z)
    else
      let v1 := rne v
      let r1 := (v.dy.add v1.dy.neg).val false
      let v2 := rne r1
      let r2 := (r1.dy.add v2.dy.neg).val false
      (v1, v2, rne r2)
  | v => (v, z, z)

/-- Part `i` of three. -/
def part3 (v : Val × Val × Val) : Nat → Val
  | 1 => v.1
  | 2 => v.2.1
  | _ => v.2.2

/-- The parts of w and x that triple-split K-block sum k multiplies (R260). -/
def splitPair : Nat → Nat × Nat
  | 0 => (3, 1) | 1 => (2, 2) | 2 => (2, 1) | 3 => (1, 3) | 4 => (1, 2) | _ => (1, 1)

/-- K-block sum k of those that one tile contributes to one output: one, or six of triple split (R250, R260). -/
def tileBlock (p : MM) (k : Nat) (xs ws : List Val) : Summed :=
  if p.split then
    let i := splitPair k
    kblock p.kind (List.zipWith (fun x w => (part3 (split3 w) i.1).mul (part3 (split3 x) i.2)) xs ws)
  else kblock p.kind (List.zipWith Val.mul xs ws)

/-- K-block sums of one tile. -/
def MM.parts (p : MM) : Nat := if p.split then 6 else 1

/-- The stationary values of output column `c` in a cart. -/
def colVals (p : MM) (cart : List Byte) (c : Nat) : List Val :=
  (List.range p.terms).map fun i => if p.rev then cartVal p.f cart c i else cartVal p.f cart i c

/-- Add K-block sums to a destination word in order. -/
def accumulate (k : AccKind) (a : Summed) (bs : List Summed) : Summed :=
  bs.foldl (fun a b =>
    let r := k.add a.w b.w
    { w := r.w, sat := a.sat || b.sat || r.sat, nan := a.nan || b.nan || r.nan }) a

/-- An FP32 sum of products in ascending order, rounding at each addition (R267's and R268's sums of terms). -/
def sumF32 (vs : List Val) : Nat := (vs.foldl (fun a v => (accAdd32 a (toF32 v).1).w) 0)

/-- The product of two values in FP32, as sums saturate (R323, R324). -/
def mulF32 (a b : Val) : Nat :=
  match a.mul b with
  | .nan => 0x7FC00000
  | .inf n => f32Max n
  | v => (toF32 v).1

/-- The up term u of one row and column (R268); strip `j` of an MVU command reads its own block (R277). -/
def upTerm (ts : Mem) (rev : Bool) (e : CEntry) (strip c : Nat) : Nat :=
  let blk := Mem.read ts (e.bAddr + strip * e.upBytes rev) (e.upBytes rev)
  let h := Mem.read ts e.h (2 * e.rank)
  let terms := (List.range e.rank).map fun j =>
    let b := decodeFmt e.f (elemWord e.f blk (if rev then c * e.rank + j else j * 64 + c))
    (decodeFmt .bf16 (elemWord .bf16 h j)).mul b
  mulF32 (f32Val e.scale) (f32Val (sumF32 terms))

/-- The value a destination holds. -/
def destWord (c : Core) (p : MM) (a : Nat) : Nat := if p.part then Mem.nat c.ts a 4 else Mem.nat c.sums.acc a p.kind.bytes

/-- One output after K-block sum k of tile t: its address, its word and the flags it sets. ACC.INIT makes the first sum
start from 0 (R254). -/
def blockElem (c : Core) (p : MM) (strip t k : Nat) (cart : List Byte) (r col : Nat) : Nat × Summed :=
  let a := p.dest strip r col
  let old := if p.init && t == 0 && k == 0 then 0 else destWord c p a
  (a, accumulate p.kind { w := old, sat := false, nan := false } [tileBlock p k (actVals c.ts p r t) (colVals p cart col)])

/-- One output after its up term. -/
def upElem (c : Core) (p : MM) (strip : Nat) (e : CEntry) (r col : Nat) : Nat × Summed :=
  let a := p.dest strip r col
  (a, accumulate p.kind { w := destWord c p a, sat := false, nan := false }
    [{ w := upTerm c.ts p.rev e strip col, sat := false, nan := false }])

/-- Write an output into its destination, with the flags of its granule (R334). -/
def writeElem (p : MM) (c : Core) (o : Nat × Summed) : Core :=
  if p.part then c.tsWrite o.1 (leBytes 4 o.2.w)
  else
    let g := 1#16 <<< (o.1 / 4096)
    { c with sums := { c.sums with
        acc := Mem.write c.sums.acc o.1 (leBytes p.kind.bytes o.2.w)
        accSat := if o.2.sat then c.sums.accSat ||| g else c.sums.accSat
        accNan := if o.2.nan then c.sums.accNan ||| g else c.sums.accNan } }

/-- The granules of an accumulator tile (R335). -/
def tileGranules (base bytes : Nat) : BitVec 16 :=
  (List.range 16).foldl (fun m g => if overlap base bytes (4096 * g) 4096 then m ||| (1#16 <<< g) else m) 0

/-- ACC.INIT clears the flags of the tile's granules (R336). -/
def initFlags (p : MM) (strip : Nat) (c : Core) : Core :=
  if p.init && !p.part then
    let g := tileGranules ((p.out + strip) * tileBytes p.m p.kind) (tileBytes p.m p.kind)
    { c with sums := { c.sums with accSat := c.sums.accSat &&& ~~~g, accNan := c.sums.accNan &&& ~~~g } }
  else c

/-- Every row of the products, with its own product: one product, or the members of a gathered group (R224). -/
def mmRows (ps : List MM) : List (MM × Nat) := ps.flatMap fun p => (List.range p.m).map fun r => (p, r)

/-- K-block sum k of tile t is added to every output of some rows of the products. -/
def runRows (rows : List (MM × Nat)) (strip t k : Nat) (cart : List Byte) (c : Core) : Core :=
  rows.foldl (fun c x => ((List.range x.1.cols).map fun col => blockElem c x.1 strip t k cart x.2 col).foldl (writeElem x.1) c) c

/-- The up terms of the products' rows are added, after the last K-block of a strip (R268, R277). -/
def runUp (ps : List MM) (strip : Nat) (c : Core) : Core :=
  ps.foldl (fun c p =>
    ((mmEntries c.ts p).zipIdx.filter fun e => e.1.rank != 0).foldl (fun c e =>
      ((List.range p.cols).map fun col => upElem c p strip e.1 e.2 col).foldl (writeElem p) c) c) c

/-! ### Stop points (R278–R280) -/

/-- Blocks of 64 rows. -/
def rowBlks (ps : List MM) : Nat := ceilDiv (mmRows ps).length 64

/-- Pieces of work between the stop points of products that run as one command: 64 rows of a tile's K-block sum each. -/
def mxPoints (ps : List MM) : Nat := match ps with
  | [] => 0
  | p :: _ => p.tiles * p.parts * rowBlks ps

/-- The tile, K-block sum and row block of a piece. -/
def mxPlace (ps : List MM) (i : Nat) : Nat × Nat × Nat :=
  let b := max (rowBlks ps) 1
  let k := match ps with
    | [] => 1
    | p :: _ => p.parts
  (i / (b * k), i / b % k, i % b)

/-- `BS_MX_POS` at a stop before a piece: its TILE, ROWBLK and PART. -/
def mxPosWord (ps : List MM) (i : Nat) : Nat :=
  let x := mxPlace ps i
  x.1 % 2 ^ 12 + 2 ^ 12 * (x.2.2 % 64) + 2 ^ 18 * x.2.1

/-- One piece of the products' work; the carts are those of the first, which a group's members share. -/
def runPiece (ps : List MM) (cart : Nat → Core → List Byte) (i : Nat) (c : Core) : Core :=
  let (t, k, b) := mxPlace ps i
  let c := if i = 0 then ps.foldl (fun c p => initFlags p 0 c) c else c
  runRows (((mmRows ps).drop (64 * b)).take 64) 0 t k (cart t c) c

/-- Pieces `i` to `j - 1` in order. -/
def runPieces (f : Nat → Core → Core) (i j : Nat) (c : Core) : Core := (List.range (j - i)).foldl (fun c k => f (i + k) c) c

/-- Cart t of a matrix command in tile store. -/
def tileCart (p : MM) (t : Nat) (c : Core) : List Byte := Mem.read c.ts (p.w + t * p.wstride) p.f.cartSize

/-! ### Memory errors in an engine's operands (R281, R405) -/

/-- Free values for words that become unpredictable. -/
def freeWords (n : Nat) (s : Block) : List Nat × Block :=
  ((List.range n).map fun i => Config.freeNat (s.freeCtr + i), { s with freeCtr := s.freeCtr + n })

/-- Tile-store words of `n` bytes at addresses take unpredictable values. -/
def scrambleTile (core : Nat) (addrs : List Nat) (n : Nat) (s : Block) : Block :=
  let (ws, s) := freeWords addrs.length s
  s.modCore core fun c => (addrs.zip ws).foldl (fun c x => c.tsWrite x.1 (leBytes n x.2)) c

/-- Accumulator-store words take unpredictable values. -/
def scrambleAcc (core : Nat) (addrs : List Nat) (n : Nat) (s : Block) : Block :=
  let (ws, s) := freeWords addrs.length s
  s.modCore core fun c =>
    { c with sums := { c.sums with acc := (addrs.zip ws).foldl (fun m x => Mem.write m x.1 (leBytes n x.2)) c.sums.acc } }

/-- The virtual address that an event record of a unit's error carries (R988, R989): 0 but for an uncorrectable error met
in T1 outside the page tables. -/
def eventVa (s : Block) (core : Nat) (st : Status) (va : Nat) : Nat :=
  if st = .eccUncorrectable && (walkEntry s ((s.ctxOf core).getD 0xFFFF) va).isNone then va else 0

/-- A final error of an engine of a core posts an event record to its bound function (R530, R988). -/
def engineEvent (core : Nat) (st : Status) (va : Nat) (s : Block) : Block :=
  postBasinEvent (basinOf core) st ((s.ctxOf core).getD 0xFFFF) (core % 16) (zeros 8 ++ leBytes 8 (eventVa s core st va)) s

/-- As `engineEvent`, for a unit of the core's basin. -/
def unitEvent (core : Nat) (st : Status) (va : Nat) (s : Block) : Block :=
  postBasinEvent (basinOf core) st ((s.ctxOf core).getD 0xFFFF) 0xFF (zeros 8 ++ leBytes 8 (eventVa s core st va)) s

/-- The addresses a product writes. -/
def mmDests (p : MM) (strips : Nat) : List Nat :=
  (List.range strips).flatMap fun j => (List.range p.m).flatMap fun r => (List.range p.cols).map fun c => p.dest j r c

/-- A product ends without its results: its destinations take unpredictable values (R281). -/
def mmScramble (core : Nat) (p : MM) (strips : Nat) (s : Block) : Block :=
  if p.part then scrambleTile core (mmDests p strips) 4 s else scrambleAcc core (mmDests p strips) p.kind.bytes s

/-- The first SRAM word with an uncorrectable error among tile-store ranges. -/
def Core.badRanges (c : Core) (l : List (Nat × Nat)) : Option Nat := l.findSome? fun r => c.badIn r.1 r.2

/-- The accumulator-store ranges of a product, as SRAM offsets (R1018). -/
def accRanges (p : MM) (strips : Nat) : List (Nat × Nat) :=
  if p.part then [] else [(0x80000 + p.out * tileBytes p.m p.kind, strips * tileBytes p.m p.kind)]

/-- The ranges of a matrix command. -/
def mxRanges (c : Core) (p : MM) : List (Nat × Nat) := cartRanges p ++ mmRanges p 1 (mmEntries c.ts p)

/-- The orientation of a matrix command's code. -/
def mxParams (b : List Byte) (code : Nat) : MM := mmOf b (code == 2 || code == 4) (code == 3 || code == 4)

/-- The cart that products sharing their stationary operand read for a tile. -/
def sharedCart (ps : List MM) (t : Nat) (c : Core) : List Byte := match ps with
  | [] => []
  | p :: _ => tileCart p t c

/-- Products run as one matrix command from a piece on, to a limit (R224, R250–R269, R278–R281): a word with an
uncorrectable error in an operand or a destination ends them all. -/
def runProducts (core : Nat) (ps : List MM) (pos : Nat) (limit : Option Nat) (s : Block) : Work :=
  let n := mxPoints ps
  let l := ps.flatMap (mxRanges (s.core core))
  if noPoint limit pos n || chamberHeld s core l then .notYet s
  else
    match (s.core core).badRanges (l ++ ps.flatMap (accRanges · 1)) with
    | some w =>
      .done .eccUncorrectable (engineEvent core .eccUncorrectable 0
        (ps.foldl (fun s p => mmScramble core p 1 s) (eccSram core w false s)))
    | none =>
      let s := s.modCore core fun x =>
        { runPieces (runPiece ps (sharedCart ps)) pos (runTo limit pos n) x with regs := { x.regs with mxOrient := ps.any (·.rev) } }
      match limit with
      | some _ => .point (runTo limit pos n) [] s
      | none => .done .ok (s.modCore core (runUp ps 0))

/-- A product command does its work, from its last stop point. -/
def runMx (c : Cmd) (limit : Option Nat) (s : Block) : Work := runProducts c.core [mxParams c.block c.code] c.pos limit s

/-! ### mx.drain (R256, R289, R337, R340, R341, R1025) -/

/-- The fields of a drain. -/
structure Drain where
  src : Nat
  out : Nat
  flag : Nat
  tensor : Nat
  m : Nat
  stride : Nat
  f : Option Fmt
  mode : Nat
  col0 : Nat
  cols : Nat
  deriving DecidableEq, Repr

def drainOf (b : List Byte) : Drain :=
  { src := fld b 0x18 4, out := fld b 0x1C 4, flag := fld b 0x20 4, tensor := fld b 0x24 4, m := fld b 0x28 2,
    stride := fld b 0x2A 2, f := fmtOf (fld b 0x2C 1), mode := fld b 0x2D 1, col0 := fld b 0x2E 2,
    cols := if fld b 0x30 1 = 0 then 64 else fld b 0x30 1 }

def Drain.part (d : Drain) : Bool := bitOf d.mode 0
def Drain.sr (d : Drain) : Bool := bitOf d.mode 1
def Drain.clear (d : Drain) : Bool := bitOf d.mode 2
def Drain.kind (d : Drain) : AccKind := match bitsOf d.mode 3 2 with
  | 1 => .comp
  | 2 => .int32
  | _ => .fp32
def Drain.fmt (d : Drain) : Fmt := d.f.getD .bf16

/-- Stochastic rounding is available to a format (R318). -/
def srFmt : Fmt → Bool
  | .bf16 | .fp16 | .e4m3 | .e5m2 => true
  | _ => false

def Drain.ranges (d : Drain) : List (Nat × Nat) :=
  [(d.out, (d.m - 1) * d.stride + d.cols * d.fmt.e2 / 2), (d.flag, 8)]
    ++ (if d.part then [(d.src, if d.clear then 256 * d.m else 256 * (d.m - 1) + 4 * d.cols)] else [])

def drainEntry (b : List Byte) : Entry :=
  let d := drainOf b
  .when (d.f.isSome && !d.fmt.isMx && (1 ≤ d.m && d.m ≤ 4096) && d.cols ≤ 64 && bitsOf d.mode 5 3 == 0
      && bitsOf d.mode 3 2 != 3 && allZero b 0x31 15 && d.flag % 8 == 0
      && (!d.sr || srFmt d.fmt) && (if d.part then d.kind != .comp else d.m ≤ 128 && d.src < 65536 / tileBytes d.m d.kind)
      && rangesOk d.ranges) .light

/-- The source word of element (r, c). -/
def Drain.word (d : Drain) (c : Core) (r col : Nat) : Nat :=
  if d.part then Mem.nat c.ts (d.src + 256 * r + 4 * col) 4
  else Mem.nat c.sums.acc (d.src * tileBytes d.m d.kind + d.kind.bytes * (64 * r + col)) d.kind.bytes

/-- One drained element: its output word, and the SAT and NAN it brings (R340, R341). -/
def Drain.elem (d : Drain) (c : Core) (step : Nat) (r col : Nat) : Nat × Bool × Bool :=
  let w := d.word c r col
  let v := d.kind.val w
  let sr := if d.sr then some (philox c.seed.toNat step d.tensor r (d.col0 + col)) else none
  let (o, n) := convert d.fmt sr v
  let edge := d.part && (if d.kind = .int32 then w == 0x80000000 || w == 0x7FFFFFFF else w % 2 ^ 31 == 0x7F7FFFFF)
  (o, decide (0 < n.sat) || edge, v.isNan)

/-- The effect of a drain on its core. -/
def runDrain (d : Drain) (step : Nat) (c : Core) : Core :=
  let cells := (List.range d.m).flatMap fun r => (List.range d.cols).map fun col => (r, col, d.elem c step r col)
  let base := d.src * tileBytes d.m d.kind
  let g := tileGranules base (tileBytes d.m d.kind)
  let sat := (!d.part && c.sums.accSat &&& g != 0) || cells.any (·.2.2.2.1)
  let nan := (!d.part && c.sums.accNan &&& g != 0) || cells.any (·.2.2.2.2)
  let e := d.fmt.e2 / 2
  let c' := if d.clear then
      if d.part then c.tsWrite d.src (zeros (256 * d.m))
      else { c with sums := { c.sums with acc := Mem.clear c.sums.acc base (tileBytes d.m d.kind)
                                          accSat := c.sums.accSat &&& ~~~g, accNan := c.sums.accNan &&& ~~~g } }
    else c
  let c' := cells.foldl (fun c x => c.tsWrite (d.out + x.1 * d.stride + x.2.1 * e) (leBytes e x.2.2.1)) c'
  c'.tsWrite d.flag (leBytes 8 (b2n sat + 2 * b2n nan))

def runDrainCmd (c : Cmd) (s : Block) : Work :=
  let d := drainOf c.block
  if chamberHeld s c.core d.ranges then .notYet s
  else
    let acc := if d.part then [] else [(0x80000 + d.src * tileBytes d.m d.kind, tileBytes d.m d.kind)]
    match (s.core c.core).badRanges (d.ranges ++ acc) with
    | some w =>
      let e := d.fmt.e2 / 2
      let outs := (List.range d.m).flatMap fun r => (List.range d.cols).map fun col => d.out + r * d.stride + col * e
      .done .eccUncorrectable (engineEvent c.core .eccUncorrectable 0 (scrambleTile c.core outs e (eccSram c.core w false s)))
    | none => .done .ok (s.modCore c.core (runDrain d c.step.toNat))

/-! ### The row gatherer (R218–R230, R287, R1023) -/

/-- The gather key of a submission, with the fields R287 adds. -/
def gatherKey (code : Nat) (b : List Byte) : List Nat :=
  [code, fld b 0x1C 4, fld b 0x2E 2, fld b 0x32 2, fld b 0x34 1, fld b 0x35 1, fld b 0x36 1]

def Group.rows (g : Group) : Nat := (g.members.map (·.2)).sum

/-- The commands of a group, in submission order. -/
def groupCmds (s : Block) (core id : Nat) : List Cmd := (s.queue (.mx core)).filter fun c => c.gather == some id

/-- The products of a closed group that are run as one command: a member whose strict dependency failed writes nothing
(R229). -/
def groupProducts (s : Block) (core g : Nat) : List MM :=
  ((groupCmds s core g).filter fun x => x.strict.isNone).map fun x => mxParams x.block x.code

/-- The products that a matrix command runs: its own, or those of its group. -/
def cmdProducts (s : Block) (c : Cmd) : List MM := match c.gather with
  | some g => groupProducts s c.core g
  | none => [mxParams c.block c.code]

/-- Every dependency of a group's submissions is satisfied (R229). -/
def groupReady (s : Block) (core id : Nat) : Bool := (groupCmds s core id).all depMet

/-- A GROUP CLOSES (R222, R224, R229): it is counted, and its first command carries its pass, of the class derived for
its full row count or the highest declared class. The group's command enters its queue now (R247), so whether its unit is
STOPPING, and with it every member's UNIT_STOPPING (R227, R927), is settled here, and a reserved ENERGY_CLASS of a light
member declares no class (assumption 99). -/
def closeGroup (core id : Nat) (s : Block) : Block :=
  match (s.core core).q.groups.find? fun g => g.id == id with
  | none => s
  | some g =>
    let s := s.modCore core (·.modQ fun x =>
      { x with groups := x.groups.filter fun y => y.id != id
               groupsFull := if g.rows = 16 then x.groupsFull + 1 else x.groupsFull
               groupsShort := if g.rows = 16 then x.groupsShort else x.groupsShort + 1 })
    let cs := groupCmds s core id
    match cs with
    | [] => s
    | c :: _ =>
      let p := mxParams c.block c.code
      let heavy := heavyWaves (mxWaves p g.rows)
      let declared := (cs.map fun x => if 0x14 < x.passClass then 0 else x.passClass).foldl max 0
      let hold := enterHeld s (.mx core)
      let s := cs.foldl (fun s x => s.modCmd (.mx core) x.id fun y => { y with hold := hold }) s
      let c' := { c with heavy := heavy, energy := mxEnergy p g.rows, power := 620, passClass := declared, hold := hold }
      let s := s.modCmd (.mx core) c.id fun _ => c'
      if heavy && groupReady s core id then requestPass (.mx core) c' s else s

/-- A submission joins the open group `gid`. -/
def joinGroup (core gid cmdId m : Nat) (s : Block) : Block :=
  s.modCore core (·.modQ fun (x : CoreQueues) =>
    { x with groups := x.groups.map fun (y : Group) =>
        if y.id = gid then { y with members := y.members ++ [(cmdId, m)] } else y })

/-- A submission opens a group of its key. -/
def openGroup (core gid cmdId m : Nat) (key : List Nat) (s : Block) : Block :=
  s.modCore core (·.modQ fun (x : CoreQueues) =>
    { x with groups := x.groups ++ [({ id := gid, key := key, members := [(cmdId, m)], window := x.gatherWindow.toNat } : Group)] })

/-- The command is a submission of group `gid`; a strict dependency that failed before it entered is kept (R229). -/
def markGather (core gid cmdId : Nat) (s : Block) : Block :=
  s.modCmd (.mx core) cmdId fun c => { c with gather := some gid, heavy := false, strict := c.cancel, cancel := none }

/-- A submission enters the gatherer (R219–R223): it joins the open group of its key when that has room, else opens one;
a fifth key closes the oldest group; 16 rows or a window of 0 close at once. -/
def gatherIn (core cmdId code : Nat) (b : List Byte) (s : Block) : Block :=
  let key := gatherKey code b
  let m := fld b 0x2C 2
  let groups := (s.core core).q.groups
  let (gid, s) : Nat × Block :=
    match groups.find? fun (g : Group) => g.key == key with
    | some g =>
      if g.rows + m ≤ 16 then (g.id, joinGroup core g.id cmdId m (markGather core g.id cmdId s))
      else
        let s := closeGroup core g.id s
        let gid := s.nextId
        (gid, openGroup core gid cmdId m key (markGather core gid cmdId { s with nextId := gid + 1 }))
    | none =>
      let s := if groups.length < 4 then s else
        match groups with
        | [] => s
        | g :: _ => closeGroup core g.id s
      let gid := s.nextId
      (gid, openGroup core gid cmdId m key (markGather core gid cmdId { s with nextId := gid + 1 }))
  match (s.core core).q.groups.find? fun (g : Group) => g.id == gid with
  | some g => if g.rows = 16 || g.window = 0 then closeGroup core gid s else s
  | none => s

/-- A matrix product enters the matrix queue: a submission of at most 16 rows goes to the gatherer while GATHER_EN is 1
(R221, R230, R1023). -/
def enterMx (th : Nat) (d : Reg) (pk : Pred) (code : Nat) (q : QueueRef) (b : List Byte) (e : Entry) (s : Block) : Block :=
  let core := th / 16
  if e.refuse.isNone && bitOf (fld b 2 1) 3 && (s.core core).q.gatherEn && decide (fld b 0x2C 2 ≤ 16) then
    let id := s.nextId
    gatherIn core id code b (enterCmd th d pk 1 code q b { e with heavy := false } s)
  else enterCmd th d pk 1 code q b e s

/-- The issue of a matrix product. -/
def issueMx (th : Nat) (d a : Reg) (pk : Pred) (code : Nat) (rev split : Bool) (s : Block) : BlockResult :=
  issueP th [pk] s (engWord th a 1 code
    (fun s b => mxEntry rev split (bitOf (fld b 2 1) 3 || depReady s (th / 16) b) s (th / 16) b) (enterMx th d pk code))

def execMxFwd (th : Nat) (d a : Reg) (w : EngCode) (s : State) : Result := onBlock s fun s =>
  issueFirst th d a w.pk 1 1 w.code (issueMx th d a w.pk 1 false false) s
def execMxRev (th : Nat) (d a : Reg) (pk : Pred) (s : State) : Result := onBlock s fun s => issueMx th d a pk 2 true false s
def execMxFwd3 (th : Nat) (d a : Reg) (pk : Pred) (s : State) : Result := onBlock s fun s => issueMx th d a pk 3 false true s
def execMxRev3 (th : Nat) (d a : Reg) (pk : Pred) (s : State) : Result := onBlock s fun s => issueMx th d a pk 4 true true s
def execMxDrain (th : Nat) (d a : Reg) (pk : Pred) (s : State) : Result := onBlock s fun s =>
  issueEng th d a pk 1 5 (fun _ b => drainEntry b) s

/-- The window of an open group passes (R222). -/
def execGatherWindowExpiry (core group : Nat) (s : State) : Result := onBlock s fun s =>
  within (decide (core < 4096)) s (closeGroup core group)

end Sys2Proof.Machine
end

