-- ==== Sys2Proof/Machine/Carriage.lean ====
section
/-! DEFINITION. The carriage unit's own commands, with the gradient hold (R263–R273, R290, R677–R692, R1024), and the
basin matrix-vector unit (R274–R282, R291). -/

namespace Sys2Proof.Machine

/-! ### Fields and checks of `cx.` commands (R290, R1019, R1022, R1024) -/

/-- The fields of a carriage command. -/
structure CX where
  act : Nat
  clist : Nat
  grad : Nat
  dy : Nat
  m : Nat
  tiles : Nat
  stride : Nat
  af : Option Fmt
  mb : Nat
  rev : Bool
  deriving DecidableEq, Repr

def cxOf (b : List Byte) (code : Nat) : CX :=
  { act := fld b 0x18 4, clist := fld b 0x1C 4, grad := fld b 0x20 4, dy := fld b 0x24 4, m := fld b 0x28 2,
    tiles := fld b 0x2A 2, stride := fld b 0x2C 2, af := fmtOf (fld b 0x2E 1), mb := fld b 0x30 4, rev := code == 2 }

def CX.a (p : CX) : Fmt := p.af.getD .bf16
/-- Terms of one K-block of a down term (R250). -/
def CX.terms (p : CX) : Nat := if p.rev then 64 else 16 * p.a.p
def CX.rowBytes (p : CX) : Nat := p.terms * p.a.e2 / 2
/-- `cx.grad` forms no dB (R682). -/
def noDy : Nat := 0xFFFFFFFF
def CX.formsB (p : CX) : Bool := p.dy != noDy

/-- The field limits of R290, and of R682 for a gradient; of the others those of R1024. -/
def cxOk (p : CX) (b : List Byte) (grad : Bool) : Bool :=
  (p.af.any carryFmt) && (1 ≤ p.m && p.m ≤ 4096) && 1 ≤ p.stride && fld b 0x2F 1 == 0
    && allZero b 0x34 12 && p.clist % 512 == 0 && p.rowBytes * p.tiles ≤ 32 * p.stride
    && (if grad then p.tiles ≤ 4096 else p.grad == 0 && p.dy == 0 && p.mb == 0)

def CX.actRange (p : CX) : List (Nat × Nat) :=
  if p.tiles = 0 then [] else (List.range p.m).map fun r => (p.act + 32 * r * p.stride, p.rowBytes * p.tiles)

/-- The tile-store ranges of a down term. -/
def downRanges (p : CX) (es : List CEntry) : List (Nat × Nat) :=
  p.actRange ++ clistRange p.clist p.m ++ es.flatMap fun e =>
    if e.rank = 0 then []
    else (e.h, 2 * e.rank) :: (List.range p.tiles).map fun t => (e.aAddr + t * e.aStride, e.downBytes p.rev)

/-- The tile-store ranges of a gradient (R677). -/
def gradRanges (p : CX) (es : List CEntry) : List (Nat × Nat) :=
  p.actRange ++ clistRange p.clist p.m
    ++ (if p.formsB then [(p.dy, 128 * p.m)] else [])
    ++ es.flatMap fun e =>
      if e.rank = 0 then []
      else (if p.formsB then [(e.h, 2 * e.rank)] else []) ++ (if p.tiles = 0 then [] else [(e.h + 512, 2 * e.rank)])

/-- Carriage wavefronts of a down term (R270). -/
def downWaves (p : CX) (es : List CEntry) : Nat := (es.map fun e => p.tiles * ceilDiv e.rank 16).sum

/-- Carriage wavefronts of a gradient (R684). -/
def gradWaves (p : CX) (es : List CEntry) : Nat :=
  (es.map fun e => p.tiles * ceilDiv e.rank 16 + if p.formsB then ceilDiv e.rank 4 else 0).sum

/-- A carriage command's weight (R904). -/
def cxWeight (b : List Byte) (waves : Nat) : Entry :=
  if heavyWaves waves then .heavyOf b (30 * waves) 50 else .light

/-! ### The regions of a gradient (R681, R683) -/

/-- Two entries name one adapter (R681). -/
def CEntry.same (e f : CEntry) : Bool := e.aAddr == f.aAddr && e.bAddr == f.bAddr

/-- The distinct adapters of a carriage list, by ordinal. -/
def adaptersOf (es : List CEntry) : List CEntry :=
  es.foldl (fun acc e => if e.rank = 0 || acc.any e.same then acc else acc ++ [e]) []

/-- Pairs of the dA part, and of a whole region. -/
def CX.aPairs (p : CX) (e : CEntry) : Nat := 16 * p.a.p * p.tiles * e.rank
def CX.pairs (p : CX) (e : CEntry) : Nat := p.aPairs e + if p.formsB then 64 * e.rank else 0

/-- Each adapter with the gradient-hold offset of its region. -/
def regionsFrom (p : CX) : Nat → List CEntry → List (CEntry × Nat)
  | _, [] => []
  | a, e :: es => (e, a) :: regionsFrom p (a + 8 * p.pairs e) es

def regionsOf (p : CX) (es : List CEntry) : List (CEntry × Nat) := regionsFrom p p.grad (adaptersOf es)

/-- The checks of R683. -/
def gradOk (p : CX) (es : List CEntry) : Bool :=
  p.grad % 8 == 0
    && (regionsOf p es).all (fun r => decide (r.2 + 8 * p.pairs r.1 ≤ 0x20000))
    && es.all fun e => e.rank == 0 || (adaptersOf es).all fun f => !e.same f || (e.rank == f.rank && e.scale == f.scale)

/-- The granules of the gradient hold that a command touches (R685). -/
def touched (p : CX) (es : List CEntry) : List Nat :=
  (List.range 32).filter fun g => (regionsOf p es).any fun r =>
    p.pairs r.1 != 0 && overlap r.2 (8 * p.pairs r.1) (4096 * g) 4096

/-- The checks of a carriage command, and its weight. With `full`, those of its list and entries too (R1019). -/
def cxEntry (code : Nat) (full : Bool) (s : Block) (core : Nat) (b : List Byte) : Entry :=
  let p := cxOf b code
  let grad := code == 3
  if !rangesOk (p.actRange ++ clistRange p.clist p.m) then .bad .internal
  else if !cxOk p b grad then (if grad then .fails .internal else .bad .internal)
  else if !full || chamberHeld s core (clistRange p.clist p.m) then .light
  else
    let es := centries (s.core core).ts p.clist p.m
    if !(es.all fun e => e.ok p.a && e.inStore p.rev p.tiles 1) then .bad .internal
    else if !grad then .when (rangesOk (downRanges p es)) (cxWeight b (downWaves p es))
    else if rangesOk (gradRanges p es) then .unless (gradOk p es) (cxWeight b (gradWaves p es))
    else .bad .internal

/-! ### Down terms (R267) -/

/-- Elements of row i for tile t. -/
def CX.vals (p : CX) (ts : Mem) (i t : Nat) : List Val :=
  let bs := Mem.read ts (p.act + 32 * i * p.stride + p.rowBytes * t) p.rowBytes
  (List.range p.terms).map fun k => decodeFmt p.a (elemWord p.a bs k)

/-- Column j of the down-term slice of tile t (R265). -/
def CEntry.downVals (e : CEntry) (ts : Mem) (rev : Bool) (t j n : Nat) : List Val :=
  let bs := Mem.read ts (e.aAddr + t * e.aStride) (e.downBytes rev)
  (List.range n).map fun k => decodeFmt e.f (elemWord e.f bs (if rev then j * 64 + k else k * e.rank + j))

/-- The sum of row i's element j after tile t (R267). -/
def downAdd (p : CX) (ts : Mem) (e : CEntry) (i t j old : Nat) : Nat :=
  (accAdd32 old (kblock .fp32 (List.zipWith Val.mul (p.vals ts i t) (e.downVals ts p.rev t j p.terms))).w).w

/-- The elements of h or g, row by row, that a command sums: its entry, its row and its place in the row. -/
def downCells (es : List CEntry) : List (CEntry × Nat × Nat) :=
  es.zipIdx.flatMap fun (e, i) => (List.range e.rank).map fun j => (e, i, j)

/-- Blocks of 64 rows of a carriage command. -/
def CX.rowBlks (p : CX) : Nat := ceilDiv p.m 64

/-- One piece of a down term between stop points: 64 rows of a tile (R278). -/
def downPiece (p : CX) (ts : Mem) (es : List CEntry) (k : Nat) (sums : List Nat) : List Nat :=
  ((downCells es).zip sums).map fun (x, w) =>
    if x.2.1 / 64 = k % p.rowBlks then downAdd p ts x.1 x.2.1 (k / p.rowBlks) x.2.2 w else w

/-- The sums of a down term after the pieces `i` to `j - 1`; a command that has done nothing starts from 0. -/
def downSums (p : CX) (ts : Mem) (es : List CEntry) (i j : Nat) (held : List Nat) : List Nat :=
  (List.range (j - i)).foldl (fun a k => downPiece p ts es (i + k) a) (if i = 0 then (downCells es).map fun _ => 0 else held)

/-- A carriage command that writes h or g does its work, from its last stop point: the sums, rounded to BF16, are written
at its end. -/
def runDown (c : Cmd) (limit : Option Nat) (s : Block) : Work :=
  let p := cxOf c.block c.code
  let es := centries (s.core c.core).ts p.clist p.m
  let l := downRanges p es
  let n := p.tiles * p.rowBlks
  if noPoint limit c.pos n || chamberHeld s c.core l then .notYet s
  else
    match (s.core c.core).badRanges l with
    | some w =>
      let outs := es.flatMap fun e => (List.range e.rank).map fun j => e.h + 2 * j
      .done .eccUncorrectable (engineEvent c.core .eccUncorrectable 0 (scrambleTile c.core outs 2 (eccSram c.core w false s)))
    | none =>
      let sums := downSums p (s.core c.core).ts es c.pos (runTo limit c.pos n) c.carried
      match limit with
      | some _ => .point (runTo limit c.pos n) sums s
      | none =>
        let outs := (downCells es).zip sums
        .done .ok (s.modCore c.core fun x => outs.foldl (fun x o =>
          x.tsWrite (o.1.1.h + 2 * o.1.2.2) (leBytes 2 (convert .bf16 none (f32Val o.2)).1)) x)

/-! ### Gradients (R679–R692) -/

/-- The rows of an adapter among 64 rows, by row block of 16, blocks with no such row left out. -/
def rowBlocks (es : List CEntry) (d : CEntry) (k : Nat) : List (List Nat) :=
  ((List.range 4).map fun b =>
    ((es.zipIdx.filter fun x => x.2 / 16 == 4 * k + b && x.1.rank != 0 && x.1.same d).map (·.2))).filter fun l => !l.isEmpty

/-- One element: each row block's exact sum, rounded once to a pair, is added in ascending order. -/
def gradAdd (w : Nat) (blocks : List (List Val)) : Summed :=
  accumulate .comp { w := w, sat := false, nan := false } (blocks.map (kblock .comp))

/-- The BF16 elements at a tile-store address. -/
def bf16At (ts : Mem) (a i : Nat) : Val := decodeFmt .bf16 (Mem.nat ts (a + 2 * i) 2)

/-- Pieces of a gradient between its stop points: 64 rows of a tile each, the dB part after the tiles (R273, R278). -/
def CX.gradPoints (p : CX) : Nat := (p.tiles + b2n p.formsB) * p.rowBlks

/-- The new pairs of one adapter's region after 64 rows, block `k` of them, of tile `t`; `t` past the last tile is the dB
part. -/
def gradRegion (p : CX) (c : Core) (es : List CEntry) (t k : Nat) (d : CEntry) (base : Nat) : List (Nat × Summed) :=
  let blocks := rowBlocks es d k
  let sc := f32Val d.scale
  let e := fun i => es.getD i d
  let n := 16 * p.a.p
  let old := fun a => Mem.nat c.sums.gh a 8
  if t < p.tiles then
    (List.range n).flatMap fun x => (List.range d.rank).map fun j =>
      let a := base + 8 * ((n * t + x) * d.rank + j)
      (a, gradAdd (old a) (blocks.map fun rows => rows.map fun i =>
        (sc.mul ((p.vals c.ts i t).getD x .nan)).mul (bf16At c.ts ((e i).h + 512) j)))
  else
    (List.range d.rank).flatMap fun j => (List.range 64).map fun col =>
      let a := base + 8 * p.aPairs d + 8 * (j * 64 + col)
      (a, gradAdd (old a) (blocks.map fun rows => rows.map fun i =>
        (sc.mul (bf16At c.ts (e i).h j)).mul (bf16At c.ts (p.dy + 128 * i) col)))

/-- Write one pair into the gradient hold, with the flags of its granule (R690). -/
def ghWrite (x : SumStore) (o : Nat × Summed) : SumStore :=
  let g := 1#32 <<< (o.1 / 4096)
  { x with gh := Mem.write x.gh o.1 (leBytes 8 o.2.w)
           ghSat := if o.2.sat then x.ghSat ||| g else x.ghSat
           ghNan := if o.2.nan then x.ghNan ||| g else x.ghNan }

/-- The granules become ACTIVE at a micro-batch (R686). -/
def ghActivate (gs : List Nat) (mb : Nat) (x : SumStore) : SumStore :=
  gs.foldl (fun x g => { x with ghActive := x.ghActive ||| (1#32 <<< g), ghLastMb := SMap.put 0 g mb x.ghLastMb }) x

/-- A command's micro-batch is below that of an ACTIVE granule it would touch (R685). -/
def ghRefuses (x : SumStore) (gs : List Nat) (mb : Nat) : Bool :=
  gs.any fun g => x.ghActive.getLsbD g && decide (mb < SMap.get 0 g x.ghLastMb)

def Core.modSums (c : Core) (f : SumStore → SumStore) : Core := { c with sums := f c.sums }

/-- SRAM offset of the gradient hold (R1018). -/
def ghSram : Nat := 0x90000

/-- The pair that holds an uncorrectable word becomes (default NaN, +0) with its granule's NAN set (R691). -/
def ghLost (w : Nat) (c : Core) : Core :=
  let a := (w - ghSram) / 8 * 8
  { c with sums := ghWrite c.sums (a, { w := 0x7FC00000, sat := false, nan := true })
           bad := c.bad.filter (· != w) }

/-- Every pair a command writes takes an unpredictable value (R281). -/
def ghScramble (core : Nat) (addrs : List Nat) (s : Block) : Block :=
  let (ws, s) := freeWords addrs.length s
  s.modCore core (·.modSums fun x =>
    { x with gh := (addrs.zip ws).foldl (fun m a => Mem.write m a.1 (leBytes 8 a.2)) x.gh })

/-- One piece of a gradient's work. -/
def gradPiece (p : CX) (es : List CEntry) (k : Nat) (x : Core) : Core :=
  let outs := (regionsOf p es).flatMap fun r => gradRegion p x es (k / p.rowBlks) (k % p.rowBlks) r.1 r.2
  x.modSums fun y => outs.foldl ghWrite y

/-- A gradient command of a core has made some of its additions to a granule and not all (R689). -/
def gradPart (s : Block) (core g : Nat) : Bool :=
  (s.core core).q.cx.any fun c => c.code == 3 && c.pos != 0 && c.refuse.isNone &&
    (let p := cxOf c.block c.code
     (touched p (centries (s.core core).ts p.clist p.m)).contains g)

/-- `cx.grad` does its work, from its last stop point (R692). -/
def runGrad (c : Cmd) (limit : Option Nat) (s : Block) : Work :=
  let p := cxOf c.block c.code
  let es := centries (s.core c.core).ts p.clist p.m
  let l := gradRanges p es
  let rs := regionsOf p es
  let gs := touched p es
  if noPoint limit c.pos p.gradPoints || chamberHeld s c.core l then .notYet s
  else if c.pos = 0 && ghRefuses (s.core c.core).sums gs p.mb then
    .done .internal (s.modCore c.core (·.modSums fun x => { x with ghRefused := x.ghRefused + 1 }))
  else
    let addrs := rs.flatMap fun r => (List.range (p.pairs r.1)).map fun i => r.2 + 8 * i
    let tsBad := (s.core c.core).badRanges l
    let ghBad := (s.core c.core).badRanges (rs.map fun r => (ghSram + r.2, 8 * p.pairs r.1))
    match tsBad, ghBad with
    | some w, _ =>
      .done .eccUncorrectable (engineEvent c.core .eccUncorrectable 0 (ghScramble c.core addrs (eccSram c.core w false s)))
    | none, some w =>
      .done .eccUncorrectable (engineEvent c.core .eccUncorrectable 0
        ((ghScramble c.core addrs (eccSram c.core w false s)).modCore c.core (ghLost w)))
    | none, none =>
      let n := runTo limit c.pos p.gradPoints
      let s := s.modCore c.core (runPieces (gradPiece p es) c.pos n)
      match limit with
      | some _ => .point n [] s
      | none => .done .ok (s.modCore c.core (·.modSums (ghActivate gs p.mb)))

/-- A carriage command does its work. -/
def runCx (c : Cmd) (limit : Option Nat) (s : Block) : Work := if c.code = 3 then runGrad c limit s else runDown c limit s

/-- Pieces of a carriage command between its stop points. -/
def cxPoints (c : Cmd) : Nat :=
  let p := cxOf c.block c.code
  if c.code = 3 then p.gradPoints else p.tiles * p.rowBlks

/-- The issue of a carriage command. -/
def issueCx (th : Nat) (d a : Reg) (pk : Pred) (code : Nat) (s : Block) : BlockResult :=
  issueEng th d a pk 2 code (fun s b => cxEntry code (depReady s (th / 16) b) s (th / 16) b) s

def execCxDown (th : Nat) (d a : Reg) (w : EngCode) (s : State) : Result := onBlock s fun s =>
  issueFirst th d a w.pk 2 1 w.code (issueCx th d a w.pk 1) s
def execCxBack (th : Nat) (d a : Reg) (pk : Pred) (s : State) : Result := onBlock s fun s => issueCx th d a pk 2 s
def execCxGrad (th : Nat) (d a : Reg) (pk : Pred) (s : State) : Result := onBlock s fun s => issueCx th d a pk 3 s

/-! ### The MVU (R274–R282, R291) -/

/-- An MVU command's parameters: those of a product, its strips and where its carts lie. -/
def mvParams (b : List Byte) (code : Nat) : MM := mmOf b (code == 2) (code == 3)
def mvStrips (p : MM) : Nat := bitsOf p.opt 4 4 + 1
def mvVa (b : List Byte) : Nat := fld b 0x38 8
/-- The address of cart t of strip j. -/
def mvCart (p : MM) (va j t : Nat) : Nat := va + (j * p.tiles + t) * p.wstride

/-- The checks of an MVU command: 36 nJ a cart, always heavy (R904). -/
def mvEntry (code : Nat) (full : Bool) (s : Block) (core : Nat) (b : List Byte) : Entry :=
  let p := mvParams b code
  let n := mvStrips p
  if !(mmOk p n && fld b 0x1C 4 == 0 && bitsOf p.opt 1 3 == 0 && mvVa b % 64 == 0) then .bad .internal
  else
    let es := listNow full s core p
    .when (carryOk p n es && rangesOk (mmRanges p n es)) (.unless (p.strideOk && p.m ≤ 4) (.heavyOf b (36000 * n * p.tiles) 2000))

/-- `BS_MVU_POS` at a stop before a cart: its STRIP and TILE. An MVU command stops between carts only, so PART is 0. -/
def mvPosWord (p : MM) (i : Nat) : Nat := i % p.tiles + 2 ^ 12 * (i / p.tiles % 16)

/-- An MVU as the maker of an access. -/
def whoMv (s : Block) (core : Nat) : Who :=
  { unit := 4, inst := 0, basin := basinOf core, slot := 0xFF, ctx := (s.ctxOf core).getD 0xFFFF }

/-- The MVU takes cart `i` of a command: its additions in every vector's row, and after a strip's last cart its up terms
(R275–R277). -/
def mvCartIn (p : MM) (i : Nat) (cart : List Byte) (c : Core) : Core :=
  let strip := i / p.tiles
  let c := if i % p.tiles = 0 then initFlags p strip c else c
  let c := (List.range p.parts).foldl (fun c k => runRows (mmRows [p]) strip (i % p.tiles) k cart c) c
  if i % p.tiles + 1 = p.tiles then runUp [p] strip c else c

/-- The MVU takes `n` carts from cart `i` on, reading each through the basin's TLB; the first that fails, with its
position. -/
def takeCarts (core : Nat) (p : MM) (va : Nat) : Nat → Nat → Block → Option (Status × Nat × Nat) × Block
  | 0, _, s => (none, s)
  | n + 1, i, s =>
    let w := whoMv s core
    match vread w (some w.basin) (va + i * p.wstride) p.f.cartSize s with
    | (.error (st, fva), s) => (some (st, fva, i), s)
    | (.ok cart, s) => takeCarts core p va n (i + 1) (s.modCore core (mvCartIn p i cart))

/-- An MVU command does its work, from its last stop point: a cart that is NOT_RESIDENT stops it there (R282); another
failing cart ends it with the failure (R281). -/
def runMv (c : Cmd) (limit : Option Nat) (s : Block) : Work :=
  let p := mvParams c.block c.code
  let n := mvStrips p
  let l := mmRanges p n (mmEntries (s.core c.core).ts p)
  let last := runTo limit c.pos (n * p.tiles)
  if noPoint limit c.pos (n * p.tiles) || chamberHeld s c.core l then .notYet s
  else
    match (s.core c.core).badRanges (l ++ accRanges p n) with
    | some w => .done .eccUncorrectable (unitEvent c.core .eccUncorrectable 0 (mmScramble c.core p n (eccSram c.core w false s)))
    | none =>
      match takeCarts c.core p (mvVa c.block) (last - c.pos) c.pos s with
      | (some (.notResident, va, i), s) => .fault va i s
      | (some (st, va, _), s) => .done st (unitEvent c.core st va (mmScramble c.core p n s))
      | (none, s) =>
        match limit with
        | some _ => .point last [] s
        | none => .done .ok s

/-- The issue of an MVU command. -/
def issueMv (th : Nat) (d a : Reg) (pk : Pred) (code : Nat) (s : Block) : BlockResult :=
  issueEng th d a pk 3 code (fun s b => mvEntry code (depReady s (th / 16) b) s (th / 16) b) s

def execMvFwd (th : Nat) (d a : Reg) (w : EngCode) (s : State) : Result := onBlock s fun s =>
  issueFirst th d a w.pk 3 1 w.code (issueMv th d a w.pk 1) s
def execMvRev (th : Nat) (d a : Reg) (pk : Pred) (s : State) : Result := onBlock s fun s => issueMv th d a pk 2 s
def execMvFwd3 (th : Nat) (d a : Reg) (pk : Pred) (s : State) : Result := onBlock s fun s => issueMv th d a pk 3 s

end Sys2Proof.Machine
end

