-- ==== Sys2Proof/Machine/Elementary.lean ====
section
/-! DEFINITION. The vector engine's correctly rounded functions (R377, R378, R382): quotient, roots, exponentials and
logarithms of exact values. Each forms an interval that holds the exact result and refines it until both ends round to
the same word; the last precision is far beyond what any FP32 or BF16 input needs (DEDUCED, assumption 21). -/

namespace Sys2Proof.Machine

/-- Round to a floating-point format to nearest, ties to even; beyond the largest finite value, infinity (R377, R382). -/
def roundIeee (f : Fmt) (v : Val) : Val :=
  match v with
  | .fin neg m e =>
    if m = 0 then v
    else
      let q := gridExp f m e
      let (lo, rest, s) := gridSplit m e q
      match packSteps f (roundSteps none lo rest s) q with
      | some w => decodeFmt f (signBit f neg + w)
      | none => .inf neg
  | v => v

/-- One sticky bit below a value's last place says that something was left over. -/
def sticky (neg : Bool) (m : Nat) (e : Int) (rest : Bool) : Val := .fin neg (2 * m + b2n rest) (e - 1)

/-- a / b, near enough that one rounding gives the correctly rounded quotient. -/
def Val.div : Val → Val → Val
  | .nan, _ => .nan
  | _, .nan => .nan
  | .inf _, .inf _ => .nan
  | .inf a, b => .inf (a != b.neg?)
  | a, .inf b => .fin (a.neg? != b) 0 0
  | .fin a m e, .fin b n f =>
    if n = 0 then (if m = 0 then .nan else .inf (a != b))
    else if m = 0 then .fin (a != b) 0 0
    else
      let k := 80 + bitLen n
      sticky (a != b) (m * 2 ^ k / n) (e - f - k) (m * 2 ^ k % n != 0)

/-- √a, near enough for one rounding. -/
def Val.root : Val → Val
  | .nan => .nan
  | .inf n => if n then .nan else .inf false
  | .fin n m e =>
    if m = 0 then .fin n 0 0
    else if n then .nan
    else
      let m' := if e % 2 = 0 then m else 2 * m
      let e' := if e % 2 = 0 then e else e - 1
      let big := m' * 2 ^ 160
      let r := Nat.sqrt big
      sticky false r (e' / 2 - 80) (r * r != big)

/-- 1 / √a, near enough for one rounding. -/
def Val.rroot : Val → Val
  | .nan => .nan
  | .inf n => if n then .nan else .fin false 0 0
  | .fin n m e =>
    if m = 0 then .inf n
    else if n then .nan
    else
      let m' := if e % 2 = 0 then m else 2 * m
      let e' := if e % 2 = 0 then e else e - 1
      let k := 80 + bitLen m'
      let big := 2 ^ (2 * k)
      let r := Nat.sqrt (big / m')
      sticky false r (-(e' / 2) - k) (r * r * m' != big)

/-! ### Fixed point -/

/-- 2 × Σ (1/3)^(2i+1) / (2i+1) in units of 2^−p: ln 2. -/
def ln2Loop : Nat → Nat → Nat → Nat
  | 0, _, _ => 0
  | n + 1, i, pow => pow / (2 * i + 1) + ln2Loop n (i + 1) (pow / 9)
def ln2Fix (p : Nat) : Int := ln2Loop (p / 3 + 2) 0 (2 ^ (p + 1) / 3)

/-- e^r for r in units of 2^−p, |r| below 1. -/
def expLoop (p : Nat) (r : Int) : Nat → Nat → Int → Int
  | 0, _, _ => 0
  | k + 1, n, t => t + expLoop p r k (n + 1) (t * r / 2 ^ p / ((n : Int) + 1))
def expFix (p : Nat) (r : Int) : Int := expLoop p r (p / 2 + 8) 0 (2 ^ p)

/-- 2 × atanh z for z in units of 2^−p. -/
def atanhLoop (p : Nat) (zz : Int) : Nat → Nat → Int → Int
  | 0, _, _ => 0
  | k + 1, i, pow => pow / ((2 * i + 1 : Nat) : Int) + atanhLoop p zz k (i + 1) (pow * zz / 2 ^ p)
def atanh2Fix (p : Nat) (z : Int) : Int := 2 * atanhLoop p (z * z / 2 ^ p) (p / 3 + 4) 0 z

/-- A value in units of 2^−p, rounded down. -/
def fixOf (p : Nat) (x : Dy) : Int :=
  let k := x.e + (p : Int)
  if 0 ≤ k then x.m * 2 ^ k.toNat else x.m / 2 ^ (-k).toNat

/-- The word both ends of the interval around an approximation round to, at the first precision where they agree. -/
def settle (f : Fmt) (iv : Nat → Dy) : List Nat → Val
  | [] => .nan
  | [p] => roundIeee f ((iv p).val false)
  | p :: q :: ps =>
    let v := iv p
    let err : Dy := { m := 2 ^ 30, e := v.e }
    let a := roundIeee f ((v.add err.neg).val false)
    if a = roundIeee f ((v.add err).val false) then a else settle f iv (q :: ps)

/-- The precisions tried in turn. -/
def precisions : List Nat := [128, 256, 640]

/-- e^x of a nonzero value of moderate size, in units of 2^(k − p). -/
def expApprox (x : Dy) (p : Nat) : Dy :=
  let v := fixOf p x
  let k := v / ln2Fix p
  { m := expFix p (v - k * ln2Fix p), e := k - p }

/-- 2^x. -/
def exp2Approx (x : Dy) (p : Nat) : Dy :=
  let v := fixOf p x
  let k := v / 2 ^ p
  { m := expFix p ((v - k * 2 ^ p) * ln2Fix p / 2 ^ p), e := k - p }

/-- ln of a positive value. -/
def logApprox (m : Nat) (e : Int) (p : Nat) : Dy :=
  let h := 2 ^ (bitLen m - 1)
  let z : Int := ((m - h : Nat) : Int) * 2 ^ p / ((m + h : Nat) : Int)
  { m := (e + bitLen m - 1) * ln2Fix p + atanh2Fix p z, e := -(p : Int) }

/-- log₂ of a positive value. -/
def log2Approx (m : Nat) (e : Int) (p : Nat) : Dy :=
  { m := (logApprox m e p).m * 2 ^ p / ln2Fix p, e := -(p : Int) }

/-- An exact number is at least, or at most, an integer. -/
def Dy.ge (x : Dy) (n : Int) : Bool := !x.lt { m := n, e := 0 }

/-- The results of `exp` and `exp2` beyond any finite or nonzero word. -/
def expClip (neg : Bool) : Val := if neg then .fin false 0 0 else .inf false

/-- `exp` (R378, R382). -/
def Val.exp (f : Fmt) : Val → Val
  | .nan => .nan
  | .inf n => expClip n
  | .fin n m e =>
    if m = 0 then .fin false 1 0
    else
      let x := (Val.fin n m e).dy
      if x.ge 512 then .inf false
      else if !x.ge (-512) then .fin false 0 0
      else settle f (expApprox x) precisions

/-- `exp2`; an integer power is exact. -/
def Val.exp2 (f : Fmt) : Val → Val
  | .nan => .nan
  | .inf n => expClip n
  | .fin n m e =>
    if m = 0 then .fin false 1 0
    else
      let x := (Val.fin n m e).dy
      if x.ge 512 then .inf false
      else if !x.ge (-512) then .fin false 0 0
      else if fixOf 0 x * 2 ^ 160 = fixOf 160 x then roundIeee f (.fin false 1 (fixOf 0 x))
      else settle f (exp2Approx x) precisions

/-- `log` and `log2` share their special results. -/
def logWith (iv : Nat → Int → Val) : Val → Val
  | .nan => .nan
  | .inf n => if n then .nan else .inf false
  | .fin n m e => if m = 0 then .inf true else if n then .nan else iv m e

/-- `log`. -/
def Val.log (f : Fmt) (v : Val) : Val :=
  logWith (fun m e => if m = 2 ^ (bitLen m - 1) && e + bitLen m - 1 = 0 then .fin false 0 0
                      else settle f (logApprox m e) precisions) v

/-- `log2`; that of a power of two is exact. -/
def Val.lg (f : Fmt) (v : Val) : Val :=
  logWith (fun m e => if m = 2 ^ (bitLen m - 1) then roundIeee f ((Dy.mk (e + bitLen m - 1) 0).val false)
                      else settle f (log2Approx m e) precisions) v

end Sys2Proof.Machine
end

