-- ==== Sys2Proof/Machine/Vector.lean ====
section
/-! DEFINITION. The vector engine: chains, streams, masks, operations, table look-up, row reductions, combine, table
load, step, and the scalar summary (R212–R217, R357–R405). -/

namespace Sys2Proof.Machine

/-! ### Chains (R363–R372, R399) -/

/-- A stream descriptor (R365). `dir` is 0 unused, 1 input, 2 output; `code` is the FMT it names. -/
structure VStream where
  addr : Nat
  stride : Nat
  code : Nat
  f : Option Fmt
  dir : Nat
  rowsc : Bool
  high : Nat
  scale : Nat
  deriving DecidableEq, Repr

def VStream.fmt (x : VStream) : Fmt := x.f.getD .fp32
def VStream.none : VStream := { addr := 0, stride := 0, code := 0, f := .none, dir := 0, rowsc := false, high := 0, scale := 0 }

/-- A vector instruction (R371). -/
structure VInstr where
  opc : Nat
  d : Nat
  a : Nat
  b : Nat
  c : Nat
  msk : Nat
  minv : Bool
  imm : Nat
  deriving DecidableEq, Repr

/-- A chain to run. -/
structure VJob where
  rows : Nat
  cols : Nat
  tensor : Nat
  row0 : Nat
  col0 : Nat
  vflags : Nat
  minit : Nat
  chain : Nat
  streams : List VStream
  consts : List Nat
  instrs : List VInstr
  deriving DecidableEq, Repr

def VJob.sr (j : VJob) : Bool := bitOf j.vflags 0
def VJob.pack (j : VJob) : Bool := bitOf j.vflags 1
/-- Elements of a group. -/
def VJob.lanes (j : VJob) : Nat := if j.pack then 128 else 64
/-- The format of a lane's values. -/
def VJob.lane (j : VJob) : Fmt := if j.pack then .bf16 else .fp32
def VJob.stream (j : VJob) (o : Nat) : VStream := j.streams.getD (o - 8) .none

def streamOf (b : List Byte) : VStream :=
  { addr := fld b 0 4, stride := fld b 4 4, code := fld b 8 1, f := fmtOf (fld b 8 1), dir := bitsOf (fld b 9 1) 0 2,
    rowsc := bitOf (fld b 9 1) 2, high := bitsOf (fld b 9 1) 3 5, scale := fld b 10 2 }

def instrOf (w : Nat) : VInstr :=
  { opc := bitsOf w 0 8, d := bitsOf w 8 5, a := bitsOf w 13 5, b := bitsOf w 18 5, c := bitsOf w 23 5,
    msk := bitsOf w 28 3, minv := bitOf w 31, imm := bitsOf w 32 32 }

/-- The chain of a `vx.run` (R363, R364). -/
def runJob (ts : Mem) (b : List Byte) : VJob :=
  let chain := fld b 0x18 4
  let n := fld b 0x30 1
  let h := Mem.read ts chain (64 + 8 * n)
  { rows := fld b 0x1C 4, cols := fld b 0x20 4, tensor := fld b 0x24 4, row0 := fld b 0x28 4, col0 := fld b 0x2C 4,
    vflags := fld b 0x31 1, minit := fld b 0x38 8, chain := chain,
    streams := (List.range 4).map fun k => streamOf (h.drop (12 * k)),
    consts := (List.range 4).map fun k => fld h (0x30 + 4 * k) 4,
    instrs := (List.range n).map fun k => instrOf (fld h (64 + 8 * k) 8) }

/-- Sources an opcode reads (R376). -/
def vArity (opc : Nat) : Nat :=
  if opc = 5 || opc = 0x12 then 3
  else if opc = 2 || opc = 3 || opc = 4 || opc = 6 || opc = 0xE || opc = 0xF || (0x13 ≤ opc && opc ≤ 0x17) then 2 else 1

def isRed (opc : Nat) : Bool := 0x1B ≤ opc && opc ≤ 0x1D
def isCmp (opc : Nat) : Bool := 0x14 ≤ opc && opc ≤ 0x17

/-- The operands an instruction names. -/
def VInstr.sources (i : VInstr) : List Nat := [i.a, i.b, i.c].take (vArity i.opc)

/-- `op` of a single-operation command takes b from IMM (R399). -/
def noAddr : Nat := 0xFFFFFFFF

/-- The one-instruction chain of a single-operation command (R399). -/
def opJob (code : Nat) (b : List Byte) : VJob :=
  let opc := code - 0x40
  let n := vArity opc
  let rows := fld b 0x2C 2
  let sd := fun (addr stride code dir : Nat) (rowsc : Bool) =>
    ({ addr := addr, stride := stride, code := code, f := fmtOf code, dir := dir, rowsc := rowsc, high := 0,
       scale := if ((fmtOf code).getD .fp32).isMx then ceilDiv (rows * stride) 64 else 0 } : VStream)
  let fi := fld b 0x2E 1
  let inp := fun addr => sd addr (fld b 0x30 4) fi 1 false
  let bImm := 2 ≤ n && fld b 0x1C 4 == noAddr
  { rows := rows, cols := fld b 0x28 4, tensor := 0, row0 := 0, col0 := 0, vflags := fld b 0x3C 1, minit := 0, chain := 0,
    streams := [inp (fld b 0x18 4), if 2 ≤ n && !bImm then inp (fld b 0x1C 4) else .none,
                if n = 3 then inp (fld b 0x20 4) else .none,
                sd (fld b 0x24 4) (fld b 0x34 4) (fld b 0x2F 1) 2 (isRed opc)],
    consts := [0, 0, 0, 0],
    instrs := [{ opc := opc, d := 0xB, a := 8, b := if bImm then 0x14 else 9, c := 0xA, msk := 0, minv := false,
                 imm := fld b 0x38 4 }] }

/-! ### Checks (R363–R372, R395, R399, R400, R1022) -/

/-- The block of a `vx.run` keeps its limits. -/
def runBlockOk (b : List Byte) : Bool :=
  fld b 0x18 4 % 64 == 0 && (1 ≤ fld b 0x1C 4 && fld b 0x1C 4 ≤ 65536) && (1 ≤ fld b 0x20 4 && fld b 0x20 4 ≤ 1048576)
    && (1 ≤ fld b 0x30 1 && fld b 0x30 1 ≤ 32) && bitsOf (fld b 0x31 1) 2 6 == 0 && allZero b 0x32 6
    && inTile (fld b 0x18 4) (64 + 8 * fld b 0x30 1)

/-- The block of a single-operation command keeps its limits. -/
def opBlockOk (code : Nat) (b : List Byte) : Bool :=
  let n := vArity (code - 0x40)
  (1 ≤ fld b 0x28 4 && fld b 0x28 4 ≤ 1048576) && 1 ≤ fld b 0x2C 2 && bitsOf (fld b 0x3C 1) 2 6 == 0 && allZero b 0x3D 3
    && (n == 3 || fld b 0x20 4 == 0) && (2 ≤ n || fld b 0x1C 4 == 0)

/-- Bytes before column c of a row. -/
def colOff (f : Fmt) (c : Nat) : Nat := c * f.e2 / 2
/-- The row of MX scales of row r. -/
def VStream.scaleRow (x : VStream) (r : Nat) : Nat := x.addr + 64 * x.scale + r * x.stride / (16 * x.fmt.e2)
/-- Columns of a row that a stream holds. -/
def VStream.width (x : VStream) (cols : Nat) : Nat := if x.rowsc then 1 else cols

/-- The regions of a stream, row by row (R366). -/
def VStream.ranges (x : VStream) (rows cols : Nat) : List (Nat × Nat) :=
  if x.dir = 0 then [] else
    (List.range rows).flatMap fun r =>
      (x.addr + r * x.stride, (x.width cols * x.fmt.e2 + 1) / 2)
        :: (if x.fmt.isMx then [(x.scaleRow r, ceilDiv (x.width cols) 32)] else [])

/-- A descriptor keeps R365, R319 and R400. An unused one names no stream, and may name no format: its FMT may be 0
(assumption 100). -/
def VStream.ok (x : VStream) (j : VJob) : Bool :=
  x.high == 0 && (x.scale == 0 || (x.f.isSome && x.fmt.isMx)) &&
    (if x.dir = 0 then x.code == 0 || x.f.isSome
     else x.dir != 3 && x.f.isSome && rangesOk (x.ranges j.rows j.cols)
      && !(x.dir == 2 && x.rowsc && x.fmt.isMx) && !(x.dir == 2 && j.sr && !srFmt x.fmt))

/-- A source operand is legal for an opcode (R372, R400). -/
def sourceOk (j : VJob) (opc o : Nat) : Bool :=
  o < 8 || (8 ≤ o && o < 12 && (j.stream o).dir == 1) || (12 ≤ o && o < 20)
    || (o == 0x14 && !(0x18 ≤ opc && opc ≤ 0x1A))

/-- A destination is legal (R371, R384, R400). -/
def destOk (j : VJob) (i : VInstr) : Bool :=
  let x := j.stream i.d
  let str := 8 ≤ i.d && i.d < 12
  let buf := 12 ≤ i.d && i.d < 16
  if isCmp i.opc then i.d < 8 && i.d % 8 != 0
  else if isRed i.opc then buf || (str && x.dir == 2 && x.rowsc)
  else i.d < 8 || buf || (str && x.dir == 2 && !x.rowsc && (!x.fmt.isMx || (i.msk == 0 && !i.minv && j.cols % 32 == 0)))

/-- The parameters of `cvt`, `lut` and `shuf` (R380, R381, R393, R395). -/
def paramOk (j : VJob) (tables : SMap TableDesc) (i : VInstr) : Bool :=
  if i.opc = 0x18 then
    match fmtOf (bitsOf i.imm 0 4) with
    | none => false
    | some f => !(bitOf i.imm 4 || j.sr) || srFmt f
  else if i.opc = 0x19 then
    match SMap.find (bitsOf i.imm 0 4) tables with
    | none => false
    | some t => i.imm / 64 == 0 && bitsOf i.imm 4 2 != 3 && (bitsOf i.imm 4 2 != 2 || 4 ≤ t.entries)
  else if i.opc = 0x1A then !j.pack && bitsOf i.imm 6 2 != 3
  else true

/-- The whole chain is legal. -/
def VJob.ok (j : VJob) (tables : SMap TableDesc) : Bool :=
  j.streams.all (·.ok j) && j.instrs.all fun i =>
    1 ≤ i.opc && i.opc ≤ 0x1D && [i.a, i.b, i.c].all (fun o => decide (o ≤ 0x14)) && i.sources.all (sourceOk j i.opc)
      && destOk j i && paramOk j tables i

/-! ### Running a chain (R366–R388) -/

/-- What a chain carries from group to group: its lane registers and masks, the group's and the row's elements of its input
streams, each reduction's value so far in the row with whether any lane was active, and the summary so far. -/
structure VRun where
  core : Core
  regs : List (List Val)
  masks : List Nat
  groupIn : List (List Val)
  rowIn : List Val
  red : SMap (Val × Bool)
  sum : PartSum
  deriving DecidableEq, Repr

/-- The summary of nothing. -/
def PartSum.zero : PartSum := { total := none, maxAbs := 0, nan := 0, inf := 0, sat := 0, mask := 0, anyRow := false }
def PartSum.addSat (x : PartSum) (n : Nat) : PartSum := { x with sat := x.sat + n }
/-- Count saturations. -/
def VRun.addSat (x : VRun) (n : Nat) : VRun := { x with sum := x.sum.addSat n }

/-- One element of an input stream as a lane value, with its saturation (R367). -/
def readElem (ts : Mem) (x : VStream) (lane : Fmt) (r c : Nat) : Val × Nat :=
  let base := x.addr + r * x.stride
  let w := if x.fmt.e2 = 1 then bitsOf (Mem.nat ts (base + c / 2) 1) (c % 2 * 4) 4 else
    elemWord x.fmt (Mem.read ts (base + colOff x.fmt c) 4) 0
  let v := decodeFmt x.fmt w
  let v := if x.fmt.isMx then scaled v (Mem.byte ts (x.scaleRow r + c / 32)).toNat else v
  let (o, n) := convert lane none v
  (decodeFmt lane o, n.sat)

/-- The chain uses stream `k` as a source. -/
def VJob.reads (j : VJob) (k : Nat) : Bool := j.instrs.any fun i => i.sources.contains (8 + k)

/-- The elements of input stream k for a group; lanes at or above COLS supply values that nothing states (`pad`). -/
def loadGroup (j : VJob) (ts : Mem) (pad : Nat → Nat) (r c0 k : Nat) : List Val × Nat :=
  let x := j.streams.getD k .none
  if x.dir != 1 || x.rowsc || !j.reads k then ([], 0)
  else
    let es := (List.range j.lanes).map fun l =>
      if c0 + l < j.cols then readElem ts x j.lane r (c0 + l)
      else (decodeFmt j.lane (pad (128 * k + l) % 2 ^ j.lane.bits), 0)
    (es.map (·.1), (es.map (·.2)).sum)

/-- A group begins (R367, R375): its elements are read and its masks set. -/
def beginGroup (j : VJob) (pad : Nat → Nat) (r c0 : Nat) (x : VRun) : VRun :=
  let ins := (List.range 4).map (loadGroup j x.core.ts pad r c0)
  let n := min j.lanes (j.cols - c0)
  let m0 := 2 ^ (if j.pack then (n + 1) / 2 else n) - 1
  { x.addSat (ins.map (·.2)).sum with groupIn := ins.map (·.1), masks := m0 :: List.replicate 7 (j.minit &&& m0) }

/-- A row begins: its broadcast elements are read. -/
def beginRow (j : VJob) (r : Nat) (x : VRun) : VRun :=
  let es := (List.range 4).map fun k =>
    let st := j.streams.getD k .none
    if st.dir == 1 && st.rowsc && j.reads k then readElem x.core.ts st j.lane r 0 else (.fin false 0 0, 0)
  { x.addSat (es.map (·.2)).sum with rowIn := es.map (·.1), red := [] }

/-- The bytes of element i of a tile buffer (R372). -/
def bufAddr (j : VJob) (k i : Nat) : Nat := if j.pack then 4096 * k + 2 * (i % 2048) else 4096 * k + 4 * (i % 1024)
def bufRead (j : VJob) (c : Core) (k i : Nat) : Val := decodeFmt j.lane (Mem.nat c.vec.buffers (bufAddr j k i) (j.lane.bits / 8))
def bufWrite (j : VJob) (k i : Nat) (v : Val) (c : Core) : Core :=
  { c with vec := { c.vec with
      buffers := Mem.write c.vec.buffers (bufAddr j k i) (leBytes (j.lane.bits / 8) (convert j.lane none v).1) } }

/-- The value of an operand in a lane of the group at column c0. -/
def operand (j : VJob) (x : VRun) (c0 imm o l : Nat) : Val :=
  if o < 8 then (x.regs.getD o []).getD l (.fin false 0 0)
  else if o < 12 then
    (if (j.stream o).rowsc then x.rowIn.getD (o - 8) (.fin false 0 0) else (x.groupIn.getD (o - 8) []).getD l (.fin false 0 0))
  else if o < 16 then bufRead j x.core (o - 12) (c0 + l)
  else if o < 20 then f32Val (j.consts.getD (o - 16) 0)
  else f32Val imm

/-- The mask bit of an element's lane. -/
def laneBit (j : VJob) (m l : Nat) : Bool := bitOf m (if j.pack then l / 2 else l)
/-- The active lanes of an instruction (R375). -/
def activeMask (x : VRun) (i : VInstr) : Nat :=
  let m0 := x.masks.getD 0 0
  let mk := x.masks.getD i.msk 0
  if i.minv then m0 ^^^ (mk &&& m0) else mk &&& m0

/-- `min` and `max` (R382). -/
def minMax (lo : Bool) (a b : Val) : Val :=
  if a.isNan || b.isNan then .nan
  else if a.isZero && b.isZero then .fin (if lo then a.neg? || b.neg? else a.neg? && b.neg?) 0 0
  else if lo then (if a.lt b then a else b) else if b.lt a then a else b

/-- The comparisons (R376, R382). -/
def vCompare (opc : Nat) (a b : Val) : Bool :=
  if opc = 0x14 then a.eqv b
  else if opc = 0x15 then a.lt b
  else if opc = 0x16 then a.lt b || a.eqv b
  else a.isNan || b.isNan

/-- The element-wise operations, rounded once to the lane format (R376–R378, R382). -/
def alu (f : Fmt) (opc : Nat) (a b c : Val) : Val :=
  match opc with
  | 0x01 => roundIeee f a
  | 0x02 => roundIeee f (a.add b)
  | 0x03 => roundIeee f (a.add b.negate)
  | 0x04 => roundIeee f (a.mul b)
  | 0x05 => roundIeee f ((a.mul b).add c)
  | 0x06 => roundIeee f (a.div b)
  | 0x07 => roundIeee f ((Val.fin false 1 0).div a)
  | 0x08 => roundIeee f a.root
  | 0x09 => roundIeee f a.rroot
  | 0x0A => a.exp f
  | 0x0B => a.exp2 f
  | 0x0C => a.log f
  | 0x0D => a.lg f
  | 0x0E => roundIeee f (minMax true a b)
  | 0x0F => roundIeee f (minMax false a b)
  | 0x10 => roundIeee f (if a.neg? then a.negate else a)
  | 0x11 => roundIeee f a.negate
  | _ => roundIeee f (minMax true (minMax false a b) c)

/-! Table look-up (R393, R394). -/

/-- FP32 operations of `lut`. -/
def fAdd (a b : Val) : Val := roundIeee .fp32 (a.add b)
def fSub (a b : Val) : Val := roundIeee .fp32 (a.add b.negate)
def fMul (a b : Val) : Val := roundIeee .fp32 (a.mul b)
def fFma (a b c : Val) : Val := roundIeee .fp32 ((a.mul b).add c)

/-- A small integer as a value. -/
def intVal (n : Nat) : Val := .fin false n 0

/-- The integer part of a non-negative value, rounded to nearest even or down. -/
def intOf (near : Bool) : Val → Nat
  | .fin _ m e => let (lo, rest, s) := gridSplit m e 0; if near then roundSteps none lo rest s else lo
  | _ => 0

/-- Cubic Hermite interpolation, each line left to right. -/
def cubic (f v0 d0 v1 d1 : Val) : Val :=
  let f2 := fMul f f
  let f3 := fMul f2 f
  let two := fun v => fMul (intVal 2) v
  let three := fun v => fMul (intVal 3) v
  let h00 := fAdd (fSub (two f3) (three f2)) (intVal 1)
  let h10 := fAdd (fSub f3 (two f2)) f
  let h01 := fSub (three f2) (two f3)
  let h11 := fSub f3 f2
  fAdd (fAdd (fAdd (fMul h00 v0) (fMul h10 d0)) (fMul h01 v1)) (fMul h11 d1)

/-- `lut` of one value. -/
def lookUp (t : TableDesc) (mem : Mem) (mode : Nat) (x : Val) : Val :=
  let a := f32Val t.a.toNat
  let u := if a.isZero then f32Val t.b.toNat else fFma a x (f32Val t.b.toNat)
  if u.isNan || x.isNan then .nan
  else
    let n := if mode = 2 then t.entries / 2 else t.entries
    let u := minMax true (minMax false u (intVal 0)) (intVal (n - 1))
    let ent := fun i => f32Val (Mem.nat mem (4 * (t.base + i)) 4)
    if mode = 0 then ent (intOf true u)
    else
      let i := min (intOf false u) (n - 2)
      let f := u.add (intVal i).negate
      if mode = 1 then fFma f (fSub (ent (i + 1)) (ent i)) (ent i)
      else cubic f (ent (2 * i)) (ent (2 * i + 1)) (ent (2 * i + 2)) (ent (2 * i + 3))

/-! One instruction over one group. -/

/-- The random word of element (r, c) (R315, R368). -/
def vRandom (j : VJob) (seed step r c : Nat) : Nat := philox seed step j.tensor (j.row0 + r) (j.col0 + c)

/-- Write an element word into tile store at column c of a row. -/
def putElem (f : Fmt) (base c w : Nat) (x : Core) : Core :=
  if f.e2 = 1 then
    let old := Mem.nat x.ts (base + c / 2) 1
    x.tsWrite (base + c / 2) (leBytes 1 (if c % 2 = 0 then old / 16 * 16 + w else old % 16 + 16 * w))
  else x.tsWrite (base + colOff f c) (leBytes (f.e2 / 2) w)

/-- An output stream takes the values of a group's active lanes (R366, R368): it converts each of them, MX blocks whole, and
a later value of the group replaces an earlier one (R369). -/
def putStream (j : VJob) (seed step r c0 k : Nat) (rs : List (Option Val)) (x : VRun) : VRun :=
  let st := j.streams.getD k .none
  let base := st.addr + r * st.stride
  if st.fmt.isMx then
    (List.range (ceilDiv (min j.lanes (j.cols - c0)) 32)).foldl (fun x b =>
      let c := c0 + 32 * b
      let (es, e, n) := toMx st.fmt ((List.range 32).map fun l => (rs.getD (32 * b + l) none).getD (.fin false 0 0))
      let core := es.zipIdx.foldl (fun y (w, l) => putElem st.fmt base (c + l) w y) x.core
      { x.addSat n.sat with core := core.tsWrite (st.scaleRow r + c / 32) (leBytes 1 e) }) x
  else
    rs.zipIdx.foldl (fun x (v, l) => match v with
      | none => x
      | some v =>
        let (w, n) := convert st.fmt (if j.sr then some (vRandom j seed step r (c0 + l)) else none) v
        { x.addSat n.sat with core := putElem st.fmt base (c0 + l) w x.core }) x

/-- Write the results of active lanes to a destination. -/
def writeLanes (j : VJob) (i : VInstr) (seed step r c0 : Nat) (rs : List (Option Val)) (x : VRun) : VRun :=
  if i.d < 8 then
    let old := x.regs.getD i.d []
    { x with regs := x.regs.set i.d (rs.zipIdx.map fun (r, l) => r.getD (old.getD l (.fin false 0 0))) }
  else if i.d < 12 then putStream j seed step r c0 (i.d - 8) rs x
  else
    { x with core := rs.zipIdx.foldl (fun c (r, l) => match r with
        | some v => bufWrite j (i.d - 12) (c0 + l) v c
        | none => c) x.core }

/-- Lanes of a mask as MASK_COUNT counts them: each packed lane twice (R401). -/
def laneCount (j : VJob) (m : Nat) : Nat :=
  ((List.range 64).filter (bitOf m)).length * if j.pack then 2 else 1

/-- A compare writes its mask (R379). -/
def runCompare (j : VJob) (i : VInstr) (c0 : Nat) (last : Bool) (x : VRun) : VRun :=
  let act := activeMask x i
  let hit := fun l => vCompare i.opc (operand j x c0 i.imm i.a l) (operand j x c0 i.imm i.b l)
  let bit := fun k => bitOf act k && (if j.pack then hit (2 * k) && hit (2 * k + 1) else hit k)
  let m := ((List.range 64).map fun k => if bit k then 2 ^ k else 0).sum
  { x with masks := x.masks.set (i.d % 8) m, sum := if last then { x.sum with mask := x.sum.mask + laneCount j act } else x.sum }

/-- The results of `cvt`, with its saturations and the NaN it made numbers (R380). -/
def runCvt (j : VJob) (i : VInstr) (seed step r c0 n : Nat) (on : Nat → Bool) (vals : List Val) :
    List (Option Val) × Nat × Nat :=
  let f := (fmtOf (bitsOf i.imm 0 4)).getD .fp32
  if f.isMx then
    let blocks := (List.range (ceilDiv n 32)).map fun k => toMx f ((vals.take n).drop (32 * k) |>.take 32)
    let rs := (List.range j.lanes).map fun l =>
      if l < n && on l then
        let b := blocks.getD (l / 32) ([], 0, .zero)
        some (roundIeee j.lane (scaled (decodeFmt f (b.1.getD (l % 32) 0)) b.2.1))
      else none
    (rs, (blocks.map fun b => b.2.2.sat).sum, 0)
  else
    let rs := (List.range j.lanes).map fun l =>
      if l < n && on l then
        let v := vals.getD l .nan
        let sr := if bitOf i.imm 4 || j.sr then some (vRandom j seed step r (c0 + l)) else none
        let (w, k) := convert f sr v
        some (roundIeee j.lane (decodeFmt f w), k.sat, b2n (v.isNan && !(decodeFmt f w).isNan))
      else none
    (rs.map (·.map (·.1)), (rs.map fun o => (o.map (·.2.1)).getD 0).sum, (rs.map fun o => (o.map (·.2.2)).getD 0).sum)

/-- The results of every instruction that is neither a compare nor a reduction, for the lanes of a group. -/
def laneResults (j : VJob) (i : VInstr) (seed step r c0 : Nat) (x : VRun) : List (Option Val) × Nat × Nat :=
  let n := min j.lanes (j.cols - c0)
  let act := activeMask x i
  let on := fun l => laneBit j act l
  let val := fun o l => operand j x c0 i.imm o l
  let each := fun (g : Nat → Val) =>
    ((List.range j.lanes).map fun l => if l < n && on l then some (g l) else none, 0, 0)
  if i.opc = 0x13 then
    let mk := x.masks.getD i.msk 0
    ((List.range j.lanes).map fun l =>
      if l < n then some (roundIeee j.lane (if laneBit j mk l != i.minv then val i.a l else val i.b l)) else none, 0, 0)
  else if i.opc = 0x18 then runCvt j i seed step r c0 n on ((List.range j.lanes).map (val i.a))
  else if i.opc = 0x19 then
    match SMap.find (bitsOf i.imm 0 4) x.core.vec.tables with
    | none => each fun _ => .nan
    | some t => each fun l => roundIeee j.lane (lookUp t x.core.vec.tableMem (bitsOf i.imm 4 2) (val i.a l))
  else if i.opc = 0x1A then
    let k := bitsOf i.imm 0 6
    each fun l => roundIeee j.lane (val i.a (match bitsOf i.imm 6 2 with
      | 0 => k
      | 1 => (l + k) % 64
      | _ => l ^^^ k))
  else each fun l => alu j.lane i.opc (val i.a l) (val i.b l) (val i.c l)

/-- One level of the pairwise tree. -/
def pairUp (g : Val → Val → Val × Nat) : List Val → List Val × Nat
  | a :: b :: rest => let (v, n) := g a b; let (l, m) := pairUp g rest; (v :: l, n + m)
  | l => (l, 0)

/-- The fixed pairwise tree (R385): k levels. -/
def treeFold (g : Val → Val → Val × Nat) : Nat → List Val → Val × Nat
  | 0, l => (l.headD (.fin true 0 0), 0)
  | k + 1, l => let (l', n) := pairUp g l; let (v, m) := treeFold g k l'; (v, n + m)

/-- The FP32 accumulator addition on values, with its saturation (R386). -/
def sumStep (a b : Val) : Val × Nat := let r := accAdd32 (toF32 a).1 (toF32 b).1; (f32Val r.w, b2n r.sat)

/-- How a reduction combines two values, rounded to the lane format but for `rsum` (R377, R386), its identity and its empty
row (R385, R387). -/
def redStep (f : Fmt) (opc : Nat) : Val → Val → Val × Nat :=
  if opc = 0x1B then sumStep else fun a b => (roundIeee f (minMax (opc == 0x1D) a b), 0)
def redIdentity (opc : Nat) : Val := if opc = 0x1B then .fin true 0 0 else .inf (opc == 0x1C)
def redEmpty (opc : Nat) : Val := if opc = 0x1B then .fin false 0 0 else .inf (opc == 0x1C)

/-- A group of final values joins the summary (R401): its lanes combine in the tree of R385, and its sum is added to that of
the groups before it. -/
def PartSum.addGroup (levels : Nat) (rs : List (Option Val)) (x : PartSum) : PartSum :=
  let vals := rs.filterMap id
  let mag := fun v : Val => if v.neg? then v.negate else v
  let big := (vals.filter fun v => !v.isNan).foldl (fun a v => minMax false a (mag v)) (f32Val x.maxAbs)
  let g := (treeFold sumStep levels ((List.range (2 ^ levels)).map fun l => (rs.getD l none).getD (.fin true 0 0))).1
  { x with
    total := if vals.isEmpty then x.total else match x.total with
      | none => some (toF32 g).1
      | some t => some (toF32 (sumStep (f32Val t) g).1).1
    maxAbs := (convert .fp32 none big).1
    nan := x.nan + (vals.filter Val.isNan).length
    inf := x.inf + (vals.filter Val.isInf).length }

/-- The last instruction's results are final values (R401); `act` is its active lanes, all of m0 for `sel`. -/
def keepFinals (j : VJob) (last : Bool) (act : Nat) (rs : List (Option Val)) (x : VRun) : VRun :=
  if last then
    let y := x.sum.addGroup (if j.pack then 7 else 6) rs
    { x with sum := { y with mask := y.mask + laneCount j act } }
  else x

/-- A row's reduction value leaves for its destination (R384). -/
def putRow (j : VJob) (i : VInstr) (seed step r : Nat) (v : Val) (x : VRun) : VRun :=
  if 12 ≤ i.d then { x with core := bufWrite j (i.d - 12) r v x.core }
  else
    let st := j.stream i.d
    let (w, n) := convert st.fmt (if j.sr then some (vRandom j seed step r 0) else none) v
    { x.addSat n.sat with core := putElem st.fmt (st.addr + r * st.stride) 0 w x.core }

/-- A reduction takes a group; at the row's last group its value is done (R384–R388). -/
def runReduce (j : VJob) (k : Nat) (i : VInstr) (seed step r c0 : Nat) (last : Bool) (x : VRun) : VRun :=
  let act := activeMask x i
  let n := min j.lanes (j.cols - c0)
  let leaves := (List.range j.lanes).map fun l =>
    if l < n && laneBit j act l then operand j x c0 i.imm i.a l else redIdentity i.opc
  let (g, s1) := treeFold (redStep j.lane i.opc) (if j.pack then 7 else 6) leaves
  let any := act != 0
  let (v, any, s2) := match SMap.find k x.red with
    | none => (g, any, 0)
    | some (p, q) => let (v, s) := redStep j.lane i.opc p g; (v, any || q, s)
  let x := { x.addSat (s1 + s2) with red := SMap.set k (v, any) x.red }
  if j.cols ≤ c0 + j.lanes then
    let v := if any then v else redEmpty i.opc
    let x := putRow j i seed step r v x
    if last then
      let y := x.sum.addGroup (if j.pack then 7 else 6) [some v]
      { x with sum := { y with mask := y.mask + 1, anyRow := y.anyRow || any } }
    else x
  else x

/-- One instruction over one group. -/
def runInstr (j : VJob) (seed step r c0 k : Nat) (i : VInstr) (x : VRun) : VRun :=
  let last := k + 1 == j.instrs.length
  if isCmp i.opc then runCompare j i c0 last x
  else if isRed i.opc then runReduce j k i seed step r c0 last x
  else
    let (rs, sat, nan) := laneResults j i seed step r c0 x
    let act := if i.opc = 0x13 then x.masks.getD 0 0 else activeMask x i
    keepFinals j last act rs (writeLanes j i seed step r c0 rs
      { x with sum := { x.sum with sat := x.sum.sat + sat, nan := x.sum.nan + nan } })

/-- One group of a row. -/
def runGroup (j : VJob) (seed step : Nat) (pad : Nat → Nat) (r g : Nat) (x : VRun) : VRun :=
  let c0 := g * j.lanes
  let x := beginGroup j (fun i => pad (512 * (r * ceilDiv j.cols j.lanes + g) + i)) r c0 x
  j.instrs.zipIdx.foldl (fun x (i, k) => runInstr j seed step r c0 k i x) x

/-! Stop points (R404). -/

/-- Groups of a row. -/
def VJob.groups (j : VJob) : Nat := ceilDiv j.cols j.lanes
/-- Pieces of a row between stop points: 16 groups each. -/
def VJob.rowPieces (j : VJob) : Nat := ceilDiv j.groups 16
/-- Pieces of a chain between its stop points. -/
def VJob.points (j : VJob) : Nat := j.rows * j.rowPieces

/-- One piece of a chain: up to 16 groups of a row. -/
def runVxPiece (j : VJob) (seed step : Nat) (pad : Nat → Nat) (i : Nat) (x : VRun) : VRun :=
  let r := i / j.rowPieces
  let k := i % j.rowPieces
  let x := if k = 0 then beginRow j r x else x
  (List.range (min 16 (j.groups - 16 * k))).foldl (fun x g => runGroup j seed step pad r (16 * k + g) x) x

/-- A chain starts: every lane register is 0 (R373). -/
def startChain (j : VJob) (c : Core) : VRun :=
  { core := c, regs := List.replicate 8 (List.replicate j.lanes (Val.fin false 0 0)), masks := [], groupIn := [], rowIn := [],
    red := [], sum := .zero }

/-- A stopped chain goes on with what its core holds (R404). -/
def resumeChain (j : VJob) (c : Core) : VRun :=
  let n := j.lane.bits / 8
  let h := c.vec.held.getD { red := [], rowIn := [], sum := .zero }
  { core := c
    regs := (List.range 8).map fun k => (List.range j.lanes).map fun l =>
      decodeFmt j.lane (Mem.nat c.vec.lanes ((k * j.lanes + l) * n) n)
    masks := (List.range 8).map fun k => SMap.get 0 k c.vec.masks
    groupIn := [], rowIn := h.rowIn.map f32Val, red := h.red.map fun e => (e.1, f32Val e.2.1, e.2.2), sum := h.sum }

/-- The lane registers and masks as a chain leaves them. -/
def storeLanes (j : VJob) (x : VRun) : Core :=
  let n := j.lane.bits / 8
  let bytes := x.regs.flatMap fun l => l.flatMap fun v => leBytes n (convert j.lane none v).1
  { x.core with vec := { x.core.vec with
      lanes := Mem.write [] 0 bytes
      masks := x.masks.zipIdx.foldl (fun m (w, k) => SMap.put 0 k w m) []
      held := none } }

/-- What a chain that stops leaves in its core (R404). -/
def holdChain (j : VJob) (x : VRun) : Core :=
  let c := storeLanes j x
  let h : VecHeld := { red := x.red.map fun e => (e.1, (toF32 e.2.1).1, e.2.2), rowIn := x.rowIn.map fun v => (toF32 v).1, sum := x.sum }
  { c with vec := { c.vec with held := some h } }

/-- The chain over the pieces `i` to `k - 1`. -/
def runChain (j : VJob) (seed step : Nat) (pad : Nat → Nat) (i k : Nat) (c : Core) : VRun :=
  (List.range (k - i)).foldl (fun x n => runVxPiece j seed step pad (i + n) x) (if i = 0 then startChain j c else resumeChain j c)

/-! ### The summary (R212, R216, R401, R402) -/

/-- A finished summary. -/
def PartSum.done (unit index : Nat) (x : PartSum) : Summary :=
  { unit := unit, index := index, sum := BitVec.ofNat 32 (x.total.getD 0), maxAbs := BitVec.ofNat 32 x.maxAbs,
    nanCount := x.nan, infCount := x.inf, satCount := x.sat, maskCount := x.mask, emptyRows := 0 }

/-- A chain's MASK_COUNT: that of an `rsum` none of whose rows has an active lane is 0 (R356, R401, assumption 100). -/
def chainSum (j : VJob) (x : PartSum) : PartSum :=
  match j.instrs.getLast? with
  | some i => if i.opc = 0x1B && !x.anyRow then { x with mask := 0 } else x
  | none => x

/-- An empty summary (R402). -/
def noSummary (unit index : Nat) : Summary :=
  { unit := unit, index := index, sum := 0, maxAbs := 0, nanCount := 0, infCount := 0, satCount := 0, maskCount := 0,
    emptyRows := 0 }

/-- A core holds the last 16 summaries (R216). -/
def leaveSummary (core : Nat) (x : Summary) (s : Block) : Block :=
  s.modCore core (·.modQ fun q => { q with summaries := (q.summaries ++ [x]).drop (q.summaries.length + 1 - 16) })

/-- A summary formed from values that are unpredictable (R405, R401), with the MASK_COUNT and EMPTY_ROW_COUNT that do not
depend on them. -/
def freeSummary (core unit index : Nat) (mask empty : Option Nat) (s : Block) : Block :=
  let (ws, s) := freeWords 7 s
  leaveSummary core
    { unit := unit, index := index, sum := BitVec.ofNat 32 (ws.getD 0 0), maxAbs := BitVec.ofNat 32 (ws.getD 1 0),
      nanCount := ws.getD 2 0, infCount := ws.getD 3 0, satCount := ws.getD 4 0, maskCount := mask.getD (ws.getD 5 0),
      emptyRows := empty.getD (ws.getD 6 0) } s

/-! ### Commands -/

/-- The chain a command runs. -/
def jobOf (c : Cmd) (ts : Mem) : VJob := if c.code = 1 then runJob ts c.block else opJob c.code c.block

/-- The chain names stream `k` as an operand. -/
def VJob.names (j : VJob) (k : Nat) : Bool := j.instrs.any fun i => i.sources.contains (8 + k) || i.d == 8 + k

/-- The tile-store ranges of a job: those of the streams that it uses. -/
def VJob.ranges (j : VJob) : List (Nat × Nat) :=
  (j.streams.zipIdx.filter fun x => j.names x.2).flatMap fun x => x.1.ranges j.rows j.cols

/-- The other SRAM a job uses: tile buffers and tables (R405, R1018). -/
def VJob.sram (j : VJob) (tables : SMap TableDesc) : List (Nat × Nat) :=
  j.instrs.flatMap fun i =>
    ((i.sources ++ [i.d]).filter fun o => 12 ≤ o && o < 16).map (fun o => (0xB0000 + 4096 * (o - 12), 4096))
      ++ (if i.opc = 0x19 then
            match SMap.find (bitsOf i.imm 0 4) tables with
            | some t => [(0xB4000 + 4 * t.base, 4 * t.entries)]
            | none => []
          else [])

/-- The chain has a compare, so that what its masks leave active depends on values. -/
def VJob.compares (j : VJob) : Bool := j.instrs.any fun i => isCmp i.opc

/-- The lanes of a group of `n` columns that an instruction of a chain without compares leaves active. -/
def VJob.fixedMask (j : VJob) (i : VInstr) (n : Nat) : Nat :=
  let m0 := 2 ^ (if j.pack then (n + 1) / 2 else n) - 1
  let mk := if i.msk = 0 then m0 else j.minit &&& m0
  if i.opc = 0x13 then m0 else if i.minv then m0 ^^^ (mk &&& m0) else mk &&& m0

/-- The columns from which the groups of a row start, with the columns each holds. -/
def VJob.groupCols (j : VJob) : List (Nat × Nat) :=
  (List.range j.groups).map fun g => (g * j.lanes, min j.lanes (j.cols - g * j.lanes))

/-- The MASK_COUNT of a chain whose values are unpredictable, where its masks do not depend on them. -/
def VJob.maskCount (j : VJob) : Option Nat :=
  match j.instrs.getLast? with
  | none => some 0
  | some i =>
    if j.compares then (if isRed i.opc && i.opc ≠ 0x1B then some j.rows else none)
    else
      let lanes := j.rows * (j.groupCols.map fun g => laneCount j (j.fixedMask i g.2)).sum
      if isRed i.opc then some (if i.opc = 0x1B && lanes == 0 then 0 else j.rows) else some lanes

/-- Where a chain writes a result: an element of an output stream, an MX scale, or an element of a tile buffer. `sure` tells
that it would have been written; where a mask depends on values, that is as free as the value. -/
inductive VCell where
  | elem (k r c : Nat) (sure : Bool)
  | scale (k r b : Nat)
  | buf (k i : Nat) (sure : Bool)
  deriving DecidableEq, Repr

/-- The results that one instruction writes. -/
def VJob.cellsOf (j : VJob) (i : VInstr) : List VCell :=
  let cell := fun (r c : Nat) (sure : Bool) => if 12 ≤ i.d then VCell.buf (i.d - 12) c sure else .elem (i.d - 8) r c sure
  if isCmp i.opc || i.d < 8 then []
  else if isRed i.opc then (List.range j.rows).map fun r => if 12 ≤ i.d then .buf (i.d - 12) r true else .elem (i.d - 8) r 0 true
  else
    let sure := !j.compares || i.msk == 0 || i.opc == 0x13
    (List.range j.rows).flatMap fun r => j.groupCols.flatMap fun g =>
      ((List.range g.2).filter fun l => !sure || laneBit j (j.fixedMask i g.2) l).map (fun l => cell r (g.1 + l) sure)
        ++ (if i.d < 12 && (j.stream i.d).fmt.isMx then (List.range (ceilDiv g.2 32)).map fun b => .scale (i.d - 8) r (g.1 / 32 + b) else [])

/-- A result takes an unpredictable value of its format. -/
def VCell.free (j : VJob) (w : Nat) (y : Core) : VCell → Core
  | .elem k r c sure =>
    let x := j.streams.getD k .none
    if sure || bitOf w 40 then putElem x.fmt (x.addr + r * x.stride) c (w % 2 ^ x.fmt.bits) y else y
  | .scale k r b => y.tsWrite ((j.streams.getD k .none).scaleRow r + b) (leBytes 1 w)
  | .buf k i sure => if sure || bitOf w 40 then bufWrite j k i (decodeFmt j.lane (w % 2 ^ j.lane.bits)) y else y

/-- Every result that a chain would have written takes an unpredictable value of its format (R405). -/
def scrambleOutputs (core : Nat) (j : VJob) (s : Block) : Block :=
  let cells := j.instrs.flatMap j.cellsOf
  let (ws, s) := freeWords cells.length s
  s.modCore core fun y => (cells.zip ws).foldl (fun y p => p.1.free j p.2 y) y

/-- `vx.run` and the single operations do their work, from their last stop point; a chain in a stream chamber is not read
(R427). -/
def runVx (c : Cmd) (limit : Option Nat) (s : Block) : Work :=
  let k := s.core c.core
  let chain := if c.code = 1 then [(fld c.block 0x18 4, 64 + 8 * fld c.block 0x30 1)] else []
  if chamberHeld s c.core chain then .notYet s
  else
    let j := jobOf c k.ts
    match k.badRanges chain with
    | some w =>
      .done .eccUncorrectable (engineEvent c.core .eccUncorrectable 0 (freeSummary c.core 4 c.index none (some 0) (eccSram c.core w false s)))
    | none =>
      if !j.ok k.vec.tables then .done .internal s
      else if chamberHeld s c.core j.ranges || (limit.isSome && c.code ≠ 1) || noPoint limit c.pos j.points then .notYet s
      else
        match k.badRanges (j.ranges ++ j.sram k.vec.tables) with
        | some w =>
          .done .eccUncorrectable (engineEvent c.core .eccUncorrectable 0
            (freeSummary c.core 4 c.index j.maskCount (some 0) (scrambleOutputs c.core j (eccSram c.core w false s))))
        | none =>
          let n := runTo limit c.pos j.points
          let x := runChain j k.seed.toNat c.step.toNat (fun i => Config.freeNat (s.freeCtr + i)) c.pos n k
          let s := { s with freeCtr := s.freeCtr + 512 * j.rows * j.groups }
          match limit with
          | some _ => .point n [] (s.setCore c.core (holdChain j x))
          | none => .done .ok (leaveSummary c.core ((chainSum j x.sum).done 4 c.index) (s.setCore c.core (storeLanes j x)))

/-! `vx.comb` (R396, R397). -/

def combKind (b : List Byte) : AccKind := match fld b 0x28 1 with
  | 1 => .comp
  | 2 => .int32
  | _ => .fp32

def combRanges (b : List Byte) : List (Nat × Nat) :=
  let n := (combKind b).bytes * fld b 0x24 4
  [(fld b 0x18 4, n), (fld b 0x1C 4, n), (fld b 0x20 4, n)]

/-- The value a word of a kind gives the summary (R401). -/
def combVal (k : AccKind) (w : Nat) : Val := if k = .comp then f32Val (pairS w) else k.val w

def runComb (c : Cmd) (s : Block) : Work :=
  let b := c.block
  let k := combKind b
  let n := fld b 0x24 4
  let core := s.core c.core
  if chamberHeld s c.core (combRanges b) then .notYet s
  else
    match core.badRanges (combRanges b) with
    | some w =>
      let outs := (List.range n).map fun i => fld b 0x20 4 + k.bytes * i
      .done .eccUncorrectable (engineEvent c.core .eccUncorrectable 0
        (freeSummary c.core 4 c.index (some n) (some 0) (scrambleTile c.core outs k.bytes (eccSram c.core w false s))))
    | none =>
      let (core, rs) := (List.range n).foldl (fun (acc : Core × List Summed) i =>
        let at_ := fun off => Mem.nat acc.1.ts (fld b off 4 + k.bytes * i) k.bytes
        let r := k.add (at_ 0x18) (at_ 0x1C)
        (acc.1.tsWrite (fld b 0x20 4 + k.bytes * i) (leBytes k.bytes r.w), acc.2 ++ [r])) (core, [])
      let vals := rs.map fun r => some (combVal k r.w)
      let groups := (List.range (ceilDiv n 64)).map fun g => (vals.drop (64 * g)).take 64
      let x := groups.foldl (fun (x : PartSum) g => x.addGroup 6 g) { PartSum.zero with sat := (rs.filter (·.sat)).length, mask := n }
      .done .ok (leaveSummary c.core (x.done 4 c.index) (s.setCore c.core core))

/-- `vx.tload` (R389–R391). -/
def runTload (c : Cmd) (s : Block) : Work :=
  let b := c.block
  let src := fld b 0x18 4
  let n := fld b 0x26 2
  let range := if src = noAddr then [] else [(src, 4 * n)]
  if chamberHeld s c.core range then .notYet s
  else
    match (s.core c.core).badRanges range with
    | some w =>
      let (ws, s) := freeWords n (eccSram c.core w false s)
      .done .eccUncorrectable (engineEvent c.core .eccUncorrectable 0 (leaveSummary c.core (noSummary 4 c.index) (s.modCore c.core fun x =>
        { x with vec := { x.vec with tableMem := Mem.write x.vec.tableMem (4 * fld b 0x24 2) (ws.flatMap (leBytes 4)) } })))
    | none =>
      .done .ok (leaveSummary c.core (noSummary 4 c.index) (s.modCore c.core fun x =>
        let mem := if src = noAddr then x.vec.tableMem
          else Mem.write x.vec.tableMem (4 * fld b 0x24 2) (Mem.read x.ts src (4 * n))
        let desc : TableDesc := { base := fld b 0x24 2, entries := n, a := BitVec.ofNat 32 (fld b 0x1C 4), b := BitVec.ofNat 32 (fld b 0x20 4) }
        { x with vec := { x.vec with tableMem := mem, tables := SMap.set (fld b 0x28 1) desc x.vec.tables } }))

/-- A vector command does its work. Chains alone have stop points (R404). -/
def runVector (c : Cmd) (limit : Option Nat) (s : Block) : Work :=
  if limit.isSome && 3 ≤ c.code && c.code ≤ 5 then .notYet s
  else if c.code = 3 then
    .done .ok (leaveSummary c.core (noSummary 4 c.index)
      (s.modCore c.core fun x => { x with step := BitVec.ofNat 32 (c.fld 0x18 4) }))
  else if c.code = 4 then runTload c s
  else if c.code = 5 then runComb c s
  else runVx c limit s

/-- The block checks of a vector command at entry (R391, R396, R398–R400). Vector commands are never heavy (R362). -/
def vxEntry (code : Nat) (b : List Byte) : Entry :=
  if code = 1 then .when (runBlockOk b) .light
  else if code = 3 then .when (allZero b 0x1C 36) .light
  else if code = 4 then
    let n := fld b 0x26 2
    .when (allZero b 0x29 23 && fld b 0x24 2 ≤ 4094 && (2 ≤ n && n ≤ 4096) && fld b 0x28 1 ≤ 15 && fld b 0x24 2 + n ≤ 4096
      && (fld b 0x18 4 == noAddr || inTile (fld b 0x18 4) (4 * n))) .light
  else if code = 5 then
    .when (allZero b 0x29 23 && fld b 0x28 1 ≤ 2 && (1 ≤ fld b 0x24 4 && fld b 0x24 4 ≤ 131072) && rangesOk (combRanges b))
      .light
  else .when (opBlockOk code b && (opJob code b).streams.all (·.ok (opJob code b))) .light

/-- The issue of a vector command. -/
def issueVx (th : Nat) (d a : Reg) (pk : Pred) (code : Nat) (s : Block) : BlockResult :=
  issueEng th d a pk 4 code (fun _ b => vxEntry code b) s

/-- `vx.sum` (R211–R217): it takes no place in the queue; the thread is WAITING until the named command has
completed. -/
def sumWord (th : Nat) (d a : Reg) (pk : Pred) (s : Block) : Block :=
  let core := th / 16
  match queueOf core 4 with
  | none => takeTrap th .illegalOp .ok 0 s
  | some _ =>
    match blockTrap th (s.g th a) with
    | some cause => takeTrap th cause .ok 0 s
    | none =>
      match readBlock th (s.g th a) s with
      | (none, s) => s
      | (some b, s) =>
        let fail := fun s : Block => s.modThread th fun t => ((t.setG d 0).setP pk false).next 4
        let unit := fld b 0x18 2 / 4096
        if !headerOk b 4 2 || !allZero b 0x1B 37 || (unit != 4 && unit != 6) then fail s
        else
          match ticketIs s core (fld b 0x18 2) with
          | .waiting index => waitFor th (.sum unit index (fld b 0x1A 1) d.toNat pk.toNat) s
          | .done _ =>
            let n := (s.core core).entered unit
            let index := n - 1 - (n + 4096 - 1 - fld b 0x18 2 % 4096 + 4096 * (n + 1)) % 4096
            s.modThread th fun t => (answerSum (s.core core) unit index (fld b 0x1A 1) d.toNat pk.toNat t).next 4
          | _ => fail s

def execVxRun (th : Nat) (d a : Reg) (w : EngCode) (s : State) : Result := onBlock s fun s =>
  issueFirst th d a w.pk 4 1 w.code (issueVx th d a w.pk 1) s
def execVxSum (th : Nat) (d a : Reg) (pk : Pred) (s : State) : Result := onBlock s fun s => issueP th [pk] s (sumWord th d a pk)
def execVxStep (th : Nat) (d a : Reg) (pk : Pred) (s : State) : Result := onBlock s fun s => issueVx th d a pk 3 s
def execVxTload (th : Nat) (d a : Reg) (pk : Pred) (s : State) : Result := onBlock s fun s => issueVx th d a pk 4 s
def execVxComb (th : Nat) (d a : Reg) (pk : Pred) (s : State) : Result := onBlock s fun s => issueVx th d a pk 5 s
def execVxMov (th : Nat) (d a : Reg) (pk : Pred) (s : State) : Result := onBlock s fun s => issueVx th d a pk 0x41 s
def execVxAdd (th : Nat) (d a : Reg) (pk : Pred) (s : State) : Result := onBlock s fun s => issueVx th d a pk 0x42 s
def execVxSub (th : Nat) (d a : Reg) (pk : Pred) (s : State) : Result := onBlock s fun s => issueVx th d a pk 0x43 s
def execVxMul (th : Nat) (d a : Reg) (pk : Pred) (s : State) : Result := onBlock s fun s => issueVx th d a pk 0x44 s
def execVxFma (th : Nat) (d a : Reg) (pk : Pred) (s : State) : Result := onBlock s fun s => issueVx th d a pk 0x45 s
def execVxDiv (th : Nat) (d a : Reg) (pk : Pred) (s : State) : Result := onBlock s fun s => issueVx th d a pk 0x46 s
def execVxRecip (th : Nat) (d a : Reg) (pk : Pred) (s : State) : Result := onBlock s fun s => issueVx th d a pk 0x47 s
def execVxSqrt (th : Nat) (d a : Reg) (pk : Pred) (s : State) : Result := onBlock s fun s => issueVx th d a pk 0x48 s
def execVxRsqrt (th : Nat) (d a : Reg) (pk : Pred) (s : State) : Result := onBlock s fun s => issueVx th d a pk 0x49 s
def execVxExp (th : Nat) (d a : Reg) (pk : Pred) (s : State) : Result := onBlock s fun s => issueVx th d a pk 0x4A s
def execVxExp2 (th : Nat) (d a : Reg) (pk : Pred) (s : State) : Result := onBlock s fun s => issueVx th d a pk 0x4B s
def execVxLog (th : Nat) (d a : Reg) (pk : Pred) (s : State) : Result := onBlock s fun s => issueVx th d a pk 0x4C s
def execVxLog2 (th : Nat) (d a : Reg) (pk : Pred) (s : State) : Result := onBlock s fun s => issueVx th d a pk 0x4D s
def execVxMin (th : Nat) (d a : Reg) (pk : Pred) (s : State) : Result := onBlock s fun s => issueVx th d a pk 0x4E s
def execVxMax (th : Nat) (d a : Reg) (pk : Pred) (s : State) : Result := onBlock s fun s => issueVx th d a pk 0x4F s
def execVxAbs (th : Nat) (d a : Reg) (pk : Pred) (s : State) : Result := onBlock s fun s => issueVx th d a pk 0x50 s
def execVxNeg (th : Nat) (d a : Reg) (pk : Pred) (s : State) : Result := onBlock s fun s => issueVx th d a pk 0x51 s
def execVxClamp (th : Nat) (d a : Reg) (pk : Pred) (s : State) : Result := onBlock s fun s => issueVx th d a pk 0x52 s
def execVxCvt (th : Nat) (d a : Reg) (pk : Pred) (s : State) : Result := onBlock s fun s => issueVx th d a pk 0x58 s
def execVxLut (th : Nat) (d a : Reg) (pk : Pred) (s : State) : Result := onBlock s fun s => issueVx th d a pk 0x59 s
def execVxShuf (th : Nat) (d a : Reg) (pk : Pred) (s : State) : Result := onBlock s fun s => issueVx th d a pk 0x5A s
def execVxRsum (th : Nat) (d a : Reg) (pk : Pred) (s : State) : Result := onBlock s fun s => issueVx th d a pk 0x5B s
def execVxRmax (th : Nat) (d a : Reg) (pk : Pred) (s : State) : Result := onBlock s fun s => issueVx th d a pk 0x5C s
def execVxRmin (th : Nat) (d a : Reg) (pk : Pred) (s : State) : Result := onBlock s fun s => issueVx th d a pk 0x5D s

end Sys2Proof.Machine
end

