-- ==== Sys2Proof/Machine/Towpath.lean ====
section
/-! DEFINITION. The towpath engine: programs, transfers, lock chambers, faults and the `tw.` commands (R407–R459,
R882–R887). -/

namespace Sys2Proof.Machine

/-! ### Instructions of a program (R433, R434, R438) -/

/-- A towpath instruction. -/
inductive TwInstr where
  | move (areg : Nat) (out : Bool) (pair hsel csel : Nat) (post : Bool) (str : Nat) (cidx : Bool) (len coff : Nat)
  | adds (areg str : Nat)
  | loop (cnt target count : Nat)
  | waitc (pair hsel csel : Nat)
  | signal (thread : Nat) (done : Bool)
  | endp
  deriving DecidableEq, Repr

/-- A direction suits its queue (R407). -/
def dirOk (q : Nat) (out : Bool) : Bool := match q with
  | 0 | 1 => !out
  | 2 => out
  | _ => true

/-- The instruction a word holds at index `i` of a program of queue `q`; none for one that R438 refuses. -/
def decodeTw (q i w : Nat) : Option TwInstr :=
  match bitsOf w 60 4 with
  | 1 =>
    let hsel := bitsOf w 52 2
    let len := bitsOf w 33 12
    if hsel = 3 || len = 0 || 2048 < len || bitsOf w 0 20 != 0 || !dirOk q (bitOf w 57) then none
    else some (.move (bitsOf w 58 2) (bitOf w 57) (bitsOf w 54 3) hsel (bitsOf w 50 2) (bitOf w 49) (bitsOf w 46 3) (bitOf w 45)
      len (bitsOf w 20 13))
  | 2 => if bitsOf w 0 55 = 0 then some (.adds (bitsOf w 58 2) (bitsOf w 55 3)) else none
  | 3 =>
    if bitsOf w 0 33 != 0 || bitsOf w 33 20 = 0 || i ≤ bitsOf w 53 5 then none
    else some (.loop (bitsOf w 58 2) (bitsOf w 53 5) (bitsOf w 33 20))
  | 4 =>
    if bitsOf w 0 53 != 0 || bitsOf w 55 2 = 3 then none else some (.waitc (bitsOf w 57 3) (bitsOf w 55 2) (bitsOf w 53 2))
  | 5 => if bitsOf w 0 55 = 0 then some (.signal (bitsOf w 56 4) (bitOf w 55)) else none
  | 7 => if bitsOf w 0 60 = 0 then some .endp else none
  | _ => none

/-- Every instruction of an image is sound and the last is END (R438). -/
def imageOk (q : Nat) (instrs : List U64) : Bool :=
  (instrs.zipIdx.all fun x => (decodeTw q x.2 x.1.toNat).isSome)
    && decodeTw q (instrs.length - 1) ((instrs.getLastD 0).toNat) == some .endp

/-! ### Delivering signals and completion records (R440, R444–R446) -/

/-- A transfer of the program before `before` that is not yet issued, or (with `done`) not yet complete. -/
def TwQueue.owes (x : TwQueue) (g : TwSignal) : Bool :=
  let mine := fun (t : Transfer) => t.serial == g.serial && decide (t.id < g.before)
  x.emitted.any mine || (g.done && (x.issued.any mine || x.retry.any fun r => mine r.1))

/-- Deliver each signal whose condition holds and before which no signal of its program waits. -/
def deliver (core : Nat) (x : TwQueue) : List TwSignal → List Nat → Block → List TwSignal × Block
  | [], _, s => ([], s)
  | g :: gs, held, s =>
    if held.contains g.serial || x.owes g then
      let (rest, s) := deliver core x gs (g.serial :: held) s
      (g :: rest, s)
    else deliver core x gs held (wakeThread (core * 16 + g.thread) s)

/-- The completion record of a program (R445). -/
def twRecord (q : Nat) (e : TwEnded) : List Byte := leBytes 8 (e.status.code + q * 2 ^ 8 + e.serial % 2 ^ 32 * 2 ^ 10)

/-- Nothing of the program is left in its queue. -/
def TwQueue.drained (x : TwQueue) (serial : Nat) : Bool :=
  !(x.emitted.any (·.serial == serial) || x.issued.any (·.serial == serial) || x.retry.any (·.1.serial == serial))

/-- The program at the head of those that ended is complete: its record, its wake, and the queue's counts. -/
def completeProgram (core q : Nat) (e : TwEnded) (s : Block) : Block :=
  let s := s.modTwq core q fun x =>
    { x with ended := x.ended.drop 1, completed := (x.completed + 1) % 2 ^ 32, lastStatus := e.status }
  let s := if e.doneAddr = 0xFFFFFFFF then s else s.modCore core fun c => c.tsWrite e.doneAddr (twRecord q e)
  if e.wakeEn then wakeThread (core * 16 + e.wakeThread) s else s

/-- Programs complete in the order in which they became active (R446). -/
def completePrograms (core q : Nat) : Nat → Block → Block
  | 0, s => s
  | n + 1, s =>
    match (s.twq core q).ended with
    | [] => s
    | e :: _ => if (s.twq core q).drained e.serial then completePrograms core q n (completeProgram core q e s) else s

/-- What a program leaves to complete when it leaves its slot. -/
def TwProg.endedAs (p : TwProg) (st : Status) : TwEnded :=
  { serial := p.serial, doneAddr := p.img.doneAddr, wakeThread := p.img.wakeThread, wakeEn := p.img.wakeEn,
    armThread := p.img.armThread, status := st }

/-- The active slot empties once its program has ended and every transfer it emitted has issued (R444). -/
def emptySlot (x : TwQueue) : TwQueue :=
  match x.active with
  | some p =>
    match p.ended with
    | some st =>
      if x.emitted.any (·.serial == p.serial) then x
      else { x with active := none, ended := x.ended ++ [p.endedAs st] }
    | none => x
  | none => x

/-- After every change of a queue: signals due are delivered, a finished program leaves its slot, and complete programs
leave their records. -/
def twSettle (core q : Nat) (s : Block) : Block :=
  let x := s.twq core q
  let (gs, s) := deliver core x x.signals [] s
  let s := s.modTwq core q fun x => emptySlot { x with signals := gs }
  completePrograms core q (s.twq core q).ended.length s

/-! ### Running a program (R435–R441) -/

/-- A program may be stepped: it has not ended, its queue neither waits on a fault nor stops, and its retry list has issued
again (R449). -/
def stepping (s : Block) (core q : Nat) : Option TwProg :=
  let x := s.twq core q
  if x.faulted || coreStopped s core || x.emitted.any (·.retried) then none
  else
    match x.active with
    | some p => if p.ended.isSome then none else some p
    | none => none

/-- The instruction that the program of a queue executes next. -/
def nextTw (s : Block) (core q : Nat) : Option (TwProg × TwInstr) :=
  match stepping s core q with
  | none => none
  | some p => (decodeTw q p.index ((p.img.instrs.getD p.index 0).toNat)).map fun i => (p, i)

/-- The active program becomes `p`. -/
def putProg (core q : Nat) (p : TwProg) (s : Block) : Block := s.modTwq core q fun x => { x with active := some p }

/-- The program goes on at the next instruction. -/
def TwProg.step (p : TwProg) : TwProg := { p with index := p.index + 1 }

/-- The program ends with a status. -/
def endProgram (core q : Nat) (p : TwProg) (st : Status) (s : Block) : Block :=
  twSettle core q (putProg core q { p with ended := some st } s)

/-- The chamber that HSEL and CSEL select: true for the upper. -/
def TwProg.upper (p : TwProg) (hsel csel : Nat) : Bool :=
  match hsel with
  | 0 => false
  | 1 => true
  | _ => p.counters.getD csel 0 % 2 == 0

/-- The far-end address in an address register, when its form is sound (R437, R882). A virtual address of 2^48 or above is
for translation to refuse (R510). -/
def farOf (q : Nat) (a : Nat) : Option Nat :=
  if q < 3 then some a
  else
    match bitsOf a 62 2 with
    | 1 => some (2 ^ 62 + bitsOf a 32 12 * 2 ^ 32 + bitsOf a 0 19)
    | 2 => if bitsOf a 58 4 = 0 && bitsOf a 44 4 = 0 then some a else none
    | _ => none

/-- A transfer that has not issued and a later one merge (R421). -/
def merges (a b : Transfer) : Bool :=
  !a.retried && a.out == b.out && a.serial == b.serial && a.far + a.len == b.far && a.ts + a.len == b.ts
    && decide (a.len + b.len ≤ 4096) && a.far / 65536 == (b.far + b.len - 1) / 65536

/-- A transfer is emitted: it joins an unissued one with which it merges, and issues in that one's place (assumption 27). -/
def emit (x : TwQueue) (t : Transfer) : TwQueue :=
  let x := { x with nextId := x.nextId + 1 }
  match x.emitted.reverse.find? fun a => merges a t with
  | some a =>
    { x with emitted := x.emitted.map fun u => if u.id = a.id then { u with len := u.len + t.len, grants := u.grants ++ t.grants } else u }
  | none => { x with emitted := x.emitted ++ [t] }

/-- The queue can accept another transfer (R441). -/
def TwQueue.accepts (x : TwQueue) : Bool := decide (x.emitted.length ≤ Config.emitRoom)

/-- MOVE (R417, R436, R439, R441) emits its next transfer, which ends at a 4 KiB boundary of the far end or at the end of
the move; after the last one the program goes on. A queue that cannot accept it stalls the program. -/
def runMove (core q : Nat) (p : TwProg) (areg : Nat) (out : Bool) (pair hsel csel : Nat) (post : Bool) (str : Nat)
    (cidx : Bool) (len coff : Nat) (s : Block) : Block :=
  let k := (s.core core).pair pair
  let n := 32 * len
  let off := 32 * coff + if cidx then p.counters.getD csel 0 * n else 0
  let a := p.a.getD areg 0
  match farOf q a.toNat with
  | none => endProgram core q p .internal s
  | some far =>
    if !k.enabled || k.half < off + n then endProgram core q p .internal s
    else if !(s.twq core q).accepts then s
    else
      let len := min (n - p.moved) (4096 - (far + p.moved) % 4096)
      let t : Transfer := { id := (s.twq core q).nextId, serial := p.serial, far := far + p.moved,
                            ts := k.chamber (p.upper hsel csel) + off + p.moved, len := len, out := out, grants := [p.nextGrant],
                            retried := false, sent := none, clash := [], farClash := [] }
      let a' := if post then p.a.set areg (a + p.img.strides.getD str 0) else p.a
      let p := { p with nextGrant := p.nextGrant + 1 }
      twSettle core q (putProg core q (if p.moved + len < n then { p with moved := p.moved + len } else { p.step with moved := 0, a := a' })
        (s.modTwq core q (emit · t)))

/-- LOOP (R435). -/
def runLoop (p : TwProg) (cnt target count : Nat) : TwProg :=
  let n := p.counters.getD cnt 0 + 1
  if n < count then { p with counters := p.counters.set cnt n, index := target }
  else { p.step with counters := p.counters.set cnt 0 }

def twRow (core : Nat) (s : Block) (f : Block → Block) : BlockResult := within (decide (core < 4096)) s f

def execMove (core : Nat) (q : BitVec 2) (s : State) : Result := onBlock s fun s =>
  twRow core s fun s =>
    match nextTw s core q.toNat with
    | some (p, .move areg out pair hsel csel post str cidx len coff) =>
      runMove core q.toNat p areg out pair hsel csel post str cidx len coff s
    | _ => s

def execAdds (core : Nat) (q : BitVec 2) (s : State) : Result := onBlock s fun s =>
  twRow core s fun s =>
    match nextTw s core q.toNat with
    | some (p, .adds areg str) =>
      putProg core q.toNat { p.step with a := p.a.set areg (p.a.getD areg 0 + p.img.strides.getD str 0) } s
    | _ => s

def execLoopBack (core : Nat) (q : BitVec 2) (s : State) : Result := onBlock s fun s =>
  twRow core s fun s =>
    match nextTw s core q.toNat with
    | some (p, .loop cnt target count) => putProg core q.toNat (runLoop p cnt target count) s
    | _ => s

/-- WAITC: the program goes on once the selected chamber is the stream chamber; on a disabled pair it ends with INTERNAL
(assumption 28). -/
def execWaitc (core : Nat) (q : BitVec 2) (s : State) : Result := onBlock s fun s =>
  twRow core s fun s =>
    match nextTw s core q.toNat with
    | some (p, .waitc pair hsel csel) =>
      let k := (s.core core).pair pair
      if !k.enabled then endProgram core q.toNat p .internal s
      else if p.upper hsel csel != k.upperCompute then putProg core q.toNat p.step s
      else s
    | _ => s

def execSignal (core : Nat) (q : BitVec 2) (s : State) : Result := onBlock s fun s =>
  twRow core s fun s =>
    match nextTw s core q.toNat with
    | some (p, .signal thread done) =>
      twSettle core q.toNat ((putProg core q.toNat p.step s).modTwq core q.toNat fun x =>
        { x with signals := x.signals ++ [{ thread := thread, done := done, serial := p.serial, before := x.nextId }] })
    | _ => s

def execEndProg (core : Nat) (q : BitVec 2) (s : State) : Result := onBlock s fun s =>
  twRow core s fun s =>
    match nextTw s core q.toNat with
    | some (p, .endp) => endProgram core q.toNat p .ok s
    | _ => s

/-- A pending program becomes active once the active slot is empty, whether or not its queue waits or stops (R435, R444). -/
def execProgramActivate (core : Nat) (q : BitVec 2) (s : State) : Result := onBlock s fun s =>
  twRow core s fun s =>
    let x := s.twq core q.toNat
    match x.active, x.pending with
    | none, some img =>
      s.setTwq core q.toNat { x with
        pending := none, serials := x.serials + 1
        active := some { img := img, a := img.a, index := 0, counters := [0, 0, 0, 0], serial := x.serials + 1,
                         nextGrant := img.grantTlb, moved := 0, ended := none } }
    | _, _ => s

/-! ### Faults (R447–R450) -/

/-- The threads that armed the programs with transfers on the retry list. -/
def TwQueue.armers (x : TwQueue) : List Nat :=
  ((x.active.toList.map fun p => (p.serial, p.img.armThread)) ++ x.ended.map fun e => (e.serial, e.armThread)).filterMap
    fun a => if x.retry.any (·.1.serial == a.1) then some a.2 else none

/-- The queue waits on NOT_RESIDENT faults only; one whose faults are resolved waits for its core's stop to end (R539). -/
def TwQueue.pages (x : TwQueue) : Bool :=
  x.faulted && !x.retry.isEmpty && x.retry.all fun r => r.2.1 == .notResident || r.2.1 == .ok

/-- A thread that armed a queue's program waits for its pages (R448). -/
def pagerPark (t : Thread) : Thread :=
  match t.st with
  | .free => t
  | .ready => { t with st := .parked, reason := .pager, pagerDue := true }
  | .waiting =>
    match t.wait with
    | .load .. | .amo .. => { t with pagerDue := true }
    | _ => { t with st := .parked, reason := .pager, wait := .none, pagerDue := true }
  | _ => { t with pagerDue := true }

/-- Some queue of the core still waits for pages of a program that the thread armed. -/
def stillDue (c : Core) (th : Nat) : Bool := c.tw.any fun e => e.2.pages && e.2.armers.contains th

/-- A thread parked for its own faulting access. -/
def Thread.ownFault (t : Thread) : Bool :=
  (t.cause == .memFault || t.cause == .fetchFault) && t.status == .notResident

/-- Threads of a core whose queues no longer wait for pages go on (R448). -/
def pagerRelease (core : Nat) (s : Block) : Block :=
  s.modCore core fun c =>
    { c with threads := c.threads.map fun e =>
        let t := e.2
        if t.pagerDue && !stillDue c (core * 16 + e.1) then
          let t := { t with pagerDue := false }
          (e.1, if t.reason = .pager && !t.ownFault then
                  (if t.st = .parked then t.release else { t with reason := .none })
                else t)
        else e }

/-- Bytes of a faulted transfer's destination: each the old or the new one, as free choices say (R450). -/
def oldOrNew : List Byte → List Byte → Block → List Byte × Block
  | old :: os, new :: ns, s =>
    let (n, s) := s.freeBelow 2
    let (rest, s) := oldOrNew os ns s
    ((if n = 0 then old else new) :: rest, s)
  | _, _, s => ([], s)

/-- Bytes with no value of their own. -/
def freeBytes (n : Nat) (s : Block) : List Byte × Block :=
  ((List.range n).map fun i => BitVec.ofNat 8 (Config.freeNat (s.freeCtr + i)), { s with freeCtr := s.freeCtr + n })

/-- The core that index `i` names in the context of a core (R437). -/
def remoteCore (s : Block) (core i : Nat) : Option Nat :=
  ((s.ctxOf core).bind s.context).bind fun x => x.cores.find? fun c => (x.cores.filter fun y => decide (y < c)).length == i

/-- The far end of a transfer between tile stores: a core and an offset. -/
def farTile (s : Block) (core : Nat) (t : Transfer) : Option (Nat × Nat) :=
  if bitsOf t.far 62 2 = 1 then (remoteCore s core (bitsOf t.far 32 12)).map fun r => (r, bitsOf t.far 0 32) else none

/-- What a faulted transfer into tile store would have brought: the bytes at its far end where something can be read there,
else bytes with no value of their own. -/
def arriving (core q : Nat) (t : Transfer) (s : Block) : List Byte × Block :=
  let there := if q < 3 then peek s ((s.ctxOf core).getD 0xFFFF) t.far t.len
    else (farTile s core t).bind fun r => if inTile r.2 t.len then some (Mem.read (s.core r.1).ts r.2 t.len) else none
  match there with
  | some bs => (bs, s)
  | none => freeBytes t.len s

/-- The bytes that a faulted transfer would have written (R450). A transfer out of tile store leaves T1 as it was where the
checks of R516 stopped it. -/
def faultedBytes (core q : Nat) (t : Transfer) (st : Status) (s : Block) : Block :=
  let here := Mem.read (s.core core).ts t.ts t.len
  if !t.out then
    let (new, s) := arriving core q t s
    let (bs, s) := oldOrNew here new s
    s.modCore core fun c => { c with ts := Mem.write c.ts t.ts bs }
  else if q < 3 then
    match st, peek s ((s.ctxOf core).getD 0xFFFF) t.far t.len with
    | .eccUncorrectable, some old =>
      let (bs, s) := oldOrNew old here s
      writeAround ((s.ctxOf core).getD 0xFFFF) t.far bs s
    | _, _ => s
  else
    match farTile s core t with
    | some r =>
      if inTile r.2 t.len then
        let (bs, s) := oldOrNew (Mem.read (s.core r.1).ts r.2 t.len) here s
        s.modCore r.1 fun c => { c with ts := Mem.write c.ts r.2 bs }
      else s
    | none => s

/-- A final fault ends the queue's programs with the first such status in emission order (R450): those with a faulted
transfer, and those behind them; the pending program is discarded with the serial it would have had (assumption 26). -/
def finalFault (core q : Nat) (st : Status) (va : Nat) (s : Block) : Block :=
  let x := s.twq core q
  let s := x.retry.foldl (fun s r => faultedBytes core q r.1 r.2.1 s) s
  let first := x.ended.find? fun e => x.retry.any (·.1.serial == e.serial)
  let s := s.modTwq core q fun y =>
    let ended := (y.ended.map fun e => match first with
        | some f => if f.serial ≤ e.serial then { e with status := st } else e
        | none => e)
      ++ (y.active.toList.map fun p => p.endedAs st)
      ++ (y.pending.toList.map fun i =>
        ({ serial := y.serials + 1, doneAddr := i.doneAddr, wakeThread := i.wakeThread, wakeEn := i.wakeEn,
           armThread := i.armThread, status := st } : TwEnded))
    { y with emitted := [], retry := [], faulted := false, active := none, pending := none, signals := [], posValid := false,
             ended := ended }
  twSettle core q (pagerRelease core (engineEvent core st va s))

/-- A queue with faults: once its other transfers have finished, a final one ends its programs; else the arming threads
wait for the pager. -/
def faultCheck (core q : Nat) (s : Block) : Block :=
  let x := s.twq core q
  match x.retry.find? fun r => r.2.1 != .notResident && r.2.1 != .ok with
  | some r => if x.issued.isEmpty then finalFault core q r.2.1 r.2.2 s else s
  | none =>
    if x.pages then x.armers.foldl (fun s th => if th / 16 = core then s.modThread th pagerPark else s) s else s

/-- Insert into the retry list in emission order. -/
def retryInsert (r : Transfer × Status × Nat) : List (Transfer × Status × Nat) → List (Transfer × Status × Nat)
  | [] => [r]
  | x :: xs => if r.1.id < x.1.id then r :: x :: xs else x :: retryInsert r xs

/-- A transfer faults (R447): the queue stops at its position. -/
def faultTransfer (core q : Nat) (t : Transfer) (st : Status) (va : Nat) (s : Block) : Block :=
  faultCheck core q (twSettle core q (s.modTwq core q fun x =>
    { x with faulted := true, retry := retryInsert (t, st, va) x.retry, posValid := true
             posIndex := (x.active.map (·.index)).getD x.posIndex }))

/-- Every fault of a queue is resolved, and its core is not to stop: the retry list issues again in order, and then the
program goes on (R449, R539). -/
def resumeQueue (core q : Nat) (s : Block) : Block :=
  let x := s.twq core q
  if (x.retry.all fun r => r.2.1 == .ok) && !coreStopped s core then
    let s := s.modTwq core q fun x =>
      { x with faulted := false, posValid := false, retry := []
               emitted := x.retry.map (fun r => { r.1 with retried := true }) ++ x.emitted }
    pagerRelease core s
  else s

/-- The faults of a core's queues on a page of its context are resolved (R533). -/
def resolveTowpath (core lo hi : Nat) (s : Block) : Block :=
  [0, 1, 2, 3].foldl (fun s q =>
    let x := s.twq core q
    if x.retry.any fun r => r.2.1 == .notResident && decide (lo ≤ r.2.2) && decide (r.2.2 < hi) then
      let s := s.modTwq core q fun x =>
        { x with retry := x.retry.map fun r =>
            if r.2.1 = .notResident && lo ≤ r.2.2 && r.2.2 < hi then (r.1, .ok, r.2.2) else r }
      resumeQueue core q s
    else s) s

/-! ### Issuing transfers (R416, R418, R419, R426, R458, R884) -/

/-- Q_REMOTE's stream form: the stream and the destination module. -/
def farVs (far : Nat) : Nat := bitsOf far 48 10
def farModule (far : Nat) : Nat := bitsOf far 32 12
/-- The transfer's far end is a Kreash stream. -/
def isStream (q : Nat) (t : Transfer) : Bool := q == 3 && bitsOf t.far 62 2 == 2

/-- The stream is enabled, bound to the core's context, and its peer is the module named (R883). -/
def streamOk (s : Block) (core : Nat) (far : Nat) : Bool :=
  let v := s.vsCfg (farVs far)
  v.en && some v.ctx.toNat == s.ctxOf core && v.peer.toNat == farModule far && decide (32 ≤ farVs far)

/-- The record of a transfer out of tile store to a stream is sealed and sent as the transfer issues; what it comes
to. -/
def sendTransfer (core : Nat) (t : Transfer) (s : Block) : Status × Block :=
  if !streamOk s core t.far then (.permFault, s)
  else
    match (s.core core).badIn t.ts t.len with
    | some w => (.eccUncorrectable, eccSram core w false s)
    | none =>
      match sealUnder (s.vsCfg (farVs t.far)).keySlot.toNat [] (Mem.read (s.core core).ts t.ts t.len) s with
      | (.error st, s) => (st, s)
      | (.ok x, s) =>
        (.ok, sendRecord { dst := farModule t.far, vs := farVs t.far, link := none, bytes := sealBytes x } s)

/-- The head of a queue issues. -/
def issueNow (core q : Nat) (t : Transfer) (s : Block) : Block :=
  let (sent, s) := if isStream q t && t.out then
      let (st, s) := sendTransfer core t s
      (some st, s)
    else (none, s)
  let t := { t with sent := sent, clash := [], farClash := [] }
  twSettle core q (s.modTwq core q fun x => { x with emitted := x.emitted.drop 1, issued := x.issued ++ [t] })

/-- A transfer makes a lookup in its basin's TLB. -/
def usesTlb (q : Nat) : Bool := decide (q < 3)

/-- The head of the queue may not issue now. -/
def heldBack (s : Block) (core q : Nat) (t : Transfer) : Bool :=
  let x := s.twq core q
  x.faulted || coreStopped s core || decide (((s.core core).twDepth.getD q 0x10).toNat ≤ x.issued.length)
    || x.issued.any (fun u => overlap t.ts t.len u.ts u.len) || ((s.core core).computeTouch t.ts t.len).isSome

/-- The head of a queue issues when nothing holds it back and its TLB grant number is next. One that repeats a number ends
with INTERNAL, and writes none of its bytes (R90). -/
def execTransferIssue (core : Nat) (q : BitVec 2) (s : State) : Result := onBlock s fun s =>
  twRow core s fun s =>
    match (s.twq core q.toNat).emitted with
    | [] => s
    | t :: rest =>
      if heldBack s core q.toNat t then s
      else if t.retried || !usesTlb q.toNat then issueNow core q.toNat t s
      else
        match tlbTurn s (.tw core) (t.grants.headD 0) with
        | none => s
        | some false => issueNow core q.toNat t (tlbDone (.tw core) t.grants s)
        | some true =>
          faultTransfer core q.toNat { t with len := 0 } .internal t.far (s.modTwq core q.toNat fun x => { x with emitted := rest })

/-! ### Completing transfers (R408, R420, R423, R884–R886) -/

/-- What a transfer comes to. -/
inductive TransferEnd where
  | ok | fault (st : Status) (va : Nat) | notYet

/-- Bytes arrive in tile store; those that others touched while the transfer was in flight may keep the value they have
(R420). -/
def landBytes (clash : List (Nat × Nat)) : Nat → List Byte → List Byte → Block → List Byte × Block
  | a, new :: ns, old :: os, s =>
    if clash.any fun r => overlap a 1 r.1 r.2 then
      let (n, s) := s.freeBelow 2
      let (rest, s) := landBytes clash (a + 1) ns os s
      ((if n = 0 then new else old) :: rest, s)
    else
      let (rest, s) := landBytes clash (a + 1) ns os s
      (new :: rest, s)
  | _, _, _, s => ([], s)

/-- Every transfer between tile stores whose far end is a range of a core notes that the range was touched. -/
def markFar (core off n : Nat) (s : Block) : Block :=
  let mark := fun (own : Nat) (t : Transfer) =>
    match farTile s own t with
    | some r => if r.1 = core && overlap off n r.2 t.len then { t with farClash := (off, n) :: t.farClash } else t
    | none => t
  let queue := fun (own : Nat) (q : Nat × TwQueue) =>
    if q.1 ≠ 3 then q else (q.1, { q.2 with issued := q.2.issued.map (mark own) })
  { s with cores := s.cores.map fun e => (e.1, { e.2 with tw := e.2.tw.map (queue e.1) }) }

/-- A transfer of queue `own` (4 for another core's) has touched a range of a core's tile store: whatever else is in flight
there takes note (R420). -/
def touchTile (own core off n : Nat) (s : Block) : Block := markFar core off n (s.modCore core fun c => c.markClash own off n)

/-- Bytes that a transfer brings land in a core's tile store, or their write is impossible (R1006). -/
def landAt (own core off : Nat) (clash : List (Nat × Nat)) (far : Nat) (bs : List Byte) (s : Block) : TransferEnd × Block :=
  match (s.core core).tsWriteBad off bs.length with
  | some w => (.fault .eccUncorrectable far, eccSram core w false s)
  | none =>
    let (bs, s) := landBytes clash off bs (Mem.read (s.core core).ts off bs.length) s
    (.ok, (touchTile own core off bs.length (s.modCore core fun c => c.tsWrite off bs)).noteLanded core off bs)

/-- Bytes land in the core's own tile store. -/
def landTile (core q : Nat) (t : Transfer) (bs : List Byte) (s : Block) : TransferEnd × Block := landAt q core t.ts t.clash t.far bs s

/-- The bytes a transfer takes out of tile store. -/
def takeTile (core q : Nat) (t : Transfer) (s : Block) : Option (List Byte) × Block :=
  match (s.core core).badIn t.ts t.len with
  | some w => (none, eccSram core w false s)
  | none => (some (Mem.read (s.core core).ts t.ts t.len), touchTile q core t.ts t.len s)

/-- A transfer between tile store and T1. -/
def t1Transfer (core q : Nat) (t : Transfer) (s : Block) : TransferEnd × Block :=
  let w := whoCore s core 3 q
  if t.out then
    if writeHeld s ((s.ctxOf core).getD 0xFFFF) t.far t.len accWrite then (.notYet, s)
    else
      match takeTile core q t s with
      | (none, s) => (.fault .eccUncorrectable t.far, s)
      | (some bs, s) =>
        match vwrite w (some (basinOf core)) t.far bs s with
        | (.ok _, s) => (.ok, s)
        | (.error (st, va), s) => (.fault st va, s)
  else
    match vread w (some (basinOf core)) t.far t.len s with
    | (.ok bs, s) => landTile core q t bs s
    | (.error (st, va), s) => (.fault st va, s)

/-- A transfer between tile store and another core's tile store: an index outside the context is PERM_FAULT, an offset
past tile store INTERNAL (assumption 29). -/
def tileTransfer (core : Nat) (t : Transfer) (s : Block) : TransferEnd × Block :=
  let off := bitsOf t.far 0 32
  match remoteCore s core (bitsOf t.far 32 12) with
  | none => (.fault .permFault t.far, s)
  | some r =>
    if !inTile off t.len then (.fault .internal t.far, s)
    else if t.out then
      match takeTile core 3 t s with
      | (none, s) => (.fault .eccUncorrectable t.far, s)
      | (some bs, s) => landAt 4 r off t.farClash t.far bs s
    else
      match (s.core r).badIn off t.len with
      | some w => (.fault .eccUncorrectable t.far, eccSram r w false s)
      | none => landTile core 3 t (Mem.read (s.core r).ts off t.len) (touchTile 4 r off t.len s)

/-- A transfer between tile store and a stream. -/
def streamTransfer (core : Nat) (t : Transfer) (s : Block) : TransferEnd × Block :=
  let v := farVs t.far
  if t.out then
    match t.sent with
    | some .ok => if s.kreash.outbox.any fun r => r.vs == v && r.dst == farModule t.far then (.notYet, s) else (.ok, s)
    | some st => (.fault st t.far, s)
    | none => (.notYet, s)
  else if !streamOk s core t.far then (.fault .permFault t.far, s)
  else if !(s.slot (s.vsCfg v).keySlot.toNat).usable then (.fault .keyRevoked t.far, s)
  else
    match s.kreash.buffers.find? fun r => r.src == farModule t.far && r.vs == v with
    | none => (.notYet, s)
    | some r =>
      let s := returnCredits r.src v 1 (s.modKreash fun k => { k with buffers := k.buffers.erase r })
      if r.bytes.length = t.len then landTile core 3 t r.bytes s else (.fault .internal t.far, s)

def runTransfer (core q : Nat) (t : Transfer) (s : Block) : TransferEnd × Block :=
  if q < 3 then t1Transfer core q t s
  else if isStream q t then streamTransfer core t s
  else tileTransfer core t s

def execTransferComplete (core : Nat) (q : BitVec 2) (index : Nat) (s : State) : Result := onBlock s fun s =>
  twRow core s fun s =>
    match (s.twq core q.toNat).issued[index]? with
    | none => s
    | some t =>
      let drop := fun (s : Block) => s.modTwq core q.toNat fun x => { x with issued := x.issued.eraseIdx index }
      match runTransfer core q.toNat t s with
      | (.notYet, _) => s
      | (.ok, s) =>
        let s := drop s
        if (s.twq core q.toNat).faulted then faultCheck core q.toNat (twSettle core q.toNat s) else twSettle core q.toNat s
      | (.fault st va, s) => faultTransfer core q.toNat t st va (drop s)

/-! ### The queue save record (R452) -/

/-- An image as copied: 352 bytes. -/
def TwImage.bytes (i : TwImage) : List Byte :=
  let words := fun (l : List U64) (n : Nat) => (List.range n).flatMap fun k => leBytes 8 (l.getD k 0).toNat
  words i.a 4 ++ words i.strides 8 ++ words i.instrs 32

/-- A retry entry: 16 bytes. -/
def retryBytes (t : Transfer) : List Byte := leBytes 16 (t.far + t.ts * 2 ^ 64 + t.len * 2 ^ 83 + b2n t.out * 2 ^ 96)

/-- The far-end address of the next transfer of a MOVE in progress, or 0. -/
def TwProg.nextFar (q : Nat) (p : TwProg) : Nat :=
  if p.moved = 0 then 0
  else
    match decodeTw q p.index ((p.img.instrs.getD p.index 0).toNat) with
    | some (.move areg ..) => ((farOf q (p.a.getD areg 0).toNat).getD 0) + p.moved
    | _ => 0

/-- THE QUEUE SAVE RECORD of a queue, 1,792 bytes. -/
def TwQueue.save (q : Nat) (x : TwQueue) : List Byte :=
  let none_ : List Byte := zeros 352
  let head := fields [(0, 5, (x.active.map (·.index)).getD x.posIndex), (5, 7, x.retry.length), (12, 1, b2n x.active.isSome),
    (13, 1, b2n x.pending.isSome), (14, 8, x.lastStatus.code), (22, 32, (x.active.map (·.serial)).getD x.serials)]
  leBytes 8 head
    ++ ((List.range 4).flatMap fun k => leBytes 8 ((x.active.map fun p => (p.a.getD k 0).toNat).getD 0))
    ++ ((List.range 4).flatMap fun k => leBytes 4 ((x.active.map fun p => p.counters.getD k 0).getD 0))
    ++ leBytes 8 ((x.active.map (TwProg.nextFar q)).getD 0)
    ++ ((x.retry.flatMap fun r => retryBytes r.1) ++ zeros 1024).take 1024
    ++ (x.active.map fun p => p.img.bytes).getD none_ ++ (x.pending.map TwImage.bytes).getD none_

/-- An image read back from its 352 bytes; what the record does not hold, it keeps. -/
def TwImage.ofBytes (i : TwImage) (b : List Byte) : TwImage :=
  let words := fun (off n : Nat) => (List.range n).map fun k => BitVec.ofNat 64 (fld b (off + 8 * k) 8)
  { i with a := words 0 4, strides := words 0x20 8, instrs := words 0x60 i.instrs.length }

/-- A queue takes back what a save record holds of it. -/
def TwQueue.load (q : Nat) (x : TwQueue) (b : List Byte) : TwQueue :=
  let h := fld b 0 8
  let prog := fun (p : TwProg) =>
    let p := { p with
      index := bitsOf h 0 5, serial := bitsOf h 22 32, img := p.img.ofBytes (b.drop 0x440)
      a := (List.range 4).map fun k => BitVec.ofNat 64 (fld b (8 + 8 * k) 8)
      counters := (List.range 4).map fun k => fld b (0x28 + 4 * k) 4 }
    match decodeTw q p.index ((p.img.instrs.getD p.index 0).toNat) with
    | some (.move areg ..) =>
      { p with moved := if fld b 0x38 8 = 0 then 0 else fld b 0x38 8 - (farOf q (p.a.getD areg 0).toNat).getD 0 }
    | _ => p
  { x with
    active := if bitOf h 12 then x.active.map prog else none
    pending := if bitOf h 13 then x.pending.map (·.ofBytes (b.drop 0x5A0)) else none
    lastStatus := (Status.ofCode (bitsOf h 14 8)).getD x.lastStatus
    retry := x.retry.zipIdx.map fun r =>
      let w := fld b (0x40 + 16 * r.2) 16
      ({ r.1.1 with far := bitsOf w 0 64, ts := bitsOf w 64 19, len := bitsOf w 83 13, out := bitOf w 96 }, r.1.2) }

/-! ### Stops (R451, R538, R887) -/

/-- A transfer that waits for a record it has not taken. -/
def waitsRecord (q : Nat) (t : Transfer) : Bool := isStream q t && !t.out

/-- A stopping queue reaches its stop point: waiting stream transfers are withdrawn, and with none left issued, or at a
fault (R539), its position is recorded. -/
def twStopPoint (core q : Nat) (s : Block) : Block :=
  if !coreStopped s core then s
  else
    let s := s.modTwq core q fun x =>
      let back := (x.issued.filter (waitsRecord q)).map fun t => (t, Status.ok, 0)
      let x := { x with issued := x.issued.filter fun t => !waitsRecord q t
                        retry := back.foldl (fun l r => retryInsert r l) x.retry }
      if x.issued.isEmpty then
        { x with posValid := true, posIndex := (x.active.map (·.index)).getD x.posIndex }
      else x
    if (s.twq core q).faulted then faultCheck core q s else s

/-- The queue counts as stopped. -/
def twStopped (s : Block) (core q : Nat) : Bool :=
  let x := s.twq core q
  x.faulted || x.posValid || (x.issued.isEmpty && x.active.isNone)

/-- A stop ends: every queue without open faults goes on from its position. -/
def twRestart (core : Nat) (s : Block) : Block :=
  [0, 1, 2, 3].foldl (fun s q => resumeQueue core q s) s

/-! ### `tw.` commands (R428–R431, R442, R453–R456) -/

/-- The image that a `tw.arm` names. -/
def imageAt (ts : Mem) (b : List Byte) (thread : Nat) : TwImage :=
  let a := fld b 0x18 4
  let words := fun (off n : Nat) => (List.range n).map fun i => BitVec.ofNat 64 (Mem.nat ts (a + off + 8 * i) 8)
  { a := words 0 4, strides := words 0x20 8, instrs := words 0x60 (fld b 0x21 1), doneAddr := fld b 0x1C 4,
    wakeThread := bitsOf (fld b 0x22 1) 0 4, wakeEn := bitOf (fld b 0x22 1) 4, armThread := thread, grantTlb := fld b 0x10 4 }

def armOk (b : List Byte) : Bool :=
  let done := fld b 0x1C 4
  fld b 0x18 4 % 8 == 0 && decide (fld b 0x20 1 < 4) && (1 ≤ fld b 0x21 1 && fld b 0x21 1 ≤ 32)
    && bitsOf (fld b 0x22 1) 5 3 == 0 && allZero b 0x23 29 && inTile (fld b 0x18 4) (0x60 + 8 * fld b 0x21 1)
    && (done == 0xFFFFFFFF || (done % 8 == 0 && inTile done 8))

/-- `tw.pair`'s fields: the pair, BASE and HALF. -/
def pairFields (b : List Byte) : Nat × Nat × Nat := (fld b 0x18 1, fld b 0x19 4, fld b 0x1D 4)

def pairOkBody (b : List Byte) : Bool :=
  let (k, base, half) := pairFields b
  decide (k < 8) && base % 256 == 0 && half % 256 == 0 && decide (half ≤ 0x40000) && allZero b 0x21 31
    && (half == 0 || inTile base (2 * half))

/-- The body checks of a towpath command (R438, R454–R457, R1022). -/
def twEntry (code : Nat) (b : List Byte) : Entry :=
  match code with
  | 1 => .when (armOk b) .light
  | 2 => .when (allZero b 0x19 39) .light
  | _ => .when (pairOkBody b) .light

/-- `tw.arm` (R438, R442): its predicate is false with OK and true with BUSY. -/
def runArm (c : Cmd) (s : Block) : Work :=
  let q := c.fld 0x20 1
  let range := (c.fld 0x18 4, 0x60 + 8 * c.fld 0x21 1)
  let img := imageAt (s.core c.core).ts c.block c.thread
  if chamberHeld s c.core [range] then .notYet s
  else match (s.core c.core).badIn range.1 range.2 with
  | some w => .done .eccUncorrectable (engineEvent c.core .eccUncorrectable 0 (eccSram c.core w false s))
  | none =>
    if !imageOk q img.instrs then .done .internal s
    else if (s.twq c.core q).pending.isSome then .done .busy s
    else .done .ok (s.modTwq c.core q fun x => { x with pending := some img })

/-- The predicate of a `tw.arm` that completes: what its status says, and a free value where the manual states none. -/
def armPredicate (c : Cmd) (st : Status) (s : Block) : Block :=
  let set := fun (v : Bool) (s : Block) => s.modThread c.thread (·.setP (BitVec.ofNat 3 c.pk) v)
  match st with
  | .ok => set false s
  | .busy => set true s
  | _ =>
    let (n, s) := s.freeBelow 2
    set (n == 1) s

/-- The pairs that a `tw.flip` names. -/
def flipPairs (c : Cmd) : List Nat := (List.range 8).filter fun k => bitOf (c.fld 0x18 1) k

/-- A flip at the head of the queue whose dependency is satisfied starts: it notes which commands entered before it, and
its pairs show FLIP_WAIT (R428). -/
def startFlip (core : Nat) (s : Block) : Block :=
  match (s.core core).q.tw with
  | [] => s
  | c :: _ =>
    if c.code = 2 && c.phase = .entered && c.refuse.isNone && c.cancel.isNone && depMet c && !coreStopped s core then
      (s.modCmd (.tw core) c.id fun x => { x with phase := .running, pos := s.nextId }).modCore core fun x =>
        (flipPairs c).foldl (fun x k => if (x.pair k).enabled then x.setPair k { x.pair k with flipWait := true } else x) x
    else s

/-- An issued transfer touches the stream chamber of pair `k`. -/
def streamBusy (s : Block) (core k : Nat) : Bool :=
  let p := (s.core core).pair k
  (s.core core).tw.any fun e => e.2.issued.any fun t => overlap t.ts t.len (p.chamber (!p.upperCompute)) p.half

/-- Threads WAITING on a chamber that is a stream chamber no more issue their access again (R427). -/
def wakeChambers (c : Core) : Core :=
  { c with threads := c.threads.map fun t =>
      match t.2.st, t.2.wait with
      | .waiting, .chamber k upper =>
        let p := c.pair k
        (t.1, if p.enabled && p.upperCompute != upper then t.2 else t.2.release)
      | _, _ => t }

/-- `tw.flip` (R428, R430, R455). `busy k` tells that a command entered before the flip's start touches the compute
chamber of pair `k`. -/
def runFlip (c : Cmd) (busy : Nat → Bool) (s : Block) : Work :=
  let ks := flipPairs c
  let done := fun (f : Pair → Pair) (s : Block) =>
    s.modCore c.core fun x => wakeChambers (ks.foldl (fun x k => x.setPair k (f (x.pair k))) x)
  if ks.any fun k => !((s.core c.core).pair k).enabled then .done .internal (done (fun p => { p with flipWait := false }) s)
  else if ks.any fun k => streamBusy s c.core k || busy k then .notYet s
  else .done .ok (done (fun p => { p with upperCompute := !p.upperCompute, flipWait := false }) s)

/-- `tw.pair` (R424, R425, R431, R456). -/
def runPair (c : Cmd) (s : Block) : Work :=
  let (k, base, half) := pairFields c.block
  let old := (s.core c.core).pair k
  let touched := fun (a n : Nat) => (s.core c.core).tw.any fun e => e.2.issued.any fun t => overlap t.ts t.len a n
  if half != 0 && (s.core c.core).pairs.any fun e => e.1 != k && e.2.enabled && overlap base (2 * half) e.2.base (2 * e.2.half) then
    .done .internal s
  else if (old.enabled && touched old.base (2 * old.half)) || touched base (2 * half) then .notYet s
  else
    .done .ok (s.modCore c.core fun x => wakeChambers <| x.setPair k
      (if half = 0 then .init else { enabled := true, base := base, half := half, upperCompute := false, flipWait := false }))

/-- A `tw.` command enters; a flip that is first starts at once. -/
def enterTw (th : Nat) (d : Reg) (pk : Pred) (code : Nat) (q : QueueRef) (b : List Byte) (e : Entry) (s : Block) : Block :=
  startFlip (th / 16) (enterCmd th d pk 5 code q b e s)

def issueTw (th : Nat) (d a : Reg) (pk : Pred) (code : Nat) (s : Block) : BlockResult :=
  issueP th [pk] s (engWord th a 5 code (fun _ b => twEntry code b) (enterTw th d pk code))

def execTwArm (th : Nat) (d a : Reg) (w : EngCode) (s : State) : Result := onBlock s fun s =>
  issueFirst th d a w.pk 5 1 w.code (issueTw th d a w.pk 1) s
def execTwFlip (th : Nat) (d a : Reg) (pk : Pred) (s : State) : Result := onBlock s fun s => issueTw th d a pk 2 s
def execTwPair (th : Nat) (d a : Reg) (pk : Pred) (s : State) : Result := onBlock s fun s => issueTw th d a pk 3 s

end Sys2Proof.Machine
end

