-- ==== Sys2Proof/Machine/Attention.lean ====
section
/-! DEFINITION. Fused attention: descriptors, row tables, visibility, scores, chains, the merge tree, the backward pass,
and the `at.` commands (R554–R603). -/

namespace Sys2Proof.Machine

/-! ### Descriptors and tables (R560–R564, R580, R595) -/

/-- An attention descriptor. -/
structure AtDesc where
  cva : Nat
  uk : Nat
  uv : Nat
  scale : Nat
  window : Nat
  segtab : Nat
  segn : Nat
  heads : Nat
  mode : Nat
  lat : Nat
  rot : Nat
  dhead : Nat
  dv : Nat
  cf : Option Fmt
  qf : Option Fmt
  upCode : Nat
  outf : Option Fmt
  chain : Nat
  work : Nat
  zero : Bool
  deriving DecidableEq, Repr

def descAt (ts : Mem) (a : Nat) : AtDesc :=
  let b := Mem.read ts a 64
  { cva := fld b 0 8, uk := fld b 8 4, uv := fld b 0xC 4, scale := fld b 0x10 4, window := fld b 0x14 4, segtab := fld b 0x18 4,
    segn := fld b 0x1C 2, heads := fld b 0x1E 1, mode := fld b 0x1F 1, lat := fld b 0x20 2, rot := fld b 0x22 2,
    dhead := fld b 0x24 2, dv := fld b 0x26 2, cf := fmtOf (fld b 0x28 1), qf := fmtOf (fld b 0x29 1), upCode := fld b 0x2A 1,
    outf := fmtOf (fld b 0x2B 1), chain := fld b 0x2C 1, work := fld b 0x30 4, zero := allZero b 0x2D 3 && allZero b 0x34 12 }

def AtDesc.absorbed (d : AtDesc) : Bool := bitOf d.mode 0
def AtDesc.causal (d : AtDesc) : Bool := bitOf d.mode 1
def AtDesc.windowed (d : AtDesc) : Bool := bitOf d.mode 2
def AtDesc.segmented (d : AtDesc) : Bool := bitOf d.mode 3
def AtDesc.c (d : AtDesc) : Fmt := d.cf.getD .bf16
def AtDesc.q (d : AtDesc) : Fmt := d.qf.getD .bf16
def AtDesc.up (d : AtDesc) : Fmt := (fmtOf d.upCode).getD .bf16
def AtDesc.o (d : AtDesc) : Fmt := d.outf.getD .bf16
/-- Bytes of an element. -/
def Fmt.size (f : Fmt) : Nat := f.e2 / 2
def AtDesc.recBytes (d : AtDesc) : Nat := (d.lat + d.rot) * d.c.size
/-- Query elements, and output elements. -/
def AtDesc.qd (d : AtDesc) : Nat := if d.absorbed then d.lat + d.rot else d.dhead + d.rot
def AtDesc.outs (d : AtDesc) : Nat := if d.absorbed then d.lat else d.dv
/-- Bytes of a partial record (R575). -/
def recSize (outs : Nat) : Nat := 16 + 4 * outs
def isFp8 (f : Fmt) : Bool := decide (f = .e4m3) || decide (f = .e5m2)
/-- Terms of a K-block of the score product, and of the expansion (R566). -/
def AtDesc.qTerms (d : AtDesc) : Nat := if isFp8 d.q && isFp8 d.c then 32 else 16
def AtDesc.upTerms (d : AtDesc) : Nat := if isFp8 d.up && isFp8 d.c then 32 else 16
/-- Bytes of the up-projection carts of `cols` columns. -/
def AtDesc.upBytes (d : AtDesc) (cols : Nat) : Nat := cols / 64 * (d.lat / (16 * d.up.p)) * d.up.cartSize

/-- An element count per head of expanded mode. -/
def headOk (n : Nat) : Bool := n % 64 == 0 && (64 ≤ n && n ≤ 256)

/-- A cache address (R556). -/
def AtDesc.vaOk (d : AtDesc) (va : Nat) : Bool := va % 65536 == 0 && va % (64 * d.recBytes) == 0

/-- The descriptor's own checks (R555, R556, R560, R566, R586). -/
def AtDesc.ok (d : AtDesc) : Bool :=
  d.zero && (1 ≤ d.heads && d.heads ≤ 128) && bitsOf d.mode 4 4 == 0
    && (!d.windowed || (1 ≤ d.window && d.window ≤ 4194304)) && (!d.segmented || (1 ≤ d.segn && d.segn ≤ 256))
    && d.cf.any (fun f => isFp8 f || decide (f = .bf16)) && d.qf.any (fun f => isFp8 f || decide (f = .bf16))
    && d.outf.any (fun f => decide (f = .bf16) || decide (f = .fp16) || decide (f = .fp32))
    && (64 ≤ d.lat && d.lat % 64 == 0) && (d.rot % 64 == 0 && d.rot ≤ 256) && [256, 512, 1024, 2048, 4096].contains d.recBytes
    && d.chain ≤ 10 && d.work % 256 == 0 && !(decide (d.c = .bf16) && (isFp8 d.q || isFp8 d.up)) && d.vaOk d.cva
    && (if d.absorbed then d.dhead == 0 && d.dv == 0 && d.uk == 0 && d.uv == 0 && d.upCode == 0
        else headOk d.dhead && headOk d.dv && decide (d.q = .bf16) && [1, 3, 4].contains d.upCode)

/-- A row-table entry. -/
structure AtRow where
  cache : Nat
  qpos : Nat
  kv : Nat
  seg : Nat
  new : Nat
  zero : Bool
  deriving DecidableEq, Repr

def rowAt (ts : Mem) (tab i : Nat) : AtRow :=
  let b := Mem.read ts (tab + 32 * i) 32
  { cache := fld b 0 8, qpos := fld b 8 4, kv := fld b 0xC 4, seg := fld b 0x10 4, new := fld b 0x14 4, zero := allZero b 0x18 8 }

/-- Segment-table entries: START's word and the segment number. -/
def segsAt (ts : Mem) (d : AtDesc) : List (Nat × Nat) :=
  if d.segmented then (List.range d.segn).map fun i => (Mem.nat ts (d.segtab + 8 * i) 4, Mem.nat ts (d.segtab + 8 * i + 4) 4)
  else []

def ascending : List Nat → Bool
  | a :: b :: l => decide (a < b) && ascending (b :: l)
  | _ => true

/-- An `at.run` or `at.back` with all that it names in tile store. -/
structure AtJob where
  back : Bool
  d : AtDesc
  rows : List AtRow
  segs : List (Nat × Nat)
  q : Nat
  out : Nat
  stat : Nat
  delta : Nat
  dq : Nat
  dc : Nat
  init : Bool
  blk0 : Nat
  n : Nat
  final : Bool
  level : Nat
  append : Bool
  desc : Nat
  rowtab : Nat
  deriving DecidableEq, Repr

/-- Rows a block's body names. -/
def atRows (b : List Byte) (back : Bool) : Nat := if back then fld b 0x3F 1 + 1 else fld b 0x30 2

def atJobOf (ts : Mem) (b : List Byte) (back : Bool) : AtJob :=
  let d := descAt ts (fld b 0x18 4)
  let tab := fld b 0x1C 4
  { back := back, d := d, rows := (List.range (atRows b back)).map (rowAt ts tab), segs := segsAt ts d, q := fld b 0x20 4,
    out := fld b 0x24 4, stat := if back then fld b 0x2C 4 else fld b 0x28 4, delta := fld b 0x28 4, dq := fld b 0x30 4,
    dc := fld b 0x38 6, init := bitOf (fld b 0x3E 1) 0, blk0 := if back then fld b 0x34 2 else fld b 0x2C 2,
    n := (if back then fld b 0x36 2 else fld b 0x2E 2) + 1, final := !back && bitOf (fld b 0x32 1) 0,
    level := bitsOf (fld b 0x32 1) 1 4, append := !back && bitOf (fld b 0x33 1) 0, desc := fld b 0x18 4, rowtab := tab }

def AtJob.rh (j : AtJob) : Nat := j.rows.length * j.d.heads
def AtJob.cacheOf (j : AtJob) (r : AtRow) : Nat := if r.cache = 0 then j.d.cva else r.cache
/-- Chains that the range touches. -/
def AtJob.chains (j : AtJob) : Nat := (j.blk0 + j.n - 1) / 2 ^ j.d.chain - j.blk0 / 2 ^ j.d.chain + 1
/-- Nodes that a command with FINAL clear writes for each row and head (R576). -/
def AtJob.nodes (j : AtJob) : Nat := j.n / 2 ^ (j.d.chain + j.level)

/-- ⌈log₂ n⌉. -/
def ceilLog2 (n : Nat) : Nat := if n ≤ 1 then 0 else Nat.log2 (n - 1) + 1

/-- Bytes of the work region (R577). -/
def AtJob.workBytes (j : AtJob) : Nat :=
  64 * j.d.recBytes
    + (if j.back then j.rh * 512
       else j.rh * (384 + (if j.final then ceilLog2 j.chains + 1 else j.level) * recSize j.d.outs))
    + if j.d.absorbed then 0 else 256 * (j.d.dhead + j.d.dv)

/-- The regions that a program must not write, and those that it must not touch, until the command completes (R578). -/
def AtJob.reads (j : AtJob) : List (Nat × Nat) :=
  [(j.desc, 64), (j.rowtab, 32 * j.rows.length), (j.q, j.rh * j.d.qd * j.d.q.size)]
    ++ (if j.d.segmented then [(j.d.segtab, 8 * j.d.segn)] else [])
def AtJob.writes (j : AtJob) : List (Nat × Nat) :=
  (j.d.work, j.workBytes) :: if j.back then [(j.dq, 4 * j.rh * j.d.qd)]
    else if j.final then [(j.out, j.rh * j.d.outs * j.d.o.size), (j.stat, 8 * j.rh)]
    else [(j.out, j.rh * j.nodes * recSize j.d.outs)]
def AtJob.others (j : AtJob) : List (Nat × Nat) :=
  (if j.d.absorbed then [] else [(j.d.uk, j.d.upBytes (j.d.heads * j.d.dhead)), (j.d.uv, j.d.upBytes (j.d.heads * j.d.dv))])
    ++ (if j.back then [(j.out, 2 * j.rh * j.d.outs), (j.delta, 4 * j.rh), (j.stat, 8 * j.rh)] else [])
    ++ if j.append then j.rows.map fun r => (r.new, j.d.recBytes) else []
/-- Every region that the command names. -/
def AtJob.regions (j : AtJob) : List (Nat × Nat) := j.reads ++ j.writes ++ j.others

/-- No two regions overlap. -/
def disjoint : List (Nat × Nat) → Bool
  | [] => true
  | r :: l => l.all (fun x => !overlap r.1 r.2 x.1 x.2) && disjoint l

/-- The checks of R585: the command completes with POS_LIMIT. -/
def posLimit (ts : Mem) (b : List Byte) (back full : Bool) : Bool :=
  let blk := if back then 0x34 else 0x2C
  let n := atRows b back
  let tab := fld b 0x1C 4
  let desc := fld b 0x18 4
  decide (65535 < fld b blk 2 + fld b (blk + 2) 2)
    || (full && decide (n ≤ 256) && inTile tab (32 * n) && ((List.range n).any fun i =>
      let r := rowAt ts tab i
      decide (2 ^ 22 ≤ r.qpos) || decide (4194304 < r.kv)))
    || (full && inTile desc 64 &&
      let d := descAt ts desc
      d.segmented && decide (d.segn ≤ 256) && inTile d.segtab (8 * d.segn) && (segsAt ts d).any fun x => decide (2 ^ 22 ≤ x.1))

/-- The checks of a body alone (R562, R586, R595). -/
def atBodyOk (b : List Byte) (back : Bool) : Bool :=
  let n := atRows b back
  (1 ≤ n && n ≤ 256) && fld b 0x18 4 % 64 == 0 && inTile (fld b 0x18 4) 64 && inTile (fld b 0x1C 4) (32 * n)
    && (if back then bitsOf (fld b 0x3E 1) 1 7 == 0 && fld b 0x38 6 % 256 == 0
        else bitsOf (fld b 0x32 1) 5 3 == 0 && bitsOf (fld b 0x33 1) 1 7 == 0 && allZero b 0x34 12)

/-- The checks that need the tables in tile store (R586). -/
def AtJob.ok (j : AtJob) : Bool :=
  j.d.ok && ascending (j.segs.map (·.1))
    && j.rows.all (fun r => r.zero && (if j.back then r.cache == 0 else j.d.vaOk r.cache))
    && (j.back || j.final || (j.blk0 % 2 ^ (j.d.chain + j.level) == 0 && j.n % 2 ^ (j.d.chain + j.level) == 0))
    && rangesOk j.regions && disjoint j.regions

/-! ### Visibility (R563–R565) -/

/-- The segment of a position. -/
def segOf (segs : List (Nat × Nat)) (p : Nat) : Option Nat :=
  ((segs.filter fun x => decide (x.1 ≤ p)).getLast?).map (·.2)

/-- Position `p` is visible to a row. -/
def AtJob.sees (j : AtJob) (r : AtRow) (p : Nat) : Bool :=
  decide (p < r.kv) && decide (64 * j.blk0 ≤ p) && decide (p < 64 * (j.blk0 + j.n)) && (!j.d.causal || decide (p ≤ r.qpos))
    && (!j.d.windowed || (decide (r.qpos < p + j.d.window) && (j.d.causal || decide (p < r.qpos + j.d.window))))
    && (!j.d.segmented || segOf j.segs p == some r.seg)

/-- The positions of a block visible to a row, within the block. -/
def AtJob.seen (j : AtJob) (r : AtRow) (blk : Nat) : List Nat := (List.range 64).filter fun i => j.sees r (64 * blk + i)

/-- Rows with a visible position of a block, by index. -/
def AtJob.seers (j : AtJob) (blk : Nat) : List (Nat × AtRow) :=
  (j.rows.zipIdx.filter fun x => !(j.seen x.1 blk).isEmpty).map fun x => (x.2, x.1)

def AtJob.blocks (j : AtJob) : List Nat := (List.range j.n).map (j.blk0 + ·)

/-- The (cache, block) pairs a command reads, in block order (R565). -/
def AtJob.toRead (j : AtJob) : List (Nat × Nat) :=
  j.blocks.flatMap fun b => (((j.seers b).map fun x => j.cacheOf x.2).eraseDups).map fun c => (c, b)

/-! ### Weight (R591, R592, R904) -/

/-- Wavefronts of a pass of M rows (R248). -/
def passWaves (m : Nat) : Nat := if m < 16 then m + 16 else m + 1

/-- Wavefronts of one key block with `nb` rows that see it. -/
def AtJob.blockWaves (j : AtJob) (nb : Nat) : Nat :=
  let d := j.d
  let mb := d.heads * nb
  let pq := d.qTerms / 16
  let pu := d.upTerms / 16
  match j.back, d.absorbed with
  | false, true => ((d.lat + d.rot) / (16 * pq) + d.lat / 16) * passWaves mb
  | false, false =>
    d.heads * (d.lat / (16 * pu) * ((d.dhead + d.dv) / 64) * 65 + ((d.dhead + d.rot) / 16 + d.dv / 16) * passWaves nb)
  | true, true =>
    ((d.lat + d.rot) / (16 * pq) + d.lat / 16 + (d.lat + d.rot) / 16) * passWaves mb
      + ceilDiv mb 16 * (passWaves (d.lat + d.rot) + passWaves d.lat)
  | true, false => Config.backWaves d.heads d.lat d.rot d.dhead d.dv nb

def AtJob.waves (j : AtJob) : Nat :=
  (j.blocks.map fun b => if (j.seers b).isEmpty then 0 else j.blockWaves (j.seers b).length).sum

/-! ### Partials (R567–R572) -/

/-- A partial (m, l, O). -/
structure AtPartial where
  m : Val
  l : Val
  o : List Val
  deriving DecidableEq, Repr

def emptyPartial (outs : Nat) : AtPartial :=
  { m := .inf true, l := .fin false 0 0, o := List.replicate outs (.fin false 0 0) }
def AtPartial.isEmpty (p : AtPartial) : Bool := decide (p.m = .inf true)

/-- A value rounded to BF16. -/
def toBf16 (v : Val) : Val := decodeFmt .bf16 (convert .bf16 none v).1
/-- The FP32 word of a value. -/
def f32Word (v : Val) : Nat := (convert .fp32 none v).1

/-- Runs of `n` elements. -/
def chunks {α : Type} (n : Nat) (l : List α) : List (List α) :=
  (List.range (ceilDiv l.length n)).map fun i => (l.drop (i * n)).take n

/-- K-block sums of terms added in ascending order from +0 (R250, R320, R324). -/
def sumBlocks (blocks : List (List Val)) : Summed :=
  accumulate .fp32 { w := 0, sat := false, nan := false } (blocks.map (kblock .fp32))

/-- A dot product in K-blocks of `n` terms. -/
def dot (n : Nat) (xs ys : List Val) : Summed := sumBlocks (chunks n (List.zipWith Val.mul xs ys))

/-- The score of a query against a key, and whether it saturated (R567). -/
def AtDesc.score (d : AtDesc) (q key : List Val) : Val × Bool :=
  let t := dot (if d.absorbed then d.qTerms else 16) q key
  let p := (f32Val d.scale).mul (f32Val t.w)
  (f32Val (mulF32 (f32Val d.scale) (f32Val t.w)), t.sat || p.isInf || (toF32 p).2)

/-- Elements of a run of bytes. -/
def elems (f : Fmt) (bs : List Byte) (n : Nat) : List Val := (List.range n).map fun i => decodeFmt f (elemWord f bs i)

/-- Column `c` of the up-projection carts at `a`. -/
def AtDesc.upCol (d : AtDesc) (ts : Mem) (a c : Nat) : List Val :=
  let tiles := d.lat / (16 * d.up.p)
  (List.range d.lat).map fun k =>
    cartVal d.up (Mem.read ts (a + (c / 64 * tiles + k / (16 * d.up.p)) * d.up.cartSize) d.up.cartSize) (k % (16 * d.up.p)) (c % 64)

/-- A latent expanded by columns of the carts at `a`, rounded to BF16. -/
def AtDesc.expand (d : AtDesc) (ts : Mem) (a c0 n : Nat) (lat : List Val) : List Val :=
  (List.range n).map fun i => toBf16 (f32Val (dot d.upTerms lat (d.upCol ts a (c0 + i))).w)

/-- The key and the value of a record for a head (R567). -/
def AtDesc.keyOf (d : AtDesc) (ts : Mem) (h : Nat) (r : List Val) : List Val :=
  if d.absorbed then r else d.expand ts d.uk (h * d.dhead) d.dhead (r.take d.lat) ++ r.drop d.lat
def AtDesc.valueOf (d : AtDesc) (ts : Mem) (h : Nat) (r : List Val) : List Val :=
  if d.absorbed then r.take d.lat else d.expand ts d.uv (h * d.dv) d.dv (r.take d.lat)

/-- The visible positions of a block for one row and head: keys, with their values. `pos` is the place in the block. -/
structure Seen where
  pos : Nat
  key : List Val
  value : List Val
  deriving DecidableEq, Repr

/-- A sum over the 64 positions of a block in K-blocks of 16 positions; positions that are not visible take no part. -/
def overBlock (xs : List Seen) (f : Seen → Val) : Val :=
  f32Val (sumBlocks ((List.range 4).map fun k => (xs.filter fun x => x.pos / 16 == k).map f)).w

/-- A block enters a partial (R568), with the scores that saturated. -/
def stepBlock (d : AtDesc) (q : List Val) (xs : List Seen) (p : AtPartial) : AtPartial × Nat :=
  match xs with
  | [] => (p, 0)
  | x :: rest =>
    let ss := xs.map fun y => d.score q y.key
    let mb := rest.foldl (fun m y => minMax false m (d.score q y.key).1) (d.score q x.key).1
    let m := minMax false p.m mb
    let a := (fSub p.m m).exp .fp32
    let ps := ss.map fun s => toBf16 ((fSub s.1 m).exp .fp32)
    let lane := fun i => match (xs.zip ps).find? fun y => y.1.pos == i with
      | some y => y.2
      | none => .fin true 0 0
    let sum := (treeFold sumStep 6 ((List.range 64).map lane)).1
    let o := p.o.zipIdx.map fun (v, i) =>
      fFma v a (f32Val (sumBlocks ((List.range 4).map fun k =>
        ((xs.zip ps).filter fun y => y.1.pos / 16 == k).map fun y => y.2.mul (y.1.value.getD i .nan))).w)
    ({ m := m, l := fFma p.l a sum, o := o }, (ss.filter (·.2)).length)

/-- The merge of a lower and a higher partial (R569). -/
def mergePartials (a b : AtPartial) : AtPartial :=
  if a.isEmpty then b
  else if b.isEmpty then a
  else
    let m := minMax false a.m b.m
    let x := (fSub a.m m).exp .fp32
    let y := (fSub b.m m).exp .fp32
    { m := m, l := fFma a.l x (fMul b.l y), o := List.zipWith (fun u v => fFma u x (fMul v y)) a.o b.o }

/-- One level of the tree over nodes by absolute index (R570): a missing sibling is empty. -/
def treeLevel : List (Nat × AtPartial) → List (Nat × AtPartial)
  | (i, a) :: (k, b) :: rest =>
    if i / 2 = k / 2 then (i / 2, mergePartials a b) :: treeLevel rest else (i / 2, a) :: treeLevel ((k, b) :: rest)
  | l => l.map fun x => (x.1 / 2, x.2)

def treeLevels : Nat → List (Nat × AtPartial) → List (Nat × AtPartial)
  | 0, l => l
  | n + 1, l => treeLevels n (treeLevel l)

/-- The root. -/
def treeRoot (outs : Nat) (l : List (Nat × AtPartial)) : AtPartial :=
  match treeLevels 24 l with
  | x :: _ => x.2
  | [] => emptyPartial outs

/-- What a result is written as: its outputs before and after conversion with their saturations, and its statistics
(R571, R572). -/
def resultOf (f : Fmt) (p : AtPartial) : List Val × List (Nat × Counts) × Nat × Nat :=
  if p.isEmpty then (p.o, p.o.map fun _ => (0, .zero), 0xFF800000, 0xFF800000)
  else
    let o := p.o.map fun v => roundIeee .fp32 (v.div p.l)
    (o, o.map (convert f none), f32Word p.m, f32Word (fAdd p.m (p.l.log .fp32)))

/-- The bytes of a partial record (R576). -/
def recordBytes (p : AtPartial) : List Byte :=
  leBytes 4 (f32Word p.m) ++ leBytes 4 (f32Word p.l) ++ zeros 8 ++ p.o.flatMap fun v => leBytes 4 (f32Word v)

/-! ### Reading caches and appending (R565, R582–R584, R590, R599–R601) -/

/-- The pieces of one block's work between stop points: its heads in expanded mode (R599). -/
def AtJob.blockPieces (j : AtJob) : Nat := if j.d.absorbed then 1 else j.d.heads
/-- Pieces of a command's blocks. -/
def AtJob.pieces (j : AtJob) : Nat := j.n * j.blockPieces
/-- Appends that a command makes before its blocks. -/
def AtJob.appends (j : AtJob) : Nat := if j.append then j.rows.length else 0
/-- The block of a piece, and its heads. -/
def AtJob.blockOf (j : AtJob) (i : Nat) : Nat := j.blk0 + i / j.blockPieces
def AtJob.headsOf (j : AtJob) (i : Nat) : List Nat := if j.d.absorbed then List.range j.d.heads else [i % j.d.heads]
/-- A piece is the last of its block. -/
def AtJob.lastPiece (j : AtJob) (i : Nat) : Bool := (i + 1) % j.blockPieces == 0

/-- `BS_AT_POS_s` at a position, which counts appends and then pieces: BLOCK, PHASE and HEAD (R599, R603). -/
def AtJob.posWord (j : AtJob) (pos : Nat) : Nat :=
  if pos < j.appends then j.blk0
  else if pos - j.appends < j.pieces then
    let i := pos - j.appends
    j.blockOf i + 2 ^ 16 + 2 ^ 18 * (i % j.blockPieces)
  else j.blk0 + j.n - 1 + 2 * 2 ^ 16

/-- Rows append in order from row `k` (R582); of two rows that append to one position either record is left (R583). -/
def appendRows (w : Who) (j : AtJob) : Nat → List AtRow → Nat → Block → Option (Status × Nat × Nat) × Block
  | 0, _, _, s => (none, s)
  | _, [], _, s => (none, s)
  | n + 1, r :: rest, k, s =>
    let va := j.cacheOf r + r.qpos * j.d.recBytes
    let twin := (j.rows.take k).any fun x => j.cacheOf x == j.cacheOf r && x.qpos == r.qpos
    let (keep, s) := if twin then s.freeBelow 2 else (0, s)
    if keep = 1 then appendRows w j n rest (k + 1) s
    else
      match vwrite w (some w.basin) va (Mem.read (s.core (w.basin * 16 + w.slot)).ts r.new j.d.recBytes) s with
      | (.error (st, fva), s) => (some (st, fva, k), s)
      | (.ok _, s) => appendRows w j n rest (k + 1) s

/-- Each byte of an append that ends in a fault keeps its old value or takes the new one (R601). -/
def tornAppend (w : Who) : Nat → List Byte → Block → Block
  | _, [], s => s
  | va, b :: rest, s =>
    let (n, s) := s.freeBelow 2
    tornAppend w (va + 1) rest (if n = 0 then s else
      match vwrite w (some w.basin) va [b] s with
      | (.ok _, s) => s
      | (.error _, _) => s)

/-- The append of row `k` has ended in a fault. -/
def AtJob.tear (j : AtJob) (w : Who) (k : Nat) (s : Block) : Block :=
  match (j.rows.take j.appends)[k]? with
  | none => s
  | some r => tornAppend w (j.cacheOf r + r.qpos * j.d.recBytes) (Mem.read (s.core (w.basin * 16 + w.slot)).ts r.new j.d.recBytes) s

/-- Some page that a command has still to append to is MOVING (R466). -/
def AtJob.appendHeld (j : AtJob) (s : Block) (ctx pos : Nat) : Bool :=
  ((j.rows.take j.appends).drop pos).any fun r => writeHeld s ctx (j.cacheOf r + r.qpos * j.d.recBytes) j.d.recBytes accWrite

/-- The caches that a block is read from (R565). -/
def AtJob.cachesOf (j : AtJob) (blk : Nat) : List Nat := ((j.seers blk).map fun x => j.cacheOf x.2).eraseDups

/-- A key block is read for each of some caches, in order; the first that fails. -/
def readBlocks (w : Who) (j : AtJob) (blk : Nat) : List Nat → Block → Access (List (Nat × List Byte)) × Block
  | [], s => (.ok [], s)
  | c :: rest, s =>
    match vread w (some w.basin) (c + 64 * blk * j.d.recBytes) (64 * j.d.recBytes) s with
    | (.error e, s) => (.error e, s)
    | (.ok bs, s) =>
      match readBlocks w j blk rest s with
      | (.error e, s) => (.error e, s)
      | (.ok l, s) => (.ok ((c, bs) :: l), s)

/-- The records of the staged block for a cache. -/
def recordsOf (j : AtJob) (l : List (Nat × List Byte)) (c : Nat) : List (List Val) :=
  match l.find? fun x => x.1 == c with
  | none => []
  | some x => (List.range 64).map fun i => elems j.d.c ((x.2.drop (i * j.d.recBytes)).take j.d.recBytes) (j.d.lat + j.d.rot)

/-- What a row and head see of the staged block. -/
def AtJob.seenOf (j : AtJob) (ts : Mem) (l : List (Nat × List Byte)) (r : AtRow) (h blk : Nat) : List Seen :=
  let recs := recordsOf j l (j.cacheOf r)
  (j.seen r blk).map fun i =>
    let x := recs.getD i []
    { pos := i, key := j.d.keyOf ts h x, value := j.d.valueOf ts h x }

def AtJob.query (j : AtJob) (ts : Mem) (i : Nat) : List Val :=
  elems j.d.q (Mem.read ts (j.q + i * j.d.qd * j.d.q.size) (j.d.qd * j.d.q.size)) j.d.qd

/-! ### The running state (R568, R599) -/

/-- What a command holds between two pieces of its work: the scores that saturated, the chain partials of each row and
head, and the block staged from each cache. -/
structure AtHeld where
  sat : Nat
  parts : List (List AtPartial)
  staged : List (Nat × List Byte)
  deriving DecidableEq, Repr

/-- The words of a partial. -/
def AtPartial.words (p : AtPartial) : List Nat := f32Word p.m :: f32Word p.l :: p.o.map f32Word
def partialOf (ws : List Nat) : AtPartial :=
  { m := f32Val (ws.getD 0 0), l := f32Val (ws.getD 1 0), o := (ws.drop 2).map f32Val }

/-- The running state as a stopped command keeps it, and back. -/
def AtHeld.words (h : AtHeld) : List Nat :=
  h.sat :: (h.parts.flatten.flatMap AtPartial.words ++ h.staged.flatMap fun x => x.1 :: x.2.map (·.toNat))
def AtJob.heldOf (j : AtJob) (ws : List Nat) : AtHeld :=
  let size := j.d.outs + 2
  let n := if j.back then 0 else j.rh * j.chains
  let ps := chunks size ((ws.drop 1).take (n * size))
  { sat := ws.headD 0, parts := chunks j.chains (ps.map partialOf),
    staged := (chunks (64 * j.d.recBytes + 1) (ws.drop (1 + n * size))).map fun x => (x.headD 0, x.tail.map (BitVec.ofNat 8)) }

/-- The running state of a command that has done none of its blocks. -/
def AtJob.heldAtStart (j : AtJob) : AtHeld :=
  { sat := 0, parts := if j.back then [] else List.replicate j.rh (List.replicate j.chains (emptyPartial j.d.outs)), staged := [] }

/-- The running state as a command begins or resumes at a position. -/
def AtJob.heldAt (j : AtJob) (c : Cmd) : AtHeld := if c.pos ≤ j.appends then j.heldAtStart else j.heldOf c.carried

/-- The block of piece `i` is staged, unless a piece before it has done so. -/
def AtJob.stage (j : AtJob) (w : Who) (i : Nat) (h : AtHeld) (s : Block) : Access AtHeld × Block :=
  if h.staged.isEmpty then
    match readBlocks w j (j.blockOf i) (j.cachesOf (j.blockOf i)) s with
    | (.error e, s) => (.error e, s)
    | (.ok l, s) => (.ok { h with staged := l }, s)
  else (.ok h, s)

/-- The pieces from `i` on, `n` of them, by `f`; the first that fails, with its number. -/
def takePieces (f : Nat → AtHeld → Block → Access AtHeld × Block) :
    Nat → Nat → AtHeld → Block → Option (Status × Nat × Nat) × AtHeld × Block
  | 0, _, h, s => (none, h, s)
  | n + 1, i, h, s =>
    match f i h s with
    | (.error (st, va), s) => (some (st, va, i), h, s)
    | (.ok h, s) => takePieces f n (i + 1) h s

/-- Piece `i` of an `at.run`: its heads take the block into the partials of its chain (R568). -/
def AtJob.runPiece (j : AtJob) (w : Who) (core i : Nat) (h : AtHeld) (s : Block) : Access AtHeld × Block :=
  match j.stage w i h s with
  | (.error e, s) => (.error e, s)
  | (.ok h, s) =>
    let ts := (s.core core).ts
    let blk := j.blockOf i
    let chain := blk / 2 ^ j.d.chain - j.blk0 / 2 ^ j.d.chain
    let new := h.parts.zipIdx.map fun (l, k) =>
      match j.rows[k / j.d.heads]?, (j.headsOf i).contains (k % j.d.heads) with
      | some r, true =>
        let x := stepBlock j.d (j.query ts k) (j.seenOf ts h.staged r (k % j.d.heads) blk) (l.getD chain (emptyPartial j.d.outs))
        (l.set chain x.1, x.2)
      | _, _ => (l, 0)
    (.ok { sat := h.sat + (new.map (·.2)).sum, parts := new.map (·.1), staged := if j.lastPiece i then [] else h.staged }, s)

/-- The chain partials of a row and head, by absolute chain number. -/
def AtJob.leaves (j : AtJob) (l : List AtPartial) : List (Nat × AtPartial) :=
  l.zipIdx.map fun (p, i) => (j.blk0 / 2 ^ j.d.chain + i, p)

/-! ### Ends -/

/-- Every byte of tile-store ranges takes an unpredictable value. -/
def scrambleRanges (core : Nat) (rs : List (Nat × Nat)) (s : Block) : Block :=
  scrambleTile core (rs.flatMap fun r => (List.range r.2).map (r.1 + ·)) 1 s

/-- A broken R578: each byte of the command's regions is what the command or the program would leave (R579). -/
def mixBytes (old : Mem) (core : Nat) : List Nat → Block → Block
  | [], s => s
  | a :: as, s =>
    let (n, s) := s.freeBelow 2
    mixBytes old core as (if n = 0 then s else s.modCore core fun c => { c with ts := Mem.setByte c.ts a (Mem.byte old a) })

def mixRegions (c : Cmd) (rs : List (Nat × Nat)) (before s : Block) : Block :=
  if c.broken then mixBytes (before.core c.core).ts c.core (rs.flatMap fun r => (List.range r.2).map (r.1 + ·)) s else s

/-- An `at.` command ends with a fault's status (R601); INTERNAL leaves no summary (R216). -/
def atFail (c : Cmd) (writes : List (Nat × Nat)) (st : Status) (va : Nat) (s : Block) : Block :=
  let s := scrambleRanges c.core writes s
  engineEvent c.core st va (if st = .internal then s else freeSummary c.core 6 c.index none none s)
def atEnd (c : Cmd) (writes : List (Nat × Nat)) (st : Status) (va : Nat) (s : Block) : Work :=
  .done st (atFail c writes st va s)

/-- An `at.` command stops at a position with its running state: for a page, or as it is asked to. -/
def atFault (c : Cmd) (va pos : Nat) (h : AtHeld) (s : Block) : Work :=
  .fault va pos (s.holdCmd (.mx c.core) c.id h.words)

/-- Positions visible, in (row, position) pairs. -/
def AtJob.pairs (j : AtJob) : Nat := (j.blocks.map fun b => (j.rows.map fun r => (j.seen r b).length).sum).sum

/-- OK, or EMPTY_ROW when rows are empty (R594). -/
def emptyStatus (n : Nat) : Status := if n = 0 then .ok else .emptyRow

/-- The summary of an `at.` command: values in groups of 64 (R593). -/
def atSummary (index : Nat) (vals : List (List Val)) (sat mask empty : Nat) : Summary :=
  let x := (vals.flatMap fun v => (chunks 64 v).map fun g => g.map some).foldl (fun (x : PartSum) g => x.addGroup 6 g)
    { PartSum.zero with sat := sat, mask := mask }
  { x.done 6 index with emptyRows := empty }

/-- Write results, with their statistics, for each row and head (R571, R575): the core, the values before conversion and
the saturations. -/
def writeResults (f : Fmt) (out stat outs : Nat) (ps : List AtPartial) (k : Core) : Core × List (List Val) × Nat :=
  ps.zipIdx.foldl (fun (acc : Core × List (List Val) × Nat) x =>
    let (vs, ws, m, lse) := resultOf f x.1
    let k := acc.1.tsWrite (out + x.2 * outs * f.size) (ws.flatMap fun w => leBytes f.size w.1)
    let k := k.tsWrite (stat + 8 * x.2) (leBytes 4 m ++ leBytes 4 lse)
    (k, acc.2.1 ++ [vs], acc.2.2 + (ws.map fun w => w.2.sat).sum)) (k, [], 0)

/-- `at.run` once its blocks are done: its final writes. -/
def finishRun (c : Cmd) (j : AtJob) (h : AtHeld) (s : Block) : Work :=
  let k := s.core c.core
  let (k', vals, n, empty) :=
    if j.final then
      let roots := h.parts.map fun l => treeRoot j.d.outs (j.leaves l)
      let (k', vals, n) := writeResults j.d.o j.out j.stat j.d.outs roots k
      (k', vals, n, ((chunks j.d.heads roots).filter fun g => g.all AtPartial.isEmpty).length)
    else
      let recs := h.parts.flatMap fun l => (treeLevels j.level (j.leaves l)).map (·.2)
      (k.tsWrite j.out (recs.flatMap recordBytes), recs.map (·.o), 0, 0)
  let s' := scrambleRanges c.core [(j.d.work, j.workBytes)] (s.setCore c.core k')
  .done (emptyStatus empty) (leaveSummary c.core (atSummary c.index vals (h.sat + n) j.pairs empty)
    (mixRegions c (j.reads ++ j.writes) s s'))

/-- The tile-store tables that an `at.run` or `at.back` reads first. -/
def atTables (ts : Mem) (b : List Byte) (back : Bool) : List (Nat × Nat) :=
  let d := descAt ts (fld b 0x18 4)
  (fld b 0x18 4, 64) :: (fld b 0x1C 4, 32 * atRows b back) :: (if d.segmented then [(d.segtab, 8 * d.segn)] else [])

/-- How far a command with `n` appends and `p` pieces goes: the appends have one stop point, after the last. -/
def atTo (limit : Option Nat) (pos n p : Nat) : Nat :=
  match limit with
  | none => n + p
  | some k => if pos < n then n else min (n + p) (pos + k)

/-- `at.run` (R562–R578, R582–R584, R599–R601), from its last stop point. -/
def runAt (c : Cmd) (limit : Option Nat) (s : Block) : Work :=
  let j := atJobOf (s.core c.core).ts c.block false
  let w := whoCore s c.core 5 0
  if noPoint limit c.pos (j.appends + j.pieces) || chamberHeld s c.core j.regions || j.appendHeld s w.ctx c.pos then .notYet s
  else
    match (s.core c.core).badRanges j.regions with
    | some x => atEnd c j.writes .eccUncorrectable 0 (eccSram c.core x false s)
    | none =>
      let last := atTo limit c.pos j.appends j.pieces
      let h := j.heldAt c
      match appendRows w j (j.appends - c.pos) (j.rows.drop c.pos) c.pos s with
      | (some (st, va, k), s) => if st = .notResident then atFault c va k h s else atEnd c j.writes st va (j.tear w k s)
      | (none, s) =>
        let i := c.pos - j.appends
        match takePieces (j.runPiece w c.core) (last - j.appends - i) i h s with
        | (some (st, va, k), h, s) => if st = .notResident then atFault c va (j.appends + k) h s else atEnd c j.writes st va s
        | (none, h, s) =>
          match limit with
          | some _ => .point last h.words s
          | none => finishRun c j h s

/-! ### at.merge (R580, R581) -/

/-- The fields of `at.merge`. -/
structure AtMerge where
  src : Nat
  out : Nat
  stat : Nat
  nodes : Nat
  rows : Nat
  outs : Nat
  heads : Nat
  flags : Nat
  f : Option Fmt
  deriving DecidableEq, Repr

def mergeOf (b : List Byte) : AtMerge :=
  { src := fld b 0x18 4, out := fld b 0x1C 4, stat := fld b 0x20 4, nodes := fld b 0x24 2, rows := fld b 0x26 2,
    outs := fld b 0x28 2, heads := fld b 0x2A 1, flags := fld b 0x2B 1, f := fmtOf (fld b 0x2C 1) }

def AtMerge.final (m : AtMerge) : Bool := bitOf m.flags 0
def AtMerge.o (m : AtMerge) : Fmt := m.f.getD .bf16
def AtMerge.writes (m : AtMerge) : List (Nat × Nat) :=
  let n := m.rows * m.heads
  if m.final then [(m.out, n * m.outs * m.o.size), (m.stat, 8 * n)] else [(m.out, n * recSize m.outs)]
def AtMerge.ranges (m : AtMerge) : List (Nat × Nat) := (m.src, m.rows * m.heads * m.nodes * recSize m.outs) :: m.writes

/-- The checks of `at.merge` (R580, R586). -/
def mergeEntry (b : List Byte) : Entry :=
  let m := mergeOf b
  .when ((1 ≤ m.nodes && m.nodes ≤ 4096) && (1 ≤ m.rows && m.rows ≤ 256) && (m.outs % 64 == 0 && 64 ≤ m.outs && m.outs ≤ 2048)
    && (1 ≤ m.heads && m.heads ≤ 128) && bitsOf m.flags 1 7 == 0
    && m.f.any (fun f => decide (f = .bf16) || decide (f = .fp16) || decide (f = .fp32)) && allZero b 0x2D 19
    && rangesOk m.ranges && disjoint m.ranges) .light

/-- The partial in a record. -/
def partialAt (ts : Mem) (a outs : Nat) : AtPartial :=
  { m := f32Val (Mem.nat ts a 4), l := f32Val (Mem.nat ts (a + 4) 4),
    o := (List.range outs).map fun i => f32Val (Mem.nat ts (a + 16 + 4 * i) 4) }

/-- `at.merge`, which has no stop point of its own (R599). -/
def runMerge (c : Cmd) (limit : Option Nat) (s : Block) : Work :=
  let m := mergeOf c.block
  if limit.isSome || chamberHeld s c.core m.ranges then .notYet s
  else
    match (s.core c.core).badRanges m.ranges with
    | some x => atEnd c m.writes .eccUncorrectable 0 (eccSram c.core x false s)
    | none =>
      let k := s.core c.core
      let ins := (List.range (m.rows * m.heads)).map fun i => (List.range m.nodes).map fun n =>
        (n, partialAt k.ts (m.src + (i * m.nodes + n) * recSize m.outs) m.outs)
      let roots := ins.map (treeRoot m.outs)
      let mask := (ins.map fun l => (l.filter fun x => !x.2.isEmpty).length).sum
      let (k', vals, n, empty) :=
        if m.final then
          let (k', vals, n) := writeResults m.o m.out m.stat m.outs roots k
          (k', vals, n, ((chunks m.heads roots).filter fun g => g.all AtPartial.isEmpty).length)
        else (k.tsWrite m.out (roots.flatMap recordBytes), roots.map (·.o), 0, 0)
      .done (emptyStatus empty) (leaveSummary c.core (atSummary c.index vals n mask empty)
        (mixRegions c m.ranges s (s.setCore c.core k')))

/-! ### at.back (R595–R598) -/

/-- What one row and head contribute at one visible position: the position, BF16 P and dS. -/
structure Grad where
  i : Nat
  head : Nat
  pos : Nat
  p : Val
  ds : Val
  key : List Val
  deriving DecidableEq, Repr

/-- Statistics saved by the forward pass. -/
def AtJob.statOf (j : AtJob) (ts : Mem) (i : Nat) : Nat × Nat := (Mem.nat ts (j.stat + 8 * i) 4, Mem.nat ts (j.stat + 8 * i + 4) 4)
def AtJob.isEmptyStat (j : AtJob) (ts : Mem) (i : Nat) : Bool := j.statOf ts i == (0xFF800000, 0xFF800000)
def AtJob.dOut (j : AtJob) (ts : Mem) (i : Nat) : List Val :=
  elems .bf16 (Mem.read ts (j.out + 2 * i * j.d.outs) (2 * j.d.outs)) j.d.outs

/-- P and dS of a row and head over a block, with the scores that saturated (R596). -/
def AtJob.gradsOf (j : AtJob) (ts : Mem) (l : List (Nat × List Byte)) (ri : Nat) (r : AtRow) (h blk : Nat) : List Grad × Nat :=
  let i := ri * j.d.heads + h
  if j.isEmptyStat ts i then ([], 0)
  else
    let q := j.query ts i
    let lse := f32Val (j.statOf ts i).2
    let delta := f32Val (Mem.nat ts (j.delta + 4 * i) 4)
    let dOut := j.dOut ts i
    let all := (j.seenOf ts l r h blk).map fun x =>
      let (sc, sat) := j.d.score q x.key
      let p := toBf16 ((fSub sc lse).exp .fp32)
      let dp := f32Val (dot 16 dOut x.value).w
      (({ i := i, head := h, pos := x.pos, p := p, ds := toBf16 (fMul p (fSub dp delta)), key := x.key } : Grad), sat)
    (all.map (·.1), (all.filter (·.2)).length)

/-- SCALE times a sum, in FP32 (R596). -/
def AtDesc.scaledSum (d : AtDesc) (x : Summed) : Val := f32Val (mulF32 (f32Val d.scale) (f32Val x.w))

/-- The contribution of a block to the query gradient of row and head `i`. -/
def AtJob.dqTerm (j : AtJob) (gs : List Grad) : List Val :=
  (List.range j.d.qd).map fun e =>
    j.d.scaledSum (sumBlocks ((List.range 4).map fun k =>
      (gs.filter fun g => g.pos / 16 == k).map fun g => g.ds.mul (g.key.getD e .nan)))

/-- Terms of the rows and heads that see a block at one position, in K-blocks of 16 of those rows and heads. -/
def rowBlocksOf (order : List Nat) (gs : List Grad) (f : Grad → Val) : Summed :=
  sumBlocks ((chunks 16 order).map fun is => is.filterMap fun i => (gs.find? fun g => g.i == i).map f)

/-- The two terms of a block for one position's record gradient (R596, R597): the dS term on the whole record and the P
term on its latent part. -/
def AtJob.dcTerms (j : AtJob) (ts : Mem) (seers : List Nat) (gs : List Grad) : List Val × List Val :=
  let d := j.d
  let q := fun i => j.query ts i
  if d.absorbed then
    let order := seers.flatMap fun r => (List.range d.heads).map (r * d.heads + ·)
    ((List.range (d.lat + d.rot)).map fun e => d.scaledSum (rowBlocksOf order gs fun g => g.ds.mul ((q g.i).getD e .nan)),
     (List.range d.lat).map fun e => f32Val (rowBlocksOf order gs fun g => g.p.mul ((j.dOut ts g.i).getD e .nan)).w)
  else
    let head := fun (h : Nat) => seers.map (· * d.heads + h)
    let dk := (List.range d.heads).map fun h => (List.range d.qd).map fun e =>
      d.scaledSum (rowBlocksOf (head h) gs fun g => g.ds.mul ((q g.i).getD e .nan))
    let dv := (List.range d.heads).map fun h => (List.range d.dv).map fun e =>
      f32Val (rowBlocksOf (head h) gs fun g => g.p.mul ((j.dOut ts g.i).getD e .nan)).w
    let back := fun (a n : Nat) (g : List (List Val)) (e : Nat) =>
      f32Val (sumBlocks (g.zipIdx.flatMap fun (x, h) =>
        chunks 64 ((x.take n).zipIdx.map fun (v, c) => (toBf16 v).mul ((d.upCol ts a (h * n + c)).getD e .nan)))).w
    let rotary := fun e => dk.foldl (fun a x => (sumStep a (x.getD (d.dhead + e) .nan)).1) (.fin false 0 0)
    ((List.range d.lat).map (back d.uk d.dhead dk) ++ (List.range d.rot).map rotary, (List.range d.lat).map (back d.uv d.dv dv))

/-- One FP32 addition into a word (R324). -/
def addWord (w : Nat) (v : Val) : Nat := (accAdd32 w (f32Word v)).w

/-- The gradients of one position enter its record's words: first the dS term, then the P term. -/
def addRecord (old : List Byte) (t : List Val × List Val) : List Byte :=
  (t.1.zipIdx).flatMap fun (v, e) =>
    let w := addWord (fld old (4 * e) 4) v
    leBytes 4 (match t.2[e]? with
      | some p => addWord w p
      | none => w)

/-- The record-gradient bytes of one block before and after it. -/
def AtJob.dcBlock (j : AtJob) (ts : Mem) (gs : List Grad) (blk : Nat) (old : List Byte) : List Byte :=
  let n := 4 * (j.d.lat + j.d.rot)
  let seers := (j.seers blk).map (·.1)
  (List.range 64).flatMap fun i =>
    let o := (old.drop (i * n)).take n
    let mine := gs.filter (·.pos == i)
    if mine.isEmpty then o else addRecord o (j.dcTerms ts seers mine)

/-- What the rows that see a block contribute to it by some heads, with the scores that saturated. -/
def AtJob.blockGrads (j : AtJob) (ts : Mem) (l : List (Nat × List Byte)) (heads : List Nat) (blk : Nat) : List (List Grad × Nat) :=
  (j.seers blk).flatMap fun (ri, r) => heads.map fun h => j.gradsOf ts l ri r h blk

/-- The contributions of one block to the query gradients enter DQ (R597). -/
def AtJob.addDq (j : AtJob) (per : List (List Grad × Nat)) (c : Core) : Core :=
  per.foldl (fun (c : Core) p =>
    match p.1 with
    | [] => c
    | g :: _ => (j.dqTerm p.1).zipIdx.foldl (fun (c : Core) x =>
        let a := j.dq + 4 * (g.i * j.d.qd + x.2)
        c.tsWrite a (leBytes 4 (addWord (Mem.nat c.ts a 4) x.1))) c) c

/-- Rows with no visible key, or whose statistics hold the EMPTY encoding. -/
def AtJob.emptyRows (j : AtJob) (ts : Mem) : Nat :=
  (j.rows.zipIdx.filter fun (r, ri) =>
    (j.blocks.all fun b => (j.seen r b).isEmpty) || (List.range j.d.heads).any fun h => j.isEmptyStat ts (ri * j.d.heads + h)).length

/-- Bytes of DC that the range covers. -/
def AtJob.dcBytes (j : AtJob) : Nat := 256 * (j.d.lat + j.d.rot) * j.n

/-- Bytes of one block of DC. -/
def AtJob.dcBlockBytes (j : AtJob) : Nat := 256 * (j.d.lat + j.d.rot)

/-- INIT before the first block: DQ and the range's DC become +0.0 (R597). -/
def AtJob.initGrads (j : AtJob) (w : Who) (core : Nat) (s : Block) : Access Unit × Block :=
  if !j.init then (.ok (), s)
  else
    match vwrite w (some w.basin) j.dc (zeros j.dcBytes) s with
    | (.error e, s) => (.error e, s)
    | (.ok _, s) => (.ok (), s.modCore core fun k => k.tsWrite j.dq (zeros (4 * j.rh * j.d.qd)))

/-- A whole block's contributions enter DC: one read, the additions and one write (R597). -/
def AtJob.addDc (j : AtJob) (w : Who) (ts : Mem) (gs : List Grad) (blk : Nat) (s : Block) : Access Unit × Block :=
  let va := j.dc + (blk - j.blk0) * j.dcBlockBytes
  match vread w (some w.basin) va j.dcBlockBytes s with
  | (.error e, s) => (.error e, s)
  | (.ok old, s) => vwrite w (some w.basin) va (j.dcBlock ts gs blk old) s

/-- Piece `i` of an `at.back`: its heads' contributions enter DQ, and with the last of them the block enters DC (R596,
R597, R599). -/
def AtJob.backPiece (j : AtJob) (w : Who) (core i : Nat) (h : AtHeld) (s : Block) : Access AtHeld × Block :=
  match if i = 0 then j.initGrads w core s else (.ok (), s) with
  | (.error e, s) => (.error e, s)
  | (.ok _, s) =>
    match j.stage w i h s with
    | (.error e, s) => (.error e, s)
    | (.ok h, s) =>
      let ts := (s.core core).ts
      let blk := j.blockOf i
      let gs := (j.blockGrads ts h.staged (List.range j.d.heads) blk).flatMap (·.1)
      match if j.lastPiece i && !h.staged.isEmpty then j.addDc w ts gs blk s else (.ok (), s) with
      | (.error e, s) => (.error e, s)
      | (.ok _, s) =>
        let per := j.blockGrads ts h.staged (j.headsOf i) blk
        (.ok { h with sat := h.sat + (per.map (·.2)).sum, staged := if j.lastPiece i then [] else h.staged },
         s.modCore core (j.addDq per))

/-- The record gradients that a command writes. -/
def AtJob.writesDc (j : AtJob) : Bool := j.init || !j.toRead.isEmpty

/-- A final fault of `at.back` leaves DC unpredictable where it may write it (R601). -/
def scrambleDc (w : Who) (j : AtJob) (s : Block) : Block :=
  if !j.writesDc then s
  else
    let (bs, s') := freeBytes j.dcBytes s
    match vwrite w (some w.basin) j.dc bs s' with
    | (.ok _, s') => s'
    | (.error _, _) => s

/-- `at.back` (R595–R601), from its last stop point. -/
def runBack (c : Cmd) (limit : Option Nat) (s : Block) : Work :=
  let j := atJobOf (s.core c.core).ts c.block true
  let w := whoCore s c.core 5 0
  if noPoint limit c.pos j.pieces || chamberHeld s c.core j.regions
      || (j.writesDc && writeHeld s w.ctx j.dc j.dcBytes accWrite) then .notYet s
  else
    match (s.core c.core).badRanges j.regions with
    | some x => atEnd c j.writes .eccUncorrectable 0 (scrambleDc w j (eccSram c.core x false s))
    | none =>
      let last := atTo limit c.pos 0 j.pieces
      match takePieces (j.backPiece w c.core) (last - c.pos) c.pos (j.heldAt c) s with
      | (some (st, va, k), h, s) =>
        if st = .notResident then atFault c va k h s else atEnd c j.writes st va (scrambleDc w j s)
      | (none, h, s) =>
        match limit with
        | some _ => .point last h.words s
        | none =>
          let ts := (s.core c.core).ts
          let empty := j.emptyRows ts
          let dq := (List.range (j.rh * j.d.qd)).map fun e => f32Val (Mem.nat ts (j.dq + 4 * e) 4)
          let s' := scrambleRanges c.core [(j.d.work, j.workBytes)] s
          .done (emptyStatus empty) (leaveSummary c.core (atSummary c.index (chunks j.d.qd dq) h.sat j.pairs empty)
            (mixRegions c (j.reads ++ j.writes) s s'))

/-! ### The commands (R558, R585–R587, R591) -/

/-- The checks of an `at.` command; with `full`, those of its tables in tile store. -/
def atEntry (code : Nat) (full : Bool) (s : Block) (core : Nat) (b : List Byte) : Entry :=
  if code = 0x12 then mergeEntry b
  else
    let back := code == 0x11
    let ts := (s.core core).ts
    let full := full && !chamberHeld s core (atTables ts b back)
    if posLimit ts b back full then .fails .posLimit
    else if !full then .light
    else if !atBodyOk b back then .bad .internal
    else
      let j := atJobOf ts b back
      if !j.ok then .bad .internal
      else if j.toRead.isEmpty then .light
      else .heavyOf b (450 * j.waves) 720

/-- The regions that a queued command keeps programs out of (R578). -/
def atGuard (code : Nat) (ts : Mem) (b : List Byte) : List (Nat × Nat × Bool) :=
  if code = 0x12 then (mergeOf b).ranges.map fun r => (r.1, r.2, true)
  else
    let j := atJobOf ts b (code == 0x11)
    j.reads.map (fun r => (r.1, r.2, false)) ++ j.writes.map fun r => (r.1, r.2, true)

/-- An `at.` command enters the matrix queue. -/
def enterAt (th : Nat) (d : Reg) (pk : Pred) (code : Nat) (q : QueueRef) (b : List Byte) (e : Entry) (s : Block) : Block :=
  let id := s.nextId
  let g := if e.refuse.isSome then [] else atGuard code (s.core (th / 16)).ts b
  (enterCmd th d pk 6 code q b e s).modCmd q id fun c => { c with guard := g }

def issueAt (th : Nat) (d a : Reg) (pk : Pred) (code : Nat) (s : Block) : BlockResult :=
  issueP th [pk] s (engWord th a 6 code (fun s b => atEntry code (depReady s (th / 16) b) s (th / 16) b) (enterAt th d pk code))

/-- An `at.` command does its work. -/
def runAttention (c : Cmd) (limit : Option Nat) (s : Block) : Work :=
  match c.code with
  | 0x10 => runAt c limit s
  | 0x11 => runBack c limit s
  | _ => runMerge c limit s

def execAtRun (th : Nat) (d a : Reg) (w : EngCode) (s : State) : Result := onBlock s fun s =>
  issueFirst th d a w.pk 6 0x10 w.code (issueAt th d a w.pk 0x10) s
def execAtBack (th : Nat) (d a : Reg) (pk : Pred) (s : State) : Result := onBlock s fun s => issueAt th d a pk 0x11 s
def execAtMerge (th : Nat) (d a : Reg) (pk : Pred) (s : State) : Result := onBlock s fun s => issueAt th d a pk 0x12 s

end Sys2Proof.Machine
end

