-- ==== Sys2Proof/Machine/Pages.lean ====
section
/-! DEFINITION. Firmware's keeping of pages: frames of T1 and granules of T2, page tables (R511–R514), mapping and
release, the windows that every context shares (R614, R615, R661), and the quotas (R51). Which free frame or granule firmware
takes is a free choice; its tables stand in the lowest 8 GiB of die 0 (DESIGN CHOICE, assumption 36). -/

namespace Sys2Proof.Machine

/-! ### Frames and granules -/

/-- Two runs share a member. -/
def Held.meets (h : Held) (first n : Nat) : Bool := decide (first < h.first + h.n) && decide (h.first < first + n)

/-- The frames of a compute die: its 108 GiB in units of 64 KiB (R512). The lowest 8 GiB of die 0 hold firmware's page
tables. -/
def dieFrames (d : Nat) : Nat × Nat := (d * 1769472 + (if d = 0 then 131072 else 0), (d + 1) * 1769472)

/-- A free run of `n` (1 or 32) frames on a die, aligned to its length. -/
def freeFrames (s : Block) (d n : Nat) : Option Nat :=
  let (lo, hi) := dieFrames d
  let ok := fun (f : Nat) => decide (lo ≤ f) && decide (f % n = 0) && decide (f + n ≤ hi) && !s.mem.frames.any (·.meets f n)
  s.choice ok (((List.range (s.mem.frames.length + 1)).map fun k => lo + n * k).find? ok)

/-- A free run of `n` granules of an I/O die's T2 (R508, R512). -/
def freeGranules (s : Block) (d n : Nat) : Option Nat :=
  let lo := d * 2 ^ 28
  let ok := fun (g : Nat) => decide (lo ≤ g) && decide (g + n ≤ lo + 2 ^ 28) && !s.mem.granules.any (·.meets g n)
  s.choice ok ((lo :: s.mem.granules.map fun h => h.first + h.n).find? ok)

/-- Bytes of T1 that count against a partition's quota (R51, R471). -/
def t1Used (s : Block) (p : Nat) : Nat := 65536 * ((s.mem.frames.filter (·.part == some p)).map (·.n)).sum
/-- Bytes of T2 that count against a partition's quota. -/
def t2Used (s : Block) (p : Nat) : Nat := 4096 * ((s.mem.granules.filter (·.part == some p)).map (·.n)).sum

/-- `n` more bytes of T1 stay within the quota. -/
def t1Fits (s : Block) (p : Option Nat) (n : Nat) : Bool :=
  match p with
  | none => true
  | some p =>
    match SMap.find p s.parts with
    | none => true
    | some x => decide (t1Used s p + n ≤ x.t1Quota * 2 ^ 30)
def t2Fits (s : Block) (p : Option Nat) (n : Nat) : Bool :=
  match p with
  | none => true
  | some p =>
    match SMap.find p s.parts with
    | none => true
    | some x => decide (t2Used s p + n ≤ x.t2Quota * 2 ^ 30)

def holdFrames (h : Held) (s : Block) : Block := { s with mem := { s.mem with frames := s.mem.frames ++ [h] } }
def holdGranules (h : Held) (s : Block) : Block := { s with mem := { s.mem with granules := s.mem.granules ++ [h] } }
def dropFrames (first : Nat) (s : Block) : Block :=
  { s with mem := { s.mem with frames := s.mem.frames.filter fun h => h.first != first } }
def dropGranules (first : Nat) (s : Block) : Block :=
  { s with mem := { s.mem with granules := s.mem.granules.filter fun h => h.first != first } }

/-- The compute dies that hold basins of a partition, in ascending number; all of them for none. -/
def diesOf (s : Block) (p : Option Nat) : List Nat :=
  match p.bind fun p => SMap.find p s.parts with
  | some x => (List.range 8).filter fun d => x.basins.any fun b => dieOfBasin b == d
  | none => List.range 8

/-- Dies in rotation from the `k`-th after die `d` (R478). -/
def rotateDies (l : List Nat) (d k : Nat) : List Nat :=
  if l.isEmpty then l
  else
    let i := ((l.filter fun x => decide (x < d)).length + k) % l.length
    l.drop i ++ l.take i

/-- The die that holds a frame of 64 KiB (R512). -/
def dieOfFrame (f : Nat) : Nat := f / 1769472

/-- The first die of a rotation with free frames. -/
def takeFrames (s : Block) (l : List Nat) (n : Nat) : Option Nat := l.findSome? fun d => freeFrames s d n

/-! ### Page tables -/

/-- A table of 4 KiB for firmware's page tables; none when its 8 GiB are used up. -/
def newTable (s : Block) : Option Nat × Block :=
  if 2 ^ 21 ≤ s.mem.nextTable then (none, s)
  else
    let a := s.mem.nextTable * 4096
    (some a, t1Zero a 4096 { s with mem := { s.mem with nextTable := s.mem.nextTable + 1 } })

/-- The table that the pointer at `a` names, made when there is none. -/
def ensureTable (a : Nat) (s : Block) : Option Nat × Block :=
  let l := BitVec.ofNat 64 (Mem.nat s.mem.t1 a 8)
  if pointerOk l then (some (pointerNext l), s)
  else
    match newTable s with
    | (none, s) => (none, s)
    | (some t, s) => (some t, t1Write a (leBytes 8 (t + 1)) s)

/-- Map a page by its leaf. -/
def mapLeaf (root va : Nat) (big : Bool) (l : U64) (s : Block) : Block :=
  match ensureTable (entryAddr root 1 va) s with
  | (none, s) => s
  | (some t2, s) =>
    match ensureTable (entryAddr t2 2 va) s with
    | (none, s) => s
    | (some t3, s) =>
      if big then t1Write (entryAddr t3 3 va) (leBytes 8 l.toNat) s
      else
        match ensureTable (entryAddr t3 3 va) s with
        | (none, s) => s
        | (some t4, s) => t1Write (entryAddr t4 4 va) (leBytes 8 l.toNat) s

/-- A VA in the adapter window or a base window (R614, R661). -/
def inAdapterWindow (va : Nat) : Bool := decide (0xC000_0000_0000 ≤ va) && decide (va < 0xC400_0000_0000)
def inBaseWindow (va : Nat) : Bool := decide (0xC800_0000_0000 ≤ va) && decide (va < 0xCC00_0000_0000)
def inWindow (va : Nat) : Bool := inAdapterWindow va || inBaseWindow va

/-- Level-1 indices of the windows. -/
def windowIndices : List Nat := (List.range 8).map (384 + ·) ++ (List.range 8).map (400 + ·)

/-- The root of the shared windows' tables, made with their level-2 tables at first use. -/
def ensureWindows (s : Block) : Block :=
  if s.mem.windowRoot ≠ 0 then s
  else
    match newTable s with
    | (none, s) => s
    | (some r, s) =>
      windowIndices.foldl (fun s i => (ensureTable (r + 8 * i) s).2) { s with mem := { s.mem with windowRoot := r } }

/-- A context's own root, with the windows in it. -/
def newRoot (s : Block) : Nat × Block :=
  let s := ensureWindows s
  match newTable s with
  | (none, s) => (0, s)
  | (some r, s) =>
    (r, windowIndices.foldl (fun s i => t1Write (r + 8 * i) (Mem.read s.mem.t1 (s.mem.windowRoot + 8 * i) 8) s) s)

/-- The tables that map a VA for a context; none for firmware's direct context. -/
def rootFor (s : Block) (ctx va : Nat) : Option Nat :=
  if inWindow va then (if s.mem.windowRoot = 0 then none else some s.mem.windowRoot)
  else
    match s.context ctx with
    | none => none
    | some c => if c.direct then none else some c.ptRoot

/-- A mapped page: its leaf, the leaf's address and size. -/
structure Leaf where
  l : U64
  addr : Nat
  big : Bool
  deriving DecidableEq, Repr

/-- The legal leaf that maps a VA in a table tree. -/
def leafAt (s : Block) (root va : Nat) : Option Leaf :=
  if 2 ^ 48 ≤ va then none
  else
    match walkFrom (fun _ a => readEntry s a) root va with
    | .ok (l, a, big) => some { l := l, addr := a, big := big }
    | .error _ => none

/-- The legal leaf that maps a VA for a context. -/
def leafOf (s : Block) (ctx va : Nat) : Option Leaf := (rootFor s ctx va).bind fun r => leafAt s r va

/-- The entries of a table that are in use, by index. -/
def usedEntries (s : Block) (t n : Nat) : List (Nat × U64) :=
  (List.range n).filterMap fun i =>
    let l := BitVec.ofNat 64 (Mem.nat s.mem.t1 (t + 8 * i) 8)
    if leafValid l then some (i, l) else none

/-- Every page a table tree maps, ascending: its address and leaf. -/
def allLeaves (s : Block) (root : Nat) : List (Nat × Leaf) :=
  (usedEntries s root 512).flatMap fun e1 =>
    if !pointerOk e1.2 then []
    else (usedEntries s (pointerNext e1.2) 512).flatMap fun e2 =>
      if !pointerOk e2.2 then []
      else (usedEntries s (pointerNext e2.2) 512).flatMap fun e3 =>
        let va3 := e1.1 * 2 ^ 39 + e2.1 * 2 ^ 30 + e3.1 * 2 ^ 21
        if leafOk e3.2 true then [(va3, { l := e3.2, addr := entryAddr (pointerNext e2.2) 3 va3, big := true })]
        else if !pointerOk e3.2 then []
        else (usedEntries s (pointerNext e3.2) 32).filterMap fun e4 =>
          let va := va3 + e4.1 * 65536
          if leafOk e4.2 false then some (va, { l := e4.2, addr := entryAddr (pointerNext e3.2) 4 va, big := false }) else none

/-- The pages of a context outside the shared windows. -/
def ownLeaves (s : Block) (ctx : Nat) : List (Nat × Leaf) :=
  match s.context ctx with
  | none => []
  | some c => if c.direct then [] else (allLeaves s c.ptRoot).filter fun p => !inWindow p.1

/-- The pages of the shared windows. -/
def windowLeaves (s : Block) : List (Nat × Leaf) := if s.mem.windowRoot = 0 then [] else allLeaves s s.mem.windowRoot

/-- Every mapped page of the device, with its context (0xFFFF for the windows). -/
def everyLeaf (s : Block) : List (Nat × Nat × Leaf) :=
  (s.contexts.flatMap fun c => (ownLeaves s c.1).map fun p => (c.1, p.1, p.2))
    ++ (windowLeaves s).map fun p => (0xFFFF, p.1, p.2)

/-- Write a leaf. -/
def putLeaf (x : Leaf) (l : U64) (s : Block) : Block := t1Write x.addr (leBytes 8 l.toNat) s

/-! ### TLBs -/

/-- Drop a page's entries from every basin TLB of the partition, or of the device for a window page (R464, R615). -/
def dropPage (ctx va : Nat) (s : Block) : Block :=
  if inWindow va then
    { s with basins := s.basins.map fun e =>
        (e.1, { e.2 with tlb := e.2.tlb.filter fun t => t.va != pageBase t.big va }) }
  else tlbInvalidate ctx (some va) s

/-! ### Mapping and release -/

/-- The partition whose quota a context's page counts against; none for window pages (R51, R639). -/
def quotaOf (s : Block) (ctx va : Nat) : Option Nat :=
  if inWindow va then none else (s.context ctx).map (·.part)

/-- What a page's home holds for it is released, once the stores to it have completed; host memory keeps its bytes. -/
def releaseHome (x : Leaf) (s : Block) : Block :=
  match leafHome x.l with
  | 1 => dropFrames (leafFrame x.l / 65536) (landRange (leafFrame x.l) (pageSize x.big) s)
  | 2 => dropGranules (leafFrame x.l / 4096) s
  | _ => { s with mem := { s.mem with t3len := SMap.put 0 (leafFrame x.l) 0 s.mem.t3len } }

/-- A page of the previous epoch is mapped no more (OLD_PAGES, R804). -/
def forgetOld (l : U64) (s : Block) : Block :=
  let k := leafSlot l
  if (s.slot k).st = .rotating && leafEpoch l ≠ (s.slot k).epoch.toNat then
    s.modSlot k fun k => KeySlot.retire { k with oldPages := k.oldPages - 1 }
  else s

/-- A page leaves its table and its home. -/
def unmapPage (ctx va : Nat) (s : Block) : Block :=
  match leafOf s ctx va with
  | none => s
  | some x => forgetOld x.l (dropPage ctx va (releaseHome x (putLeaf x 0 s)))

/-- The page is erased in its home, then released (R632, R651, R652). -/
def erasePage (ctx va : Nat) (s : Block) : Block :=
  match leafOf s ctx va with
  | none => s
  | some x =>
    let s := match leafHome x.l with
      | 1 => t1Zero (leafFrame x.l) (pageSize x.big) (landRange (leafFrame x.l) (pageSize x.big) s)
      | 2 =>
        let n := match s.mem.granules.find? fun h => h.first == leafFrame x.l / 4096 with
          | some h => h.n * 4096
          | none => 0
        { s with mem := { s.mem with t2 := Mem.clear s.mem.t2 (leafFrame x.l) n,
                                     t2Bad := s.mem.t2Bad.filter fun e => e.1 < leafFrame x.l || leafFrame x.l + n ≤ e.1 } }
      | _ => s
    unmapPage ctx va s

/-- Create a 64 KiB page in T1 with its contents, its slot's current epoch and codec format `cfmt` (R463); none when the
quota or T1 has no room. -/
def createPage (ctx va : Nat) (r w x pinned : Bool) (slot cfmt : Nat) (bs : List Byte) (s : Block) : Option Block :=
  let p := quotaOf s ctx va
  if !t1Fits s p 65536 then none
  else
    match rootFor s ctx va, takeFrames s (rotateDies (diesOf s ((s.context ctx).map (·.part))) 0 (va / 65536)) 1 with
    | some root, some f =>
      let s := holdFrames { first := f, n := 1, ctx := ctx, va := va, part := p } (s.spent 1)
      let s := t1Write (f * 65536) bs (t1Zero (f * 65536) 65536 s)
      some (mapLeaf root va false (mkLeaf 1 r w x pinned (s.slot slot).epoch.toNat (f * 65536) cfmt slot) s)
    | _, _ => none

/-- Create a run of pages; what does not fit undoes the run. -/
def createPages (ctx : Nat) (r w x pinned : Bool) (slot : Nat) : List (Nat × List Byte) → Block → Option Block
  | [], s => some s
  | (va, bs) :: rest, s =>
    match createPage ctx va r w x pinned slot 0 bs s with
    | none => none
    | some s => createPages ctx r w x pinned slot rest s

/-- The page addresses of `n` pages of 64 KiB from `va`. -/
def pageRun (va n : Nat) : List Nat := (List.range n).map fun i => va + 65536 * i

/-- Change the leaf of a page, with its TLB entries dropped (R525). -/
def changeLeaf (ctx va : Nat) (f : U64 → U64) (s : Block) : Block :=
  match leafOf s ctx va with
  | none => s
  | some x => dropPage ctx va (putLeaf x (f x.l) s)

/-- Set or clear PINNED. -/
def setPinned (v : Bool) (l : U64) : U64 := setBits l 7 1 (b2n v)

/-- Read bytes of a context's pages that are homed in T1, as firmware reads them; none where one is not, or where a codeword
cannot be corrected. -/
def fwRead (s : Block) (ctx va n : Nat) : Option (List Byte) :=
  ((unitsOf va n).mapIdx fun i a => (i, a)).foldl (fun acc (p : Nat × Nat) =>
    let stop := min (va + n) ((p.2 / 65536 + 1) * 65536)
    match acc, leafOf s ctx p.2 with
    | some bs, some x =>
      let pa := leafFrame x.l + p.2 % pageSize x.big
      if leafHome x.l = 1 && (t1BadIn s pa (stop - p.2)).isNone then some (bs ++ t1Data s pa (stop - p.2)) else none
    | _, _ => none) (some [])

/-- Firmware looks at bytes of a context's pages: stores to them that are not visible yet become so or do not (R131). -/
def fwLook (ctx va n : Nat) (s : Block) : Block :=
  (unitsOf va n).foldl (fun s a =>
    match leafOf s ctx a with
    | some x => if leafHome x.l = 1 then landLook (leafFrame x.l + a % pageSize x.big) (min n 65536) s else s
    | none => s) s

/-- A look and its read. -/
def fwSee (ctx va n : Nat) (s : Block) : Option (List Byte) × Block :=
  let s := fwLook ctx va n s
  (fwRead s ctx va n, s)

/-- Firmware writes bytes within one page of a context that is homed in T1. -/
def fwWrite (ctx va : Nat) (bs : List Byte) (s : Block) : Block :=
  match leafOf s ctx va with
  | some x => if leafHome x.l = 1 then t1Write (leafFrame x.l + va % pageSize x.big) bs s else s
  | none => s

end Sys2Proof.Machine
end

