-- ==== Sys2Proof/Machine/Update.lean ====
section
/-! DEFINITION. The update unit: shards, the taking of gradient holds, pass one, pass two with its redo journal, and
digests (R695–R738). -/

namespace Sys2Proof.Machine

/-! ### Shard records (R695–R700) -/

/-- A shard record's fields. -/
structure Shard where
  raw : List Byte
  phase : Nat
  opt : Nat
  steps : Nat
  cursor : Nat
  n : Nat
  wf : Option Fmt
  master : Nat
  m : Nat
  v : Nat
  grad : Nat
  wc : Nat
  journal : Nat
  deriving DecidableEq, Repr

def shardOf (b : List Byte) : Shard :=
  { raw := b, phase := fld b 6 1, opt := fld b 7 1, steps := fld b 8 8, cursor := fld b 0x10 4, n := fld b 0x20 4,
    wf := fmtOf (fld b 0x28 1), master := fld b 0x30 8, m := fld b 0x38 8, v := fld b 0x40 8, grad := fld b 0x48 8,
    wc := fld b 0x50 8, journal := fld b 0x58 8 }

def Shard.f (x : Shard) : Fmt := x.wf.getD .bf16
/-- Formats a working copy may have. -/
def wcFmt : Fmt → Bool
  | .bf16 | .fp16 | .e4m3 | .e5m2 | .fp32 => true
  | _ => false

/-- The seven regions of a shard whose record lies at `va` (R697). -/
def Shard.regions (x : Shard) (va : Nat) : List (Nat × Nat) :=
  [(va, 256), (x.master, 4 * x.n), (x.m, 4 * x.n), (x.v, 4 * x.n), (x.grad, 4 * x.n), (x.wc, x.n * x.f.size), (x.journal, 0x40000)]

/-- The record is sound (R695, R697, R700). -/
def Shard.ok (x : Shard) (va : Nat) : Bool :=
  let b := x.raw
  b.take 4 == [0x48#8, 0x55#8, 0x53#8, 0x52#8] && fld b 4 2 == 1 && (x.phase == 0 && x.opt == 0 || x.phase == 1 && (x.opt == 1 || x.opt == 2))
    && (1 ≤ x.n && x.n ≤ 268435456) && x.wf.any wcFmt && allZero b 0x29 7 && allZero b 0x98 8 && allZero b 0xA0 96
    && [x.master, x.m, x.v, x.grad, x.wc, x.journal].all (fun a => a % 65536 == 0) && disjoint (x.regions va)

/-- Blocks of a shard (R696). -/
def Shard.blocks (x : Shard) : Nat := ceilDiv x.n 16384
/-- Elements of block `b`. -/
def Shard.count (x : Shard) (b : Nat) : Nat := min 16384 (x.n - 16384 * b)
/-- An FP32 step constant at an offset of the record. -/
def Shard.k (x : Shard) (off : Nat) : Val := f32Val (fld x.raw off 4)

/-! ### FP32 arithmetic of the unit (R713) -/

/-- Round to FP32; beyond the largest finite value, that value, counted. -/
def upRound (v : Val) : Val × Nat :=
  match v with
  | .nan => (.nan, 0)
  | .inf n => (f32Val (f32Max n), 1)
  | v => let (w, sat) := toF32 v; (f32Val w, b2n sat)

def upMul (a b : Val) : Val × Nat := upRound (a.mul b)
def upFma (a b c : Val) : Val × Nat := upRound ((a.mul b).add c)
def upAdd (a b : Val) : Val × Nat := upRound (a.add b)
def upDiv (a b : Val) : Val × Nat := upRound (a.div b)
def upRoot (a : Val) : Val × Nat := upRound a.root
/-- 1 − x. -/
def upOneLess (x : Val) : Val := (upAdd (.fin false 1 0) x.negate).1
/-- An unsigned integer in FP32. -/
def upInt (n : Nat) : Val := (upRound (.fin false n 0)).1

/-! ### Who and where -/

/-- An update unit as the maker of an access. -/
def whoUp (s : Block) (core : Nat) : Who :=
  { unit := 6, inst := 0, basin := basinOf core, slot := 0xFF, ctx := (s.ctxOf core).getD 0xFFFF }

/-- How a piece of the unit's work ends: it goes on with a value, or stops at a fault. -/
abbrev UpStep (α : Type) := Except (Status × Nat) α × Block

def upRead (c : Cmd) (va n : Nat) (s : Block) : UpStep (List Byte) :=
  vread (whoUp s c.core) (some (basinOf c.core)) va n s

/-- The unit writes; `up.apply` notes what it leaves in its shard (R725). -/
def upWrite (c : Cmd) (va : Nat) (bs : List Byte) (s : Block) : UpStep Unit :=
  let old := (peek s ((s.ctxOf c.core).getD 0xFFFF) va bs.length).getD []
  match vwrite (whoUp s c.core) (some (basinOf c.core)) va bs s with
  | (.ok _, s) => (.ok (), if c.code = 3 then s.modCmd (.up (basinOf c.core)) c.id (Cmd.markShard true va old bs) else s)
  | (.error e, s) => (.error e, s)

/-- Some page of the ranges that a command has still to write is MOVING (R466). -/
def upHeld (c : Cmd) (l : List (Nat × Nat)) (s : Block) : Bool :=
  l.any fun r => writeHeld s ((s.ctxOf c.core).getD 0xFFFF) r.1 r.2 accWrite

/-- The unit ends a command with a fault, or waits for its page at a stop point with what it holds there. -/
def upFault (c : Cmd) (pos : Nat) (carried : List Nat) (st : Status) (va : Nat) (s : Block) : Work :=
  if st = .notResident then .fault va pos (s.holdCmd (.up (basinOf c.core)) c.id carried) else .done st (unitEvent c.core st va s)

/-- Go on with what a step gives. -/
def upThen {α β : Type} (x : UpStep α) (f : α → Block → UpStep β) : UpStep β :=
  match x with
  | (.error e, s) => (.error e, s)
  | (.ok a, s) => f a s

/-- Writes in turn. -/
def upWrites (c : Cmd) : List (Nat × List Byte) → Block → UpStep Unit
  | [], s => (.ok (), s)
  | (va, bs) :: rest, s => upThen (upWrite c va bs s) fun _ s => upWrites c rest s

/-- FP32 words of bytes. -/
def words32 (bs : List Byte) (n : Nat) : List Val := (List.range n).map fun i => f32Val (fld bs (4 * i) 4)
def bytes32 (vs : List Val) : List Byte := vs.flatMap fun v => leBytes 4 (f32Word v)

/-! ### up.take (R703–R706, R1020) -/

/-- A granule is cleared (R688). -/
def ghClear (g : Nat) (c : Core) : Core :=
  { c with
    sums := { c.sums with
      gh := Mem.clear c.sums.gh (4096 * g) 4096
      ghSat := c.sums.ghSat &&& ~~~(1#32 <<< g), ghNan := c.sums.ghNan &&& ~~~(1#32 <<< g)
      ghActive := c.sums.ghActive &&& ~~~(1#32 <<< g), ghLastMb := SMap.del g c.sums.ghLastMb }
    bad := c.bad.filter fun a => !(decide (ghSram + 4096 * g ≤ a) && decide (a < ghSram + 4096 * g + 4096)) }

def takeOk (b : List Byte) : Bool :=
  fld b 0x18 8 % 64 == 0 && decide (fld b 0x20 1 < 16) && (1 ≤ fld b 0x22 1 && fld b 0x21 1 + fld b 0x22 1 ≤ 32)
    && bitsOf (fld b 0x23 1) 1 7 == 0 && allZero b 0x24 28

/-- The FP32 bytes of a granule, and its first uncorrectable word (R703, R1020). -/
def granuleBytes (c : Core) (g : Nat) : List Byte × Option Nat :=
  ((List.range 512).flatMap fun p =>
    let a := 4096 * g + 8 * p
    leBytes 4 (if (c.badIn (ghSram + a) 8).isSome then 0x7FC00000 else (toF32 (pairVal (Mem.nat c.sums.gh a 8))).1),
   c.badIn (ghSram + 4096 * g) 4096)

/-- Take `n` granules from granule `g` on; `bad` that an uncorrectable word was met. Each is cleared once it is written
(R704). -/
def takeGranules (c : Cmd) (core base : Nat) : Nat → Nat → Bool → Block → Except (Status × Nat × Nat) Bool × Block
  | 0, _, bad, s => (.ok bad, s)
  | n + 1, g, bad, s =>
    let (bs, w) := granuleBytes (s.core core) g
    match upWrite c (base + 2048 * (g - c.fld 0x21 1)) bs s with
    | (.error (st, va), s) => (.error (st, va, g), s)
    | (.ok _, s) =>
      let s := match w with
        | some w => eccSram core w false s
        | none => s
      takeGranules c core base n (g + 1) (bad || w.isSome) (s.modCore core (ghClear g))

/-- `BS_UP_POS`.BLOCK at a position: the granule of an `up.take`, else the block (R737). -/
def upPosWord (c : Cmd) (pos : Nat) : Nat := if c.code = 1 then c.fld 0x21 1 + pos else pos % 2 ^ 16

/-- Granules discarded. -/
def clearGranules (core first n : Nat) (s : Block) : Block :=
  (List.range n).foldl (fun s i => s.modCore core (ghClear (first + i))) s

/-- `up.take`, from its last stop point. A granule that a `cx.grad` has added to in part is not taken before the command's
additions are all made (R689). -/
def runTake (c : Cmd) (limit : Option Nat) (s : Block) : Work :=
  let core := basinOf c.core * 16 + c.fld 0x20 1
  let first := c.fld 0x21 1
  let n := c.fld 0x22 1
  let discard := bitOf (c.fld 0x23 1) 0
  let now := runTo limit c.pos n - c.pos
  if (s.core core).ctx.isNone || (s.core core).ctx != (s.core c.core).ctx then .done .permFault (unitEvent c.core .permFault 0 s)
  else if noPoint limit c.pos n || ((List.range n).drop c.pos).any (fun i => gradPart s core (first + i))
      || (!discard && upHeld c [(c.fld 0x18 8 + 2048 * c.pos, 2048 * (n - c.pos))] s) then .notYet s
  else
    let held := c.carried.headD 0 != 0
    let x := if discard then (.ok held, clearGranules core (first + c.pos) now s)
      else takeGranules c core (c.fld 0x18 8) now (first + c.pos) held s
    match x with
    | (.error (st, va, g), s) => upFault c (g - first) [b2n held] st va s
    | (.ok bad, s) =>
      match limit with
      | some _ => .point (c.pos + now) [b2n bad] s
      | none => if bad then .done .eccUncorrectable (unitEvent c.core .eccUncorrectable 0 s) else .done .ok s

/-! ### up.norm (R707, R708) and up.digest (R735, R736) -/

/-- The unit reads pieces `i` to `i + n - 1` and takes each in; the first that fails, with its number and what was held
before it. -/
def upPieces {α : Type} (f : Nat → α → Block → UpStep α) : Nat → Nat → α → Block → Except (Status × Nat × Nat) α × α × Block
  | 0, _, a, s => (.ok a, a, s)
  | n + 1, i, a, s =>
    match f i a s with
    | (.error (st, va), s) => (.error (st, va, i), a, s)
    | (.ok b, s) => upPieces f n (i + 1) b s

/-- A block's squares join the sum: the pair so far, and whether it is sound. -/
def sumSquares (x : Nat × Bool) (g : List Val) : Nat × Bool :=
  let groups := (chunks 16 g).map fun xs => kblock .comp (xs.map fun x => x.mul x)
  let bad := g.any (fun x => x.isNan || x.isInf) || groups.any (·.sat)
  let r := accumulate .comp { w := x.1, sat := false, nan := false } groups
  (r.w, x.2 && !bad && !r.sat)

/-- Read a shard's record. -/
def readShard (c : Cmd) (s : Block) : UpStep Shard :=
  upThen (upRead c (c.fld 0x18 8) 256 s) fun b s => (.ok (shardOf b), s)

def runNorm (c : Cmd) (limit : Option Nat) (s0 : Block) : Work :=
  let va := c.fld 0x18 8
  let out := c.fld 0x20 4
  if chamberHeld s0 c.core [(out, 8)] then .notYet s0
  else
    match readShard c s0 with
    | (.error (st, a), s) => upFault c c.pos c.carried st a s
    | (.ok x, s) =>
      if !x.ok va then .done .internal s
      else if noPoint limit c.pos x.blocks then .notYet s0
      else
        let last := runTo limit c.pos x.blocks
        let held := if c.pos = 0 then (0, true) else (c.carried.headD 0, c.carried.getD 1 0 != 0)
        let f := fun (b : Nat) (a : Nat × Bool) (s : Block) =>
          upThen (upRead c (x.grad + 65536 * b) (4 * x.count b) s) fun g s => (.ok (sumSquares a (words32 g (x.count b))), s)
        match upPieces f (last - c.pos) c.pos held s with
        | (.error (st, a, i), h, s) => upFault c i [h.1, b2n h.2] st a s
        | (.ok r, _, s) =>
          match limit with
          | some _ => .point last [r.1, b2n r.2] s
          | none =>
            .done (if r.2 then .ok else .nonfinite) (s.modCore c.core fun k =>
              k.tsWrite out (leBytes 8 (if r.2 then r.1 else 0x7FC00000)))

/-- Piece `i` of a digest's input: the address and length of a block of the masters, then of the moments (assumption 64). -/
def Shard.digestPiece (x : Shard) (i : Nat) : Nat × Nat :=
  let b := i % x.blocks
  ((if i / x.blocks = 0 then x.master else if i / x.blocks = 1 then x.m else x.v) + 65536 * b, 4 * x.count b)

def runDigest (c : Cmd) (limit : Option Nat) (s0 : Block) : Work :=
  let va := c.fld 0x18 8
  let out := c.fld 0x20 4
  if chamberHeld s0 c.core [(out, 32)] then .notYet s0
  else
    match readShard c s0 with
    | (.error (st, a), s) => upFault c c.pos c.carried st a s
    | (.ok x, s) =>
      if !x.ok va then .done .internal s
      else if x.phase = 1 then .done .busy s
      else if noPoint limit c.pos (3 * x.blocks) then .notYet s0
      else
        let last := runTo limit c.pos (3 * x.blocks)
        let held := if c.pos = 0 then Sponge.empty.add (leBytes 8 x.steps) else spongeOf c.carried
        let f := fun (i : Nat) (a : Sponge) (s : Block) =>
          upThen (upRead c (x.digestPiece i).1 (x.digestPiece i).2 s) fun bs s => (.ok (a.add bs), s)
        match upPieces f (last - c.pos) c.pos held s with
        | (.error (st, a, i), h, s) => upFault c i h.words st a s
        | (.ok r, _, s) =>
          match limit with
          | some _ => .point last r.words s
          | none => .done .ok (s.modCore c.core fun k => k.tsWrite out r.digest)

/-! ### Pass two: hyperparameters and constants (R711–R716) -/

/-- A finite value within [0, below). -/
def inUnit (w : Nat) : Bool :=
  let v := f32Val w
  !v.isNan && !v.isInf && !v.lt (.fin false 0 0) && v.lt (.fin false 1 0)
/-- A finite value of at least 0. -/
def atLeast0 (w : Nat) : Bool :=
  let v := f32Val w
  !v.isNan && !v.isInf && !v.lt (.fin false 0 0)

/-- Knot k: its step and rate. -/
def knot (h : List Byte) (k : Nat) : Nat × Nat := (fld h (0x20 + 8 * k) 4, fld h (0x24 + 8 * k) 4)

/-- The hyperparameter block is sound. -/
def hypOk (h : List Byte) : Bool :=
  let opt := fld h 0 1
  let ks := fld h 2 1
  let adamw := opt == 2
  (opt == 1 || opt == 2) && bitsOf (fld h 1 1) 1 7 == 0 && (1 ≤ ks && ks ≤ 16) && fld h 3 1 == 0 && inUnit (fld h 4 4)
    && (if adamw then inUnit (fld h 8 4) && atLeast0 (fld h 0xC 4) && !(f32Val (fld h 0xC 4)).isZero && fld h 0x10 4 == 0
        else fld h 8 4 == 0 && fld h 0xC 4 == 0 && inUnit (fld h 0x10 4))
    && atLeast0 (fld h 0x14 4) && atLeast0 (fld h 0x18 4) && allZero h 0x1C 4 && allZero h 0xA0 32
    && ascending ((List.range ks).map fun k => (knot h k).1) && (List.range ks).all (fun k => atLeast0 (knot h k).2)
    && allZero h (0x20 + 8 * ks) (8 * (16 - ks))

/-- The schedule rate at step n (R716). -/
def schedule (h : List Byte) (steps : Nat) : Val :=
  let n := min steps (2 ^ 32 - 1)
  let ks := fld h 2 1
  let s := fun k => (knot h k).1
  let l := fun k => f32Val (knot h k).2
  if n < s 0 then
    if bitOf (fld h 1 1) 0 then (upMul (l 0) (upDiv (upInt (n + 1)) (upInt (s 0 + 1))).1).1 else l 0
  else if s (ks - 1) ≤ n then l (ks - 1)
  else
    let k := ((List.range ks).filter fun k => decide (s k ≤ n)).getLastD 0
    let f := (upDiv (upInt (n - s k)) (upInt (s (k + 1) - s k))).1
    (upFma f (upAdd (l (k + 1)) (l k).negate).1 (l k)).1

/-- GSS is non-finite (R714 step 2). -/
def gssBad (gss : Nat) : Bool :=
  (f32Val (pairS gss)).isNan || (f32Val (pairC gss)).isNan || pairS gss % 2 ^ 31 == 0x7F7FFFFF
/-- GNORM (R715). -/
def gnorm (gss : Nat) : Val := (upRoot (upRound (pairVal gss)).1).1

/-- The 64 bytes of constants that pass two writes at 0x60 (R695, R715). -/
def constants (h : List Byte) (x : Shard) (gss : Nat) : List Byte :=
  let g := gnorm gss
  let clip := f32Val (fld h 0x18 4)
  let clipf := if clip.isZero || !clip.lt g then .fin false 1 0 else (upDiv clip g).1
  let lr := schedule h x.steps
  let d := upOneLess (upMul lr (f32Val (fld h 0x14 4))).1
  let b1 := f32Val (fld h 4 4)
  let b2 := f32Val (fld h 8 4)
  let np1 := (upMul (x.k 0x14) b1).1
  let np2 := (upMul (x.k 0x18) b2).1
  bytes32 [clipf, lr, d, upOneLess np1, upOneLess np2, np1, np2, g]
    ++ (fld h 4 4 |> leBytes 4) ++ (fld h 8 4 |> leBytes 4) ++ (fld h 0xC 4 |> leBytes 4) ++ (fld h 0x10 4 |> leBytes 4)
    ++ bytes32 [upOneLess b1, upOneLess b2] ++ zeros 8

/-! ### Pass two: elements and blocks (R717–R722) -/

/-- One element's new moment, second moment and master, and its saturations (R717). -/
def newElem (x : Shard) (g0 w m v : Val) : (Val × Val × Val) × Nat :=
  let (g, n1) := upMul g0 (x.k 0x60)
  let lr := (x.k 0x64).negate
  if x.opt = 2 then
    let (a, n2) := upMul (x.k 0x90) g
    let (m', n3) := upFma (x.k 0x80) m a
    let (gg, n4) := upMul g g
    let (b, n5) := upMul (x.k 0x94) gg
    let (v', n6) := upFma (x.k 0x84) v b
    let (mh, n7) := upDiv m' (x.k 0x6C)
    let (vh, n8) := upDiv v' (x.k 0x70)
    let (r, n9) := upRoot vh
    let (e, n10) := upAdd r (x.k 0x88)
    let (u, n11) := upDiv mh e
    let (wd, n12) := upMul w (x.k 0x68)
    let (w', n13) := upFma lr u wd
    ((m', v', w'), n1 + n2 + n3 + n4 + n5 + n6 + n7 + n8 + n9 + n10 + n11 + n12 + n13)
  else
    let (m', n2) := upFma (x.k 0x8C) m g
    let (wd, n3) := upMul w (x.k 0x68)
    let (w', n4) := upFma lr m' wd
    ((m', v, w'), n1 + n2 + n3 + n4)

/-- A computed block: new masters, moments, working copy, and its counts. -/
structure BlockOut where
  w : List Byte
  m : List Byte
  v : List Byte
  wc : List Byte
  sat : Nat
  nan : Nat
  deriving DecidableEq, Repr

/-- Working-copy bytes of new masters, with their saturations (R718). -/
def workingCopy (f : Fmt) (ws : List Val) : List Byte × Nat :=
  let cs := ws.map (convert f none)
  (cs.flatMap fun c => leBytes f.size c.1, (cs.map fun c => c.2.sat).sum)

def cap16 (n : Nat) : Nat := min n 0xFFFF

/-- Compute a block (R720 step 1). NAN counts the elements with a NaN among their new values (assumption 31). -/
def computeBlock (x : Shard) (g w m v : List Val) : BlockOut :=
  let es := (List.range g.length).map fun i => newElem x (g.getD i .nan) (w.getD i .nan) (m.getD i .nan) (v.getD i .nan)
  let (wc, n) := workingCopy x.f (es.map (·.1.2.2))
  { w := bytes32 (es.map (·.1.2.2)), m := bytes32 (es.map (·.1.1)), v := bytes32 (es.map (·.1.2.1)), wc := wc,
    sat := cap16 ((es.map (·.2)).sum + n),
    nan := cap16 (es.filter fun e => e.1.1.isNan || e.1.2.1.isNan || e.1.2.2.isNan).length }

/-- The journal header (R719). -/
def journalHead (step blk count : Nat) (valid : Bool) (sat nan : Nat) : List Byte :=
  leBytes 8 step ++ leBytes 4 blk ++ leBytes 4 count ++ leBytes 1 (b2n valid) ++ zeros 1 ++ leBytes 2 sat ++ leBytes 2 nan ++ zeros 10

/-- Bytes 0x00–0x1F of a record. -/
def recordHead (x : Shard) (phase opt steps cursor p1 p2 sat nan : Nat) : List Byte :=
  x.raw.take 6 ++ leBytes 1 phase ++ leBytes 1 opt ++ leBytes 8 steps ++ leBytes 4 cursor ++ leBytes 4 p1 ++ leBytes 4 p2
    ++ leBytes 2 sat ++ leBytes 2 nan

/-- The record with its first 32 bytes replaced. -/
def Shard.withHead (x : Shard) (h : List Byte) : Shard := shardOf (h ++ x.raw.drop 32)
def Shard.sat (x : Shard) : Nat := fld x.raw 0x1C 2
def Shard.nan (x : Shard) : Nat := fld x.raw 0x1E 2

/-- The record after block `b`'s step 5. -/
def Shard.afterBlock (x : Shard) (b sat nan : Nat) : Shard :=
  x.withHead (recordHead x 1 x.opt x.steps (b + 1) (fld x.raw 0x14 4) (fld x.raw 0x18 4) (cap16 (x.sat + sat)) (cap16 (x.nan + nan)))

/-- The record after the commit (R722). -/
def Shard.committed (x : Shard) : Shard :=
  x.withHead (recordHead x 0 0 ((x.steps + 1) % 2 ^ 64) 0 (fld x.raw 0x74 4) (fld x.raw 0x78 4) x.sat x.nan)

/-- The writes of steps 2 to 5 of R720, stage by stage. -/
def blockStages (x : Shard) (va b : Nat) (o : BlockOut) : List (List (Nat × List Byte)) :=
  let a := 65536 * b
  [[(x.journal, o.w), (x.journal + 0x10000, o.m), (x.journal + 0x20000, o.v)],
   [(x.journal + 0x30000, journalHead (x.steps + 1) b (x.count b) true o.sat o.nan)],
   [(x.master + a, o.w), (x.m + a, o.m), (x.v + a, o.v), (x.wc + 16384 * b * x.f.size, o.wc)],
   [(va, (x.afterBlock b o.sat o.nan).raw.take 32)]]

/-- Read and compute a block. -/
def readBlockOf (c : Cmd) (x : Shard) (b : Nat) (s : Block) : UpStep BlockOut :=
  let n := x.count b
  let a := 65536 * b
  upThen (upRead c (x.grad + a) (4 * n) s) fun g s => upThen (upRead c (x.master + a) (4 * n) s) fun w s =>
    upThen (upRead c (x.m + a) (4 * n) s) fun m s => upThen (upRead c (x.v + a) (4 * n) s) fun v s =>
      (.ok (computeBlock x (words32 g n) (words32 w n) (words32 m n) (words32 v n)), s)

/-- Up to `k` blocks from the record's CURSOR: the record as it then stands. -/
def runBlocks (c : Cmd) (va : Nat) : Nat → Shard → Block → (Shard × Option (Status × Nat)) × Block
  | 0, x, s => ((x, none), s)
  | k + 1, x, s =>
    if x.blocks ≤ x.cursor then ((x, none), s)
    else
      match readBlockOf c x x.cursor s with
      | (.error e, s) => ((x, some e), s)
      | (.ok o, s) =>
        match upWrites c (blockStages x va x.cursor o).flatten s with
        | (.error e, s) => ((x, some e), s)
        | (.ok _, s) => runBlocks c va k (x.afterBlock x.cursor o.sat o.nan) s

/-- A resumption re-applies the journal's slot when it is that of CURSOR (R721): the record after it, and whether it
did. -/
def reapply (c : Cmd) (va : Nat) (x : Shard) (s : Block) : UpStep (Shard × Bool) :=
  upThen (upRead c (x.journal + 0x30000) 32 s) fun h s =>
    if bitOf (fld h 0x10 1) 0 && fld h 0 8 == x.steps + 1 && fld h 8 4 == x.cursor && decide (x.cursor < x.blocks) then
      let n := 4 * x.count x.cursor
      upThen (upRead c x.journal n s) fun w s => upThen (upRead c (x.journal + 0x10000) n s) fun m s =>
        upThen (upRead c (x.journal + 0x20000) n s) fun v s =>
          let o : BlockOut := { w := w, m := m, v := v, wc := (workingCopy x.f (words32 w (x.count x.cursor))).1,
                                sat := fld h 0x12 2, nan := fld h 0x14 2 }
          upThen (upWrites c ((blockStages x va x.cursor o).drop 2).flatten s) fun _ s =>
            (.ok (x.afterBlock x.cursor o.sat o.nan, true), s)
    else (.ok (x, false), s)

/-! ### up.apply (R714, R721–R734) -/

/-- The result record (R734). -/
def resultRecord (st : Status) (resumed clipped reapplied : Bool) (x : Shard) (g clipf lr : Nat) : List Byte :=
  leBytes 1 st.code ++ leBytes 1 (b2n resumed + 2 * b2n clipped + 4 * b2n reapplied) ++ leBytes 2 x.sat ++ leBytes 2 x.nan
    ++ zeros 2 ++ leBytes 8 x.steps ++ leBytes 4 g ++ leBytes 4 clipf ++ leBytes 4 lr ++ zeros 4

/-- CLIPF below 1.0. -/
def Shard.clipped (x : Shard) : Bool := (x.k 0x60).lt (.fin false 1 0)

/-- `up.apply` ends: its result record, and its counts. -/
def applyEnd (c : Cmd) (st : Status) (bytes : List Byte) (s : Block) : Work :=
  let s := s.modCore c.core fun k => k.tsWrite (c.fld 0x30 4) bytes
  .done st (s.modBasin (basinOf c.core) fun b =>
    { b with upRefused := if st = .nonfinite then b.upRefused + 1 else b.upRefused
             upClipped := if st = .clipApplied then b.upClipped + 1 else b.upClipped })

/-- STATUS only: one byte, whose word must be readable (R734, R1006). -/
def applyInternal (c : Cmd) (s : Block) : Work :=
  match (s.core c.core).tsWriteBad (c.fld 0x30 4) 1 with
  | some w => .done .eccUncorrectable (unitEvent c.core .eccUncorrectable 0 (eccSram c.core w false s))
  | none => applyEnd c .internal (leBytes 1 (Status.internal).code) s

/-- Whether a command has resumed a shard, and has re-applied a slot, before its last stop. -/
def Cmd.didResume (c : Cmd) : Bool := c.carried.headD 0 != 0
def Cmd.didReapply (c : Cmd) : Bool := c.carried.getD 1 0 != 0

/-- A fault in pass two: a wait for the page, or the end with the record as it stands. -/
def applyFault (c : Cmd) (x : Shard) (resumed reapplied : Bool) (e : Status × Nat) (s : Block) : Work :=
  if e.1 = .notResident then upFault c x.cursor [b2n resumed, b2n reapplied] e.1 e.2 s
  else
    applyEnd c e.1 (resultRecord e.1 resumed (x.phase == 1 && x.clipped) reapplied x (fld x.raw 0x7C 4) (fld x.raw 0x60 4) (fld x.raw 0x64 4))
      (unitEvent c.core e.1 e.2 s)

/-- Blocks from CURSOR, at most `limit` of them, and the commit after the last. -/
def applyBlocks (c : Cmd) (limit : Option Nat) (resumed reapplied : Bool) (x : Shard) (s : Block) : Work :=
  let va := c.fld 0x18 8
  match runBlocks c va (limit.getD x.blocks) x s with
  | ((x, some e), s) => applyFault c x resumed reapplied e s
  | ((x, none), s) =>
    if limit.isSome then .point x.cursor [b2n resumed, b2n reapplied] s
    else
      match upWrite c va (x.committed.raw.take 32) s with
      | (.error e, s) => applyFault c x resumed reapplied e s
      | (.ok _, s) =>
        let st := if x.clipped then Status.clipApplied else .ok
        applyEnd c st (resultRecord (if st = .ok && c.hold then .unitStopping else st) resumed x.clipped reapplied x.committed (fld x.raw 0x7C 4) (fld x.raw 0x60 4)
          (fld x.raw 0x64 4)) s

/-- Pass two on a shard that is APPLYING (R721); `own` when this is a command's own start. -/
def applyResume (c : Cmd) (limit : Option Nat) (own : Bool) (x : Shard) (s : Block) : Work :=
  let resumed := own || c.didResume
  match reapply c (c.fld 0x18 8) x s with
  | (.error e, s) => applyFault c x resumed c.didReapply e s
  | (.ok (x, did), s) =>
    let s := if did && own then s.modBasin (basinOf c.core) fun b => { b with upReapplied := b.upReapplied + 1 } else s
    applyBlocks c limit resumed (c.didReapply || (did && own)) x s

/-- Pass two on an IDLE shard (R714). -/
def applyStart (c : Cmd) (limit : Option Nat) (x : Shard) (s : Block) : Work :=
  let va := c.fld 0x18 8
  let gss := c.fld 0x28 8
  match upRead c (c.fld 0x20 8) 192 s with
  | (.error e, s) => applyFault c x false false e s
  | (.ok h, s) =>
    if !hypOk h then applyInternal c s
    else if gssBad gss then
      applyEnd c .nonfinite (resultRecord .nonfinite false false false x (f32Word (gnorm gss)) 0 0) s
    else
      let k := constants h x gss
      let y := shardOf (x.raw.take 0x60 ++ k ++ x.raw.drop 0xA0)
      let y := y.withHead (recordHead y 1 (fld h 0 1) y.steps 0 (fld y.raw 0x14 4) (fld y.raw 0x18 4) 0 0)
      match upWrites c [(va + 0x60, k), (x.journal + 0x30000, journalHead (x.steps + 1) 0 (x.count 0) false 0 0),
                        (va, y.raw.take 32)] s with
      | (.error e, s) => applyFault c x false false e s
      | (.ok _, s) => applyBlocks c limit false false y s

def runApply (c : Cmd) (limit : Option Nat) (s0 : Block) : Work :=
  let va := c.fld 0x18 8
  if chamberHeld s0 c.core [(c.fld 0x30 4, 32)] then .notYet s0
  else
    match readShard c s0 with
    | (.error (.notResident, a), s) => .fault a c.pos s
    | (.error (st, a), s) =>
      let (bs, s) := freeBytes 31 s
      applyEnd c st (leBytes 1 st.code ++ bs) (unitEvent c.core st a s)
    | (.ok x, s) =>
      if !x.ok va then applyInternal c s
      else if upHeld c ((x.regions va).filter fun r => r.1 != x.grad) s0 || (x.phase = 1 && noPoint limit x.cursor x.blocks) then .notYet s0
      else if x.phase = 1 then applyResume c limit c.carried.isEmpty x s
      else applyStart c limit x s

/-- An update-unit command does its work, from its last stop point (R728). -/
def runUpdate (c : Cmd) (limit : Option Nat) (s : Block) : Work :=
  match c.code with
  | 1 => runTake c limit s
  | 2 => runNorm c limit s
  | 3 => runApply c limit s
  | _ => runDigest c limit s

/-- Where R723 or R724 was broken, each byte of the shard that the command or another writer changed is what the one or the
other leaves there (R725). -/
def mixShard (c : Cmd) (s : Block) : Block :=
  if !c.broken then s
  else
    c.shard.foldl (fun s x =>
      let (n, s) := s.freeBelow 2
      writeAround ((s.ctxOf c.core).getD 0xFFFF) x.1 [if n = 0 then x.2.1 else x.2.2] s) s

/-! ### Interruption without a stop point (R722) -/

/-- A write that a reset cuts short leaves a prefix of its codewords. -/
def cutWrite (c : Cmd) (w : Nat × List Byte) (s : Block) : Block :=
  let (n, s) := s.freeBelow (w.2.length / 32 + 1)
  (upWrite c w.1 (w.2.take (32 * n)) s).2

/-- The stages of a block as a reset leaves them: some whole, one cut short. -/
def cutStages (c : Cmd) (stages : List (List (Nat × List Byte))) (s : Block) : Block :=
  let (k, s) := s.freeBelow (stages.length + 1)
  let s := (upWrites c (stages.take k).flatten s).2
  ((stages.drop k).headD []).foldl (fun s w => cutWrite c w s) s

/-- A reset cuts an `up.apply` off: some further blocks are whole, and one is cut short anywhere. -/
def cutApply (c : Cmd) (s : Block) : Block :=
  let va := c.fld 0x18 8
  match upRead c va 256 s with
  | (.ok b, s') =>
    let x := shardOf b
    let (k, s') := s'.freeBelow (x.blocks + 1)
    let s' := match runApply c (some k) s' with
      | .done _ s => s
      | .fault _ _ s => s
      | .point _ _ s => s
      | .notYet s => s
    match peek s' ((s'.ctxOf c.core).getD 0xFFFF) va 256 with
    | none => s'
    | some b =>
      let x := shardOf b
      if x.phase = 1 && x.cursor < x.blocks then
        match readBlockOf c x x.cursor s' with
        | (.ok o, s') => cutStages c (blockStages x va x.cursor o) s'
        | (.error _, s') => s'
      else s'
  | (.error _, s') => s'

/-! ### The commands (R701, R702, R732) -/

/-- The checks and weight of an update-unit command (R700, R702, R904): heavy once its record can be read and is
sound. -/
def upEntry (code : Nat) (full : Bool) (s : Block) (core : Nat) (b : List Byte) : Entry :=
  let va := fld b 0x18 8
  let rest := fun (ok : Bool) (out n per : Nat) =>
    if !(ok && va % 256 == 0 && out % 8 == 0 && inTile out n) then Entry.bad .internal
    else if !full then .light
    else
      match peek s ((s.ctxOf core).getD 0xFFFF) va 256 with
      | none => .light
      | some r =>
        let x := shardOf r
        if x.ok va && !(code == 4 && x.phase == 1) then .heavyOf b (per * x.n) 1200 else .light
  match code with
  | 1 => .when (takeOk b) .light
  | 2 => rest (allZero b 0x24 28) (fld b 0x20 4) 8 100
  | 3 => rest (allZero b 0x34 12 && fld b 0x20 8 % 64 == 0) (fld b 0x30 4) 32 1100
  | _ => rest (allZero b 0x24 28) (fld b 0x20 4) 32 100

/-- The regions of the shard that a block names, as far as its record can be read (R697). -/
def shardGuard (s : Block) (core : Nat) (b : List Byte) : List (Nat × Nat × Bool) :=
  let va := fld b 0x18 8
  let l := match peek s ((s.ctxOf core).getD 0xFFFF) va 256 with
    | some r => (shardOf r).regions va
    | none => [(va, 256)]
  l.map fun r => (r.1, r.2, true)

/-- An `up.` command that names a shard enters: beside an `up.apply` on the same shard it breaks R723. -/
def enterUp (th : Nat) (d : Reg) (pk : Pred) (code : Nat) (q : QueueRef) (b : List Byte) (e : Entry) (s : Block) : Block :=
  let id := s.nextId
  let core := th / 16
  let rival := fun (c : Cmd) => c.code == 3 && c.refuse.isNone && e.refuse.isNone && code != 1 && c.fld 0x18 8 == fld b 0x18 8
    && s.ctxOf c.core == s.ctxOf core
  let broken := s.basins.any fun x => x.2.up.any rival
  let g := if code = 3 && e.refuse.isNone then shardGuard s core b else []
  let s := { s with basins := s.basins.map fun x =>
      (x.1, { x.2 with up := x.2.up.map fun c => if rival c then { c with broken := true } else c }) }
  (enterCmd th d pk 7 code q b e s).modCmd q id fun c => { c with guard := g, broken := broken }

def issueUp (th : Nat) (d a : Reg) (pk : Pred) (code : Nat) (s : Block) : BlockResult :=
  issueP th [pk] s (engWord th a 7 code (fun s b => upEntry code (depReady s (th / 16) b) s (th / 16) b) (enterUp th d pk code))

def execUpTake (th : Nat) (d a : Reg) (w : EngCode) (s : State) : Result := onBlock s fun s =>
  issueFirst th d a w.pk 7 1 w.code (issueUp th d a w.pk 1) s
def execUpNorm (th : Nat) (d a : Reg) (pk : Pred) (s : State) : Result := onBlock s fun s => issueUp th d a pk 2 s
def execUpApply (th : Nat) (d a : Reg) (pk : Pred) (s : State) : Result := onBlock s fun s => issueUp th d a pk 3 s
def execUpDigest (th : Nat) (d a : Reg) (pk : Pred) (s : State) : Result := onBlock s fun s => issueUp th d a pk 4 s

end Sys2Proof.Machine
end

