-- ==== Sys2Proof/Machine/Reduction.lean ====
section
/-! DEFINITION. The reduction engines: groups, records, the two schedules, closing a step, verdicts and epochs
(R739–R790). -/

namespace Sys2Proof.Machine

/-! ### Groups and ranks (R739–R744) -/

def Block.group (s : Block) (g : Nat) : RdGroup := SMap.get RdGroup.init g s.groups
def Block.setGroup (s : Block) (g : Nat) (x : RdGroup) : Block := { s with groups := SMap.put RdGroup.init g x s.groups }
def Block.modGroup (s : Block) (g : Nat) (f : RdGroup → RdGroup) : Block := s.setGroup g (f (s.group g))

/-- The first-hop link of a ring (R890), and the engine that serves it (R759). -/
def ringLink (s : Block) (g k : Nat) : Nat := bitsOf ((SMap.get 0 g s.kreash.groupLinks).toNat) (4 * k) 4
def engineOfLink (l : Nat) : Nat := if l < 6 then 0 else 1

/-- An `rd.` command's basin unit as the maker of an access. -/
def whoRd (s : Block) (c : Cmd) : Who :=
  if isSystem c.core then { (whoCore s c.core 8 0) with slot := 0xFF }
  else { unit := 8, inst := 0, basin := basinOf c.core, slot := 0xFF, ctx := (s.ctxOf c.core).getD 0xFFFF }

/-- An error event of a basin or I/O unit that works for a command. -/
def cmdEvent (c : Cmd) (st : Status) (va : Nat) (s : Block) : Block :=
  if isSystem c.core then postEvent 0 st 0x00 (c.core - 4096) 0xFFFF 0xFF (zeros 8 ++ leBytes 8 (eventVa s c.core st va)) s
  else unitEvent c.core st va s

/-! ### The fields of commands (R749, R764) -/

def Cmd.srcVa (c : Cmd) : Nat := c.fld 0x18 8
def Cmd.dstVa (c : Cmd) : Nat := c.fld 0x20 8
def Cmd.rdStep (c : Cmd) : Nat := if c.code = 1 then c.fld 0x28 8 else c.fld 0x18 8
def Cmd.rdGroup (c : Cmd) : Nat := if c.code = 1 then c.fld 0x38 1 else c.fld 0x3A 1
def pairOut (rflags : Nat) : Bool := bitOf rflags 4

/-- The body of `rd.sum` keeps R749 and R750, less its step. -/
def sumOk (b : List Byte) : Bool :=
  let f := fld b 0x39 1
  let n := fld b 0x30 4
  let src := fld b 0x18 8
  let dst := fld b 0x20 8
  let size := n * if pairOut f then 8 else 4
  src % 4096 == 0 && dst % 4096 == 0 && (1 ≤ n && n ≤ 268435456) && (1 ≤ fld b 0x36 2 && fld b 0x36 2 ≤ 1024)
    && decide (fld b 0x34 2 < fld b 0x36 2) && decide (fld b 0x38 1 < 16) && bitsOf f 1 1 == 0 && bitsOf f 3 1 == 0
    && bitsOf f 5 3 == 0 && allZero b 0x3A 6 && !(pairOut f && bitsOf f 2 2 == 0)
    && ((src == dst && !pairOut f) || !overlap src (4 * n) dst size)

/-- The body of `rd.close` keeps R764 and R1022. -/
def closeOk (b : List Byte) : Bool :=
  let n := fld b 0x38 2
  decide (n ≤ 1024) && decide (fld b 0x3A 1 < 16) && bitsOf (fld b 0x3B 1) 1 7 == 0 && allZero b 0x3C 4
    && (n == 0 || inTile (fld b 0x30 4) (48 * n)) && inTile (fld b 0x34 4) 32

/-- The body of `rd.hash` keeps R789 and R1022. -/
def hashOk (b : List Byte) : Bool :=
  let n := fld b 0x20 8
  n % 64 == 0 && (64 ≤ n && n ≤ 2 ^ 32) && allZero b 0x2C 20 && inTile (fld b 0x28 4) 32

/-- What a group makes of a command at its entry (R744, R750, R751). A close of another step than the open one is
refused as a sum is (assumption 33). -/
def groupEntry (s : Block) (core g step : Nat) : Entry :=
  let x := s.group g
  let part := ((s.ctxOf core).bind s.context).map (·.part)
  if isSystem core || part != some x.part then .bad .permFault
  else
    match x.st with
    | .halted => .fails .digestMismatch
    | .resync | .disabled => .fails .epochStale
    | .open => .when (step == x.nextStep.toNat) .light

/-- The checks of an `rd.` command at entry. Commands are never heavy (R748). -/
def rdEntry (code : Nat) (s : Block) (core : Nat) (b : List Byte) : Entry :=
  match code with
  | 1 =>
    if !sumOk b then .bad .internal
    else
      let e := groupEntry s core (fld b 0x38 1) (fld b 0x28 8)
      if e.refuse.isSome then e
      else .when (!((s.group (fld b 0x38 1)).sums.any fun x => x.seq == fld b 0x34 2)) e
  | 2 => if !closeOk b then .bad .internal else groupEntry s core (fld b 0x3A 1) (fld b 0x18 8)
  | _ => .when (hashOk b && !isSystem core) .light

/-! ### Sums (R752–R757) -/

/-- Elements of a unit that travels in one record. -/
def RdSum.unit (x : RdSum) : Nat := if x.kind = 0 then 1024 else 512
def RdSum.units (x : RdSum) : Nat := ceilDiv x.count x.unit
def RdSum.elems (x : RdSum) (u : Nat) : Nat := min x.unit (x.count - u * x.unit)
/-- Bytes of a partial's element on the wire. -/
def RdSum.wire (x : RdSum) : Nat := if x.kind = 0 then 4 else 8
def RdSum.finished (x : RdSum) : Bool := x.fin.length == x.units

/-- The group has sealed its step (R752). -/
def RdGroup.sealed (x : RdGroup) : Bool :=
  match x.sums with
  | [] => false
  | y :: _ => x.sums.length == y.nsum

/-- Put a sum in ascending SEQ. -/
def insertSum (y : RdSum) : List RdSum → List RdSum
  | [] => [y]
  | x :: l => if y.seq < x.seq then y :: x :: l else x :: insertSum y l

def modSum (g seq : Nat) (f : RdSum → RdSum) (s : Block) : Block :=
  s.modGroup g fun x => { x with sums := x.sums.map fun y => if y.seq = seq then f y else y }

/-- The lowest set bit of a rank, as a count of levels at most `n`. -/
def lowLevels (r : Nat) : Nat → Nat
  | 0 => 0
  | n + 1 => if r % 2 = 0 then lowLevels (r / 2) n + 1 else 0

/-- The ranks whose nodes rank `r` adds to its own, in order (R755). -/
def treeChildren (r p : Nat) : List Nat :=
  ((List.range (lowLevels r 13)).map fun a => r + 2 ^ a).filter fun k => decide (k < p)
/-- The rank a node is sent to. -/
def treeParent (r : Nat) : Nat := r - 2 ^ lowLevels r 13

/-- The ranks whose partials rank `r` needs, in the order they are added, and where its own partial goes: none at the
rank that forms the result (R754, R755). -/
def needs (sched r p : Nat) : List Nat := if sched = 0 then (if r = 0 then [] else [r - 1]) else treeChildren r p
def sendsUp (sched r p : Nat) : Option Nat :=
  if sched = 0 then (if r + 1 < p then some (r + 1) else none) else if r = 0 then none else some (treeParent r)
/-- Where a result goes from rank `r`: from the rank that formed it, and from a rank that received it. -/
def sendsDown (sched r p : Nat) : List Nat :=
  if p ≤ 1 then []
  else if sched = 0 then (if r + 1 = p then [0] else if r + 2 < p then [r + 1] else [])
  else treeChildren r p
/-- The rank from which rank `r` receives the result. -/
def resultFrom (sched r p : Nat) : Nat := if sched = 0 then (if r = 0 then p - 1 else r - 1) else treeParent r

/-- The bytes that a rank's records give for elements [o, o + n), when they cover all of them. -/
def gotBytes (x : RdSum) (rank : Nat) (res : Bool) (w o : Nat) : Nat → Option (List Byte)
  | 0 => some []
  | n + 1 =>
    match x.got.find? fun p => p.1 == rank && p.2.1 == res && decide (p.2.2.1 ≤ o) && decide ((o - p.2.2.1 + 1) * w ≤ p.2.2.2.length) with
    | none => none
    | some p => (gotBytes x rank res w (o + 1) n).map fun rest => (p.2.2.2.drop ((o - p.2.2.1) * w)).take w ++ rest

/-- A pair of a sum or a record with the default NaN for any NaN in it (R297). -/
def cleanPair (w : Nat) : Nat := if (f32Val (pairS w)).isNan || (f32Val (pairC w)).isNan then 0x7FC00000 else w
/-- FP32 words with the default NaN for every NaN (R297). -/
def cleanWords (ws : List Nat) : List Nat := ws.map fun w => if (f32Val w).isNan then 0x7FC00000 else w

/-- Words of `w` bytes. -/
def wordsOf (w n : Nat) (bs : List Byte) : List Nat := (List.range n).map fun i => fld bs (i * w) w

/-- The addition of a KIND (R324, R326). -/
def rdAdd (kind a b : Nat) : Nat := if kind = 0 then (accAdd32 a b).w else (accAddPair a b).w

/-- The header of a reduction record (R745). -/
def rdHeader (x : RdGroup) (g sel step seq nsum count off : Nat) : List Byte :=
  leBytes 2 x.rank ++ leBytes 1 g ++ leBytes 1 sel ++ leBytes 4 x.epoch.toNat ++ leBytes 8 step ++ leBytes 2 seq ++ leBytes 2 nsum
    ++ leBytes 4 count ++ leBytes 4 off ++ zeros 4

/-- Send one reduction record to a rank: sealed under its stream's key slot, on its ring's link (R759, R890). A record
whose slot cannot seal is not sent. -/
def sendRd (g rank ring : Nat) (bytes : List Byte) (s : Block) : Block :=
  match sealUnder (s.vsCfg (16 + g)).keySlot.toNat [] bytes s with
  | (.error _, s) => s
  | (.ok x, s) =>
    let l := ringLink s g ring
    let s := modRdEngine (engineOfLink l) (fun e => { e with records := e.records + 1 }) s
    sendRecord { dst := (s.group g).devices.getD rank 0, vs := 16 + g, link := some l, bytes := sealBytes x } s

/-- Send a unit of a sum to ranks. -/
def sendUnit (g : Nat) (x : RdSum) (type u : Nat) (dest : List Nat) (payload : List Byte) (s : Block) : Block :=
  let y := s.group g
  let off := u * x.unit
  let h := rdHeader y g (x.sched + x.kind * 4 + type * 16) y.nextStep.toNat x.seq x.nsum x.count off
  dest.foldl (fun s r => sendRd g r (off / 1024 % y.rings) (h ++ payload) s) s

/-- A result's bytes, as they travel and as DST holds them (R757). -/
def resultBytes (kind : Nat) (pair : Bool) (w : Nat) : List Byte :=
  if kind = 0 then leBytes 4 w else if pair then leBytes 8 w else leBytes 4 (toF32 (pairVal w)).1

/-- A write of a command's result to T1 waits for a page that is MOVING (R466). -/
def rdHeld (s : Block) (c : Cmd) (va n : Nat) : Bool := writeHeld s (whoRd s c).ctx va n accWrite

/-- A unit's result is written and passed on. -/
def finishUnit (g : Nat) (c : Cmd) (x : RdSum) (u : Nat) (bytes : List Byte) (s : Block) : Option (Status × Nat) × Block :=
  let w := if pairOut (c.fld 0x39 1) then 8 else 4
  if rdHeld s c (c.dstVa + u * x.unit * w) bytes.length then (none, s)
  else
  match vwrite (whoRd s c) (tlbOf c.core) (c.dstVa + u * x.unit * w) bytes s with
  | (.error e, s) => (some e, s)
  | (.ok _, s) =>
    let y := s.group g
    (none, modSum g x.seq (fun x => { x with fin := x.fin ++ [u], got := x.got })
      (sendUnit g x 2 u (sendsDown x.sched y.rank y.members) bytes s))

/-- One unit of a sum goes as far as what was accepted allows. -/
def stepUnit (g : Nat) (c : Cmd) (x : RdSum) (u : Nat) (s : Block) : Option (Status × Nat) × Block :=
  let y := s.group g
  let o := u * x.unit
  let n := x.elems u
  if x.fin.contains u then (none, s)
  else if x.up.contains u then
    let w := if pairOut (c.fld 0x39 1) then 8 else 4
    match gotBytes x (resultFrom x.sched y.rank y.members) true w o n with
    | none => (none, s)
    | some bs => finishUnit g c x u bs s
  else
    let parts := (needs x.sched y.rank y.members).map fun r => gotBytes x r false x.wire o n
    if parts.any Option.isNone then (none, s)
    else
      match vread (whoRd s c) (tlbOf c.core) (c.srcVa + 4 * o) (4 * n) s with
      | (.error e, s) => (some e, s)
      | (.ok bs, s) =>
        let own := cleanWords (wordsOf 4 n bs)
        let ps := parts.map fun p => wordsOf x.wire n (p.getD [])
        let acc := if x.sched = 0 then
            match ps with
            | [] => own
            | p :: _ => List.zipWith (rdAdd x.kind) p own
          else ps.foldl (fun a p => List.zipWith (rdAdd x.kind) a p) own
        match sendsUp x.sched y.rank y.members with
        | some r =>
          (none, modSum g x.seq (fun x => { x with up := x.up ++ [u] }) (sendUnit g x 1 u [r] (acc.flatMap (leBytes x.wire)) s))
        | none => finishUnit g c x u (acc.flatMap (resultBytes x.kind (pairOut (c.fld 0x39 1)))) s

/-- The units of a sum in turn, up to the first fault. -/
def stepUnits (g : Nat) (c : Cmd) (seq : Nat) : List Nat → Block → Option (Status × Nat) × Block
  | [], s => (none, s)
  | u :: us, s =>
    match (s.group g).sums.find? fun x => x.seq == seq with
    | none => (none, s)
    | some x =>
      match stepUnit g c x u s with
      | (some e, s) => (some e, s)
      | (none, s) => stepUnits g c seq us s

/-- A sum meets a fault: it waits for its page (R785), or ends with the fault's status (R786). -/
def sumFault (g : Nat) (c : Cmd) (x : RdSum) (e : Status × Nat) (s : Block) : Block :=
  if e.1 = .notResident then
    modRdEngine (engineOfDie (dieOfBasin x.q.basin)) (fun r => { r with faultWait := true })
      (s.modCmd x.q c.id fun y => { y with phase := .stopped, faultVa := some e.2 })
  else cmdEvent c e.1 e.2 (modSum g x.seq (fun y => { y with status := some e.1 }) s)

/-- Every command of its core that entered a queue before `c` has started, or ends without starting (R175). -/
def rdTurn (s : Block) (q : QueueRef) (c : Cmd) : Bool :=
  (((s.queue q).takeWhile fun y => y.id != c.id).filter fun y => y.core == c.core).all fun y =>
    y.refuse.isSome || y.cancel.isSome || y.phase == .running || (y.code == 1 && depMet y)
      || (y.code == 2 && (s.group y.rdGroup).closing)

/-- The sealed step's sums run in ascending SEQ, one after another, unless the engines are stopped (R752, R785). A sum whose
TLB grant number is not next waits; one that repeats a number ends with INTERNAL (R89, R90). -/
def rdAdvance (g : Nat) : Nat → Block → Block
  | 0, s => s
  | n + 1, s =>
    let y := s.group g
    if 3 ≤ s.lock.level || !y.sealed then s
    else
      match y.sums.find? fun x => x.status.isNone && !x.finished with
      | none => s
      | some x =>
        match (s.queue x.q).find? fun c => c.id == x.cmdId with
        | none => s
        | some c =>
          if c.phase = .stopped || c.cancel.isSome || !depMet c || !rdTurn s x.q c || (tlbTurn s x.q c.grantTlb).isNone then s
          else if tlbTurn s x.q c.grantTlb = some true then
            rdAdvance g n (modSum g x.seq (fun y => { y with status := some .internal }) s)
          else
            match stepUnits g c x.seq (List.range x.units) s with
            | (some e, s) => sumFault g c x e s
            | (none, s) =>
              if ((s.group g).sums.find? fun z => z.seq == x.seq).any RdSum.finished then rdAdvance g n s else s

def rdRun (g : Nat) (s : Block) : Block := rdAdvance g ((s.group g).sums.length + 1) s

/-- DST takes unpredictable values (R753). -/
def scrambleDst (c : Cmd) (s : Block) : Block :=
  let n := c.fld 0x30 4 * if pairOut (c.fld 0x39 1) then 2 else 1
  let (ws, s') := freeWords n s
  if rdHeld s c c.dstVa (4 * n) then s
  else
  match vwrite (whoRd s c) (tlbOf c.core) c.dstVa (ws.flatMap (leBytes 4)) s' with
  | (.ok _, s') => s'
  | (.error _, _) => s

/-- An `rd.sum` that has not completed ends with REPEAT_STEP. -/
def repeatSum (g : Nat) (x : RdSum) (s : Block) : Block :=
  match (s.queue x.q).find? fun c => c.id == x.cmdId with
  | none => s
  | some c =>
    modSum g x.seq (fun y => { y with status := some .repeatStep })
      (scrambleDst c (s.modGroup g fun y => { y with cntLate := y.cntLate + 1 }))

/-- A command that has its status completes once the commands of its core before it have (R175). -/
def endNow (q : QueueRef) (id : Nat) (st : Status) (s : Block) : Block :=
  match (s.queue q).find? fun c => c.id == id with
  | none => s
  | some c => if firstOfCore s q c then finishCmd q c st s else s.modCmd q id fun c => { c with cancel := some st }

/-- A record that a unit of a sum needs has not been accepted: a partial of its node, or the result where another rank forms
it; `w` is the bytes of the result's element. With one member none is needed (R753–R756). -/
def RdSum.lacks (x : RdSum) (y : RdGroup) (w u : Nat) : Bool :=
  let o := u * x.unit
  let n := x.elems u
  !x.fin.contains u
    && ((!x.up.contains u && (needs x.sched y.rank y.members).any fun r => (gotBytes x r false x.wire o n).isNone)
        || ((sendsUp x.sched y.rank y.members).isSome && (gotBytes x (resultFrom x.sched y.rank y.members) true w o n).isNone))

/-- A sum of a group lacks a record it needs. -/
def sumLacks (s : Block) (g : Nat) (x : RdSum) : Bool :=
  match (s.queue x.q).find? fun c => c.id == x.cmdId with
  | none => false
  | some c => (List.range x.units).any (x.lacks (s.group g) (if pairOut (c.fld 0x39 1) then 8 else 4))

/-- A needed record is missing: the sum and those after it in SEQ end with REPEAT_STEP (R753). -/
def sumsTimeout (g seq : Nat) (s : Block) : Block :=
  let y := s.group g
  let late := y.sums.filter fun x => decide (seq ≤ x.seq) && x.status.isNone && !x.finished
  if y.sealed && late.any (fun x => x.seq == seq && sumLacks s g x) then
    late.foldl (fun s x => endNow x.q x.cmdId .repeatStep (repeatSum g x s)) s
  else s

def execRdTimeout (group seq : Nat) (s : State) : Result := onBlock s fun s => within (decide (group < 16)) s (sumsTimeout group seq)

/-! ### Close records (R765, R767) -/

/-- Whether some `rd.sum` of the step did not complete with OK. -/
def RdGroup.late (x : RdGroup) : Bool := x.sums.any fun y => y.status != some .ok

/-- The member's close record. -/
def closeRecord (s : Block) (c : Cmd) : List Byte :=
  let x := s.group c.rdGroup
  let n := c.fld 0x38 2
  let dig := bitOf (c.fld 0x3B 1) 0
  let ents := (List.range n).flatMap fun i =>
    let e := Mem.read (s.core c.core).ts (c.fld 0x30 4 + 48 * i) 48
    if dig then e else e.take 16 ++ zeros 32
  [0x48#8, 0x52#8, 0x43#8, 0x4C#8] ++ leBytes 2 x.rank ++ leBytes 2 n ++ leBytes 4 x.epoch.toNat
    ++ leBytes 4 (b2n x.late + 2 * b2n x.mismatch + 4 * b2n dig) ++ leBytes 8 (c.fld 0x18 8) ++ leBytes 8 (c.fld 0x20 8) ++ zeros 32 ++ ents

/-- A member's neighbours on the routes of TREE. -/
def treeNeighbours (r p : Nat) : List Nat := (if r = 0 then [] else [treeParent r]) ++ treeChildren r p

/-- A piece of rank `from`'s close record goes to ranks. Its COUNT and OFFSET are in bytes, and SRC_RANK names the rank
whose record it is (assumption 32). -/
def sendClose (g origin total off nsum : Nat) (dest : List Nat) (piece : List Byte) (s : Block) : Block :=
  let y := s.group g
  let h := rdHeader { y with rank := origin } g (1 + 3 * 16) y.nextStep.toNat 0 nsum total off
  dest.foldl (fun s r => sendRd g r 0 (h ++ piece) s) s

/-- A whole close record goes to ranks, in pieces. -/
def sendCloseAll (g origin nsum : Nat) (dest : List Nat) (bs : List Byte) (s : Block) : Block :=
  (List.range (ceilDiv bs.length 4096)).foldl (fun s i =>
    sendClose g origin bs.length (4096 * i) nsum dest ((bs.drop (4096 * i)).take 4096) s) s

def RdGroup.nsum (x : RdGroup) : Nat := (x.sums.head?.map (·.nsum)).getD 0

/-- `rd.close` starts (R767). -/
def startClose (c : Cmd) (s : Block) : Block :=
  let g := c.rdGroup
  let x := s.group g
  let bs := closeRecord s c
  sendCloseAll g x.rank x.nsum (treeNeighbours x.rank x.members) bs
    (s.modGroup g fun x => { x with closing := true, closes := x.closes.filter (fun e => e.1 != x.rank) ++ [(x.rank, bs)] })

/-! ### Receiving records (R745, R746) -/

/-- What an engine does with a record. -/
inductive RdVerdict where
  | stale | ahead | mismatch | hold | accept
  deriving DecidableEq, Repr

/-- Where a record stands against its group (R746). -/
def judge (s : Block) (g : Nat) (b : List Byte) : RdVerdict :=
  let x := s.group g
  let sel := fld b 3 1
  let type := bitsOf sel 4 4
  let step := fld b 8 8
  let local_ := x.sums.find? fun y => y.seq == fld b 0x10 2
  let bad := match type with
    | 1 | 2 =>
      bitsOf sel 1 1 == 1 || bitsOf sel 3 1 == 1 || (step == x.nextStep.toNat && (match local_ with
        | some y => y.sched != bitsOf sel 0 2 || y.kind != bitsOf sel 2 2 || y.count != fld b 0x14 4 || y.nsum != fld b 0x12 2
        | none => x.sealed))
    | 3 => bitsOf sel 1 1 == 1 || bitsOf sel 3 1 == 1
    | _ => true
  if fld b 4 4 < x.epoch.toNat || (fld b 4 4 == x.epoch.toNat && decide (step < x.nextStep.toNat)) then .stale
  else if x.epoch.toNat < fld b 4 4 then .ahead
  else if bad || fld b 2 1 != g || !allZero b 0x1C 4 || b.length < 32 then .mismatch
  else if x.nextStep.toNat < step || !(x.sealed || x.closing) then .hold
  else .accept

/-- Pieces of a close record that cover it. -/
def joinPieces (parts : List (Nat × Nat × List Byte)) (rank total : Nat) : Option (List Byte) :=
  let m := (parts.filter (·.1 == rank)).foldl (fun (m : List (Option Byte)) p =>
    m.zipIdx.map fun (o, i) => if p.2.1 ≤ i && i < p.2.1 + p.2.2.length then p.2.2[i - p.2.1]? else o) (List.replicate total none)
  if m.all Option.isSome then some (m.map (·.getD 0)) else none

/-- A close record's piece is accepted and passed on along the tree. -/
def acceptClose (g : Nat) (b : List Byte) (src : Nat) (s : Block) : Block :=
  let x := s.group g
  let rank := fld b 0 2
  let piece := b.drop 32
  let s := s.modGroup g fun x =>
    let parts := x.parts ++ [(rank, fld b 0x18 4, piece)]
    match joinPieces parts rank (fld b 0x14 4) with
    | some bs =>
      { x with parts := parts.filter fun p => p.1 != rank
               closes := if x.closes.any (·.1 == rank) then x.closes else x.closes ++ [(rank, bs)] }
    | none => { x with parts := parts }
  let from_ := (x.devices.zipIdx.find? fun d => d.1 == src).map (·.2)
  sendClose g rank (fld b 0x14 4) (fld b 0x18 4) (fld b 0x12 2)
    ((treeNeighbours x.rank x.members).filter fun r => some r != from_) piece s

/-- A record is accepted. -/
def acceptRd (g : Nat) (b : List Byte) (src : Nat) (s : Block) : Block :=
  let type := bitsOf (fld b 3 1) 4 4
  if type = 3 then acceptClose g b src s
  else rdRun g (modSum g (fld b 0x10 2) (fun y => { y with got := y.got ++ [(fld b 0 2, type == 2, fld b 0x18 4, b.drop 32)] }) s)

/-- The engine's part of a record that passed its check-value unit and its key slot; none while it is held. -/
def takeRd (g src : Nat) (l : Nat) (b : List Byte) (s : Block) : Option Block :=
  let s := modRdEngine (engineOfLink l) (fun e => { e with records := e.records + 1 }) s
  match judge s g b with
  | .hold => none
  | .stale => some (postEvent 0 .epochStale 0x07 g 0xFFFF 0xFF [] (s.modGroup g fun x => { x with cntStale := x.cntStale + 1 }))
  | .ahead => some (postEvent 0 .epochStale 0x07 g 0xFFFF 0xFF [] (s.modGroup g fun x => { x with cntAhead := x.cntAhead + 1 }))
  | .mismatch => some (s.modGroup g fun x => { x with cntMismatch := x.cntMismatch + 1, mismatch := true })
  | .accept => some (acceptRd g b src s)

/-- A reduction record reaches its engine (R746, R785, R787). -/
def rdRecord (src vs : Nat) (s : Block) : Block :=
  match firstAssembled s src vs with
  | none => s
  | some r =>
    match cvCheck r s with
    | (none, s) => s
    | (some body, s') =>
      let (ct, iv, tag, epoch) := openBytes body
      match openUnder (s.vsCfg vs).keySlot.toNat epoch iv [] ct tag s' with
      | .error st => if st = .checkMismatch then tagDrop r s s' else returnCredits src vs 1 (countDrop st s')
      | .ok b =>
        if 3 ≤ s.lock.level then s
        else
          match takeRd (vs - 16) src r.link b s' with
          | none => s
          | some s' => returnCredits src vs 1 s'

def execRdRecordRx (src vs : Nat) (s : State) : Result := onBlock s fun s =>
  within (decide (16 ≤ vs) && decide (vs < 32) && decide (src < 4096)) s (rdRecord src vs)

/-! ### Verdicts (R768–R772, R783) -/

/-- The verdicts (R771). -/
inductive Verdict where
  | commit | repeated | skip | halt
  deriving DecidableEq, Repr

def Verdict.code : Verdict → Nat
  | .commit => 1 | .repeated => 2 | .skip => 3 | .halt => 4
def Verdict.status : Verdict → Status
  | .commit => .ok | .repeated => .repeatStep | .skip => .skipStep | .halt => .digestMismatch

/-- An entry of a close record: its rank, index, pair and digest. -/
structure CloseEntry where
  rank : Nat
  shard : Nat
  pair : Nat
  digest : List Byte
  deriving DecidableEq, Repr

def entriesOf (r : Nat × List Byte) : List CloseEntry :=
  (List.range (fld r.2 6 2)).map fun i =>
    let e := (r.2.drop (64 + 48 * i)).take 48
    { rank := r.1, shard := fld e 0 4, pair := fld e 8 8, digest := e.drop 16 }

def closeFlag (r : Nat × List Byte) (i : Nat) : Bool := bitOf (fld r.2 0xC 4) i

/-- Insert a number into an ascending list without repeats. -/
def insertNat (n : Nat) : List Nat → List Nat
  | [] => [n]
  | x :: l => if n < x then n :: x :: l else if n = x then x :: l else x :: insertNat n l

/-- The close records received, in rank order. -/
def rankOrder (l : List (Nat × List Byte)) : List (Nat × List Byte) :=
  ((l.map (·.1)).foldl (fun a r => insertNat r a) []).filterMap fun r => l.find? (·.1 == r)

/-- Every entry, lowest rank first, and the SHARD_INDEX values in ascending order. -/
def allEntries (l : List (Nat × List Byte)) : List CloseEntry := (rankOrder l).flatMap entriesOf
def shardsOf (es : List CloseEntry) : List Nat := es.foldl (fun a e => insertNat e.shard a) []

/-- The combine tree over pairs (R346). -/
def pairLevel : List Nat → List Nat
  | a :: b :: l => (accAddPair a b).w :: pairLevel l
  | l => l
def pairTree : Nat → List Nat → Nat
  | 0, l => l.headD 0
  | n + 1, l => pairTree n (pairLevel l)

/-- GSS (R769). -/
def globalSum (es : List CloseEntry) : Nat :=
  pairTree 24 ((shardsOf es).map fun i => cleanPair (((es.find? fun e => e.shard == i).map (·.pair)).getD 0))

/-- The entries of a shard disagree (R770). -/
def shardDiffers (es : List CloseEntry) (i : Nat) : Bool :=
  match es.filter fun e => e.shard == i with
  | [] => false
  | e :: l => l.any fun f => f.pair != e.pair || f.digest != e.digest

/-- The step has a disagreement (R770). -/
def disagrees (s : Block) (g : Nat) (l : List (Nat × List Byte)) (es : List CloseEntry) : Bool :=
  let x := s.group g
  (shardsOf es).any (shardDiffers es) || l.any (closeFlag · 1)
    || (x.digestInterval != 0 && l.any (fun r => !closeFlag r 2) && Config.digestStep g x.nextStep.toNat)

/-- The verdict of a step whose records all arrived (R771). -/
def verdictOf (s : Block) (g : Nat) (l : List (Nat × List Byte)) (es : List CloseEntry) : Verdict :=
  if disagrees s g l es then .halt
  else if l.any (closeFlag · 0) then .repeated
  else if gssBad (globalSum es) then .skip
  else .commit

/-- The verdict record (R772). -/
def verdictRecord (v : Verdict) (x : RdGroup) (records step gss shard : Nat) : List Byte :=
  leBytes 1 v.status.code ++ leBytes 1 v.code ++ leBytes 2 records ++ leBytes 4 x.epoch.toNat ++ leBytes 8 step ++ leBytes 8 gss
    ++ leBytes 4 shard ++ zeros 4

/-- The detail of a HALT's event record (R783). -/
def haltDetail (es : List CloseEntry) (shard : Nat) : List Byte :=
  let mine := es.filter fun e => e.shard == shard
  let vals := (mine.map fun e => (e.pair, e.digest)).eraseDups
  let zero := (mine.find? fun e => e.rank == 0).map fun e => (e.pair, e.digest)
  let others := (mine.filter fun e => some (e.pair, e.digest) != zero).map (·.rank)
  leBytes 4 shard ++ leBytes 2 vals.length ++ (others.take 5).flatMap (leBytes 2)

/-- The group's counters and step after a verdict (R771). -/
def RdGroup.close (x : RdGroup) (v : Verdict) (record : List Byte) : RdGroup :=
  { x with
    lastVerdict := v.code, lastRecord := record, sumsOk := !x.late, sums := [], closes := [], parts := [], closing := false, mismatch := false
    st := if v = .halt then .halted else x.st
    nextStep := if v = .commit || v = .skip then x.nextStep + 1 else x.nextStep
    vCommits := if v = .commit then x.vCommits + 1 else x.vCommits
    vRepeats := if v = .repeated then x.vRepeats + 1 else x.vRepeats
    vSkips := if v = .skip then x.vSkips + 1 else x.vSkips
    vHalts := if v = .halt then x.vHalts + 1 else x.vHalts }

/-- The event records of a verdict (R768, R774, R783). -/
def verdictEvents (g : Nat) (c : Cmd) (v : Verdict) (timedOut : Bool) (es : List CloseEntry) (shard part : Nat) (s : Block) : Block :=
  match v with
  | .halt =>
    let d := haltDetail es shard
    let s := postEvent 0 .digestMismatch 0x07 g 0xFFFF 0xFF d s
    let f := s.fnOfPart part
    if f = 0 then s else postEvent f .digestMismatch 0x07 g 0xFFFF 0xFF d s
  | .skip => postEvent 0 .skipStep 0x07 g 0xFFFF 0xFF (leBytes 8 (c.fld 0x18 8) ++ leBytes 8 (c.fld 0x20 8)) s
  | .repeated => if timedOut then postEvent 0 .repeatStep 0x07 g 0xFFFF 0xFF [] s else s
  | .commit => s

/-- A verdict takes effect: the record in tile store, events, and the group's new step. -/
def giveVerdict (c : Cmd) (v : Verdict) (timedOut : Bool) (s : Block) : Block :=
  let g := c.rdGroup
  let x := s.group g
  let es := allEntries x.closes
  let shard := ((shardsOf es).find? (shardDiffers es)).getD 0xFFFFFFFF
  let gss := if v = .repeated then 0 else globalSum es
  let record := verdictRecord v x x.closes.length (c.fld 0x18 8) gss (if v = .halt then shard else 0xFFFFFFFF)
  verdictEvents g c v timedOut es shard x.part
    ((s.modCore c.core fun k => k.tsWrite (c.fld 0x34 4) record).modGroup g (·.close v record))

/-- The close records go to GATHER_VA, in rank order (R764). -/
def gatherCloses (c : Cmd) (s : Block) : Option (Status × Nat) × Block :=
  let va := c.fld 0x28 8
  if va = 0 then (none, s)
  else
    match vwrite (whoRd s c) (tlbOf c.core) va ((rankOrder (s.group c.rdGroup).closes).flatMap (·.2)) s with
    | (.ok _, s) => (none, s)
    | (.error e, s) => (some e, s)

/-- A member received every close record. -/
def RdGroup.allClosed (x : RdGroup) : Bool := decide (x.members ≤ x.closes.length)

/-- `rd.close` does its work: it starts once every sum of its step has completed, and ends with the verdict. -/
def runClose (c : Cmd) (s : Block) : Work :=
  let g := c.rdGroup
  let l := [(c.fld 0x34 4, 32), (c.fld 0x30 4, 48 * c.fld 0x38 2)]
  let ready := (s.group g).sums.all fun y => y.status.isSome && !(s.queue y.q).any (fun k => k.id == y.cmdId)
  if chamberHeld s c.core l || !ready then .notYet s
  else
    match ((s.core c.core).badIn (c.fld 0x30 4) (48 * c.fld 0x38 2)).or ((s.core c.core).tsWriteBad (c.fld 0x34 4) 32) with
    | some w => .done .eccUncorrectable (cmdEvent c .eccUncorrectable 0 (eccSram c.core w false s))
    | none =>
      let s := if (s.group g).closing then s else startClose c s
      if !(s.group g).allClosed || (c.fld 0x28 8 != 0 && rdHeld s c (c.fld 0x28 8)
          (((s.group g).closes.map fun r => r.2.length).sum)) then .notYet s
      else
        match gatherCloses c s with
        | (some (st, va), s) => if st = .notResident then .fault va 0 s else .done st (cmdEvent c st va s)
        | (none, s) =>
          let v := verdictOf s g (s.group g).closes (allEntries (s.group g).closes)
          .done v.status (giveVerdict c v false s)

/-- Every command of a group in an `rd.` queue. -/
def groupCommands (s : Block) (g : Nat) : List (QueueRef × Cmd) :=
  (allQueues s).filter fun e => e.2.unit == 8 && (e.2.code == 1 || e.2.code == 2) && e.2.refuse.isNone && e.2.rdGroup == g

/-- Not all close records arrived in time: the verdict is REPEAT (R768). -/
def closeTimeout (g : Nat) (s : Block) : Block :=
  let x := s.group g
  if x.closing && !x.allClosed then
    match (groupCommands s g).find? fun e => e.2.code == 2 with
    | none => s
    | some (q, c) =>
      if chamberHeld s c.core [(c.fld 0x34 4, 32)] then s else endNow q c.id .repeatStep (giveVerdict c .repeated true s)
  else s

def execRdCloseTimeout (group : Nat) (s : State) : Result := onBlock s fun s => within (decide (group < 16)) s (closeTimeout group)

/-! ### Epochs (R742, R743, R784) -/

/-- What firmware tells the other members as an epoch starts: its NEXT_STEP and its last verdict record (R776); the record's
layout and its stream, one of those reserved to firmware, are the model's (DESIGN CHOICE, assumption 35). -/
def stepNotice (g : Nat) (x : RdGroup) : List Byte :=
  leBytes 2 x.rank ++ leBytes 1 g ++ zeros 1 ++ leBytes 4 x.epoch.toNat ++ leBytes 8 x.nextStep.toNat ++ x.lastRecord

/-- Firmware sends every other member of a group what R776 names. -/
def sendSteps (g : Nat) (s : Block) : Block :=
  let x := s.group g
  ((List.range x.members).filter fun r => r != x.rank).foldl (fun s r =>
    sendRecord { dst := x.devices.getD r 0, vs := 1, link := none, bytes := stepNotice g x } s) s

/-- A higher epoch starts: open commands end with REPEAT_STEP, the other members are told of the member's step, and then a
group that is enabled is OPEN, so that the partition's commands enter again (R743, R776). -/
def newEpoch (g : Nat) (e : U32) (s : Block) : Block :=
  let cs := groupCommands s g
  let ok := !(s.group g).late
  let s := ((s.group g).sums.filter fun x => x.status.isNone).foldl (fun s x => repeatSum g x s) s
  let s := cs.foldl (fun s c => endNow c.1 c.2.id .repeatStep s) s
  let s := sendSteps g (s.modGroup g fun x => { x with epoch := e })
  s.modGroup g fun x =>
    { x with sumsOk := if x.sums.isEmpty then x.sumsOk else ok, sums := [], closes := [], parts := [], closing := false
             mismatch := false, st := if x.en then .open else .disabled }

/-- A write of `RE_GROUP_EPOCH_g`. -/
def writeEpoch (g w : Nat) (s : Block) : Block :=
  let s := s.modGroup g fun x =>
    { x with timeoutMs := if bitsOf w 32 16 = 0 then 1 else BitVec.ofNat 16 (bitsOf w 32 16), digestInterval := BitVec.ofNat 16 (bitsOf w 48 16) }
  if (s.group g).epoch.toNat < bitsOf w 0 32 then newEpoch g (BitVec.ofNat 32 w) s else s

def execReGroupEpoch (group : Nat) (value : U64) (s : State) : Result := onBlock s fun s =>
  within (decide (group < 16)) s (writeEpoch group value.toNat)

/-- What a peer's notice of a group's present epoch says: its NEXT_STEP, and its last verdict record. -/
def readNotice (x : RdGroup) (b : List Byte) : Option (Nat × List Byte) :=
  if b.length = 48 && fld b 4 4 = x.epoch.toNat then some (fld b 8 8, b.drop 16) else none

/-- Firmware takes the notice of a group that has arrived from a peer (R776). -/
def takeNotice (g src : Nat) (s : Block) : Option (Nat × List Byte) × Block :=
  match firstAssembled s src 1 with
  | none => (none, s)
  | some r =>
    if fld r.bytes 2 1 ≠ g then (none, s)
    else
      match cvCheck r s with
      | (some b, s) => (readNotice (s.group g) b, returnCredits src 1 1 s)
      | (none, s) => (none, s)

/-- Firmware takes what the other members of a group have sent. -/
def takeNotices (g : Nat) (s : Block) : List (Nat × List Byte) × Block :=
  ((s.group g).devices.filter fun m => m != s.kreash.moduleId.toNat).foldl (fun a m =>
    let (n, s) := takeNotice g m a.2
    (a.1 ++ n.toList, s)) ([], s)

/-- The verdict record of a peer that closed a step with COMMIT or SKIP and stands at step `w` (R777). -/
def peerVerdict (x : RdGroup) (w : Nat) (ns : List (Nat × List Byte)) : Option (List Byte) :=
  (ns.find? fun n => n.1 == w && (fld n.2 1 1 == 1 || fld n.2 1 1 == 3) && fld n.2 8 8 == x.nextStep.toNat).map (·.2)

/-- A member one step behind applies a peer's verdict, and with a COMMIT has its GSS (R777). -/
def RdGroup.adopt (x : RdGroup) (record : List Byte) : RdGroup :=
  let v := fld record 1 1
  { x with lastVerdict := v, lastRecord := record, vCommits := if v = 1 then x.vCommits + 1 else x.vCommits
           vSkips := if v = 3 then x.vSkips + 1 else x.vSkips }

/-- A write of `RE_GROUP_STEP_g`: firmware has taken the peers' notices; a member that is behind adopts a peer's step, and its
verdict, when it is behind by one and its sums all completed with OK; a member behind in any other way enters RESYNC (R777, R778,
assumption 35). -/
def writeStep (g w : Nat) (s : Block) : Block :=
  let (ns, s) := takeNotices g s
  s.modGroup g fun x =>
    let n := x.nextStep.toNat
    let resync := x.st = .open && (decide (n + 1 < w) || (w == n + 1 && !x.sumsOk))
    let y : RdGroup := if x.st = .open && w == n + 1 && x.sumsOk then ((peerVerdict x w ns).map x.adopt).getD x else x
    { y with nextStep := BitVec.ofNat 64 w, st := if resync then .resync else y.st }

/-- A write of `RE_GROUP_CFG_g`: MEMBERS and RINGS out of range are stored as their rows give. A HALTED group leaves that state
only by a new epoch (R784). -/
def writeGroupCfg (g w : Nat) (s : Block) : Block :=
  let m := bitsOf w 13 13
  let r := bitsOf w 26 3
  s.modGroup g fun x =>
    { x with en := bitOf w 0, rank := bitsOf w 1 12, members := if 1 ≤ m && m ≤ 4096 then m else 1
             rings := if r = 0 then 1 else if r = 7 then 6 else r, part := bitsOf w 32 6
             st := if x.st = .halted then .halted else if !bitOf w 0 then .disabled else if x.st = .disabled then .open else x.st }

/-! ### rd.hash (R789) and the commands -/

def runRdHash (c : Cmd) (s : Block) : Work :=
  if chamberHeld s c.core [(c.fld 0x28 4, 32)] then .notYet s
  else
    match vread (whoRd s c) (tlbOf c.core) (c.fld 0x18 8) (c.fld 0x20 8) s with
    | (.error (st, va), s) => if st = .notResident then .fault va 0 s else .done st (cmdEvent c st va s)
    | (.ok bs, s) =>
      match (s.core c.core).tsWriteBad (c.fld 0x28 4) 32 with
      | some w => .done .eccUncorrectable (cmdEvent c .eccUncorrectable 0 (eccSram c.core w false s))
      | none => .done .ok (s.modCore c.core fun k => k.tsWrite (c.fld 0x28 4) (sha3 bs))

/-- An `rd.sum` is asked whether it is complete. -/
def runSum (c : Cmd) (s : Block) : Work :=
  let g := c.rdGroup
  let s := rdRun g s
  match (s.group g).sums.find? fun x => x.cmdId == c.id with
  | none => .done .repeatStep s
  | some x =>
    match x.status with
    | some st => .done st s
    | none => if x.finished then .done .ok (modSum g x.seq (fun y => { y with status := some .ok }) s) else .notYet s

/-- A reduction command does its work. -/
def runReduction (c : Cmd) (s : Block) : Work :=
  match c.code with
  | 1 => runSum c s
  | 2 => runClose c s
  | _ => runRdHash c s

/-- What a reduction command's completion without its work (a cancellation) leaves in its group: one that ends with REPEAT_STEP
counts in LATE. -/
def cancelSum (c : Cmd) (st : Status) (s : Block) : Block :=
  if c.code = 1 && c.refuse.isNone then
    match (s.group c.rdGroup).sums.find? fun x => x.cmdId == c.id with
    | some x =>
      let s := if x.status.isNone && st = .repeatStep then s.modGroup c.rdGroup fun y => { y with cntLate := y.cntLate + 1 } else s
      modSum c.rdGroup x.seq (fun y => { y with status := some (y.status.getD st) }) s
    | none => s
  else s

/-- An `rd.` command enters; an accepted sum joins its group's step, which may seal it. -/
def enterRd (th : Nat) (d : Reg) (pk : Pred) (code : Nat) (q : QueueRef) (b : List Byte) (e : Entry) (s : Block) : Block :=
  let id := s.nextId
  let s := enterCmd th d pk 8 code q b e s
  if code = 1 && e.refuse.isNone then
    let g := fld b 0x38 1
    rdRun g (s.modGroup g fun x =>
      { x with sums := insertSum { q := q, cmdId := id, seq := fld b 0x34 2, nsum := fld b 0x36 2, kind := bitsOf (fld b 0x39 1) 2 2,
                                   sched := bitsOf (fld b 0x39 1) 0 2, count := fld b 0x30 4, status := none, got := [], up := [],
                                   fin := [] } x.sums })
  else s

def issueRd (th : Nat) (d a : Reg) (pk : Pred) (code : Nat) (s : Block) : BlockResult :=
  issueP th [pk] s (engWord th a 8 code (fun s b => rdEntry code s (th / 16) b) (enterRd th d pk code))

def execRdSum (th : Nat) (d a : Reg) (w : EngCode) (s : State) : Result := onBlock s fun s =>
  issueFirst th d a w.pk 8 1 w.code (issueRd th d a w.pk 1) s
def execRdClose (th : Nat) (d a : Reg) (pk : Pred) (s : State) : Result := onBlock s fun s => issueRd th d a pk 2 s
def execRdHash (th : Nat) (d a : Reg) (pk : Pred) (s : State) : Result := onBlock s fun s => issueRd th d a pk 3 s

end Sys2Proof.Machine
end

