-- ==== Sys2Proof/Machine/Pager.lean ====
section
/-! DEFINITION. Who waits for a page, how each goes on when the page comes (R449, R529, R533, R539, R912), and how each
ends when the wait is ended with a final status (R530, `BS_FAULT_END`). -/

namespace Sys2Proof.Machine

/-! ### Remaining work (R912) -/

/-- Energy of what is left of a command's work, in proportion to the pieces between stop points that are not done. -/
def leftOf (energy pieces pos : Nat) : Nat := ceilDiv (energy * (pieces - pos)) (max pieces 1)

/-- The energy in pJ that an `at.run` or `at.back` has still to spend: that of the blocks it has not finished. -/
def AtJob.energyLeft (j : AtJob) (pos : Nat) : Nat :=
  let b := j.blockOf (pos - j.appends)
  450 * { j with blk0 := b, n := j.blk0 + j.n - b }.waves

/-- The derived energy in pJ of what a command has still to do from its position on (R912). -/
def workLeft (s : Block) (c : Cmd) : Nat :=
  let k := s.core c.core
  match c.unit with
  | 1 =>
    let ps := cmdProducts s c
    match ps with
    | [] => 0
    | p :: _ => leftOf (mxEnergy p ((ps.map (·.m)).sum)) (mxPoints ps) c.pos
  | 2 => leftOf (cxEntry c.code true s c.core c.block).energy (cxPoints c) c.pos
  | 3 =>
    let p := mvParams c.block c.code
    36000 * (mvStrips p * p.tiles - c.pos)
  | 6 => if c.code = 0x12 then c.energy else (atJobOf k.ts c.block (c.code == 0x11)).energyLeft c.pos
  | 7 =>
    match peek s ((s.ctxOf c.core).getD 0xFFFF) (c.fld 0x18 8) 256 with
    | none => c.energy
    | some r =>
      let x := shardOf r
      match c.code with
      | 2 => 100 * (x.n - 16384 * c.pos)
      | 3 => 1100 * (x.n - if x.phase = 1 then 16384 * x.cursor else 0)
      | _ => leftOf (100 * x.n) (3 * x.blocks) c.pos
  | 9 =>
    let left := fun (e : Nat × TierEngine) => (e.2.reqs.filter fun r => r.result.isNone &&
      match r.owner with
      | .cmd _ id => id == c.id
      | _ => false).length
    600000 * (c.fld 0x20 4 - c.pos + (s.tier.map left).sum)
  | _ => c.energy

/-- A stopped command resumes: a heavy one asks for a new pass, of the class of its remaining work (R912). -/
def resumeCmd (q : QueueRef) (c : Cmd) (s : Block) : Block :=
  if c.heavy then
    let c' := { c with faultVa := none, resumePass := true, energy := workLeft s c }
    requestPass q c' (s.modCmd q c.id fun _ => c')
  else s.modCmd q c.id fun x => { x with faultVa := none, phase := .entered }

/-- A page comes, and a command that waited for it goes on, unless its unit is stopped (R533, R539). -/
def wakeCmd (q : QueueRef) (c : Cmd) (s : Block) : Block :=
  if queueStopped s q && c.unit ≠ 8 then s.modCmd q c.id fun x => { x with faultVa := none }
  else resumeCmd q c s

/-- An engine none of whose commands waits for a page any more. -/
def settleRd (s : Block) : Block :=
  let waits := fun (e : Nat) => (allQueues s).any fun p =>
    p.2.unit == 8 && p.2.faultVa.isSome && engineOfDie (dieOfBasin p.1.basin) == e
  let clear := fun (e : Nat) (s : Block) => if waits e then s else modRdEngine e (fun r => { r with faultWait := false }) s
  clear 1 (clear 0 s)

/-- The commands of a context that wait for a page between two addresses. -/
def pageWaiters (s : Block) (ctxs : List Nat) (lo hi : Nat) : List (QueueRef × Cmd) :=
  (allQueues s).filter fun p =>
    (match s.ctxOf p.2.core with
     | some x => ctxs.contains x
     | none => false)
    && match p.2.faultVa with
       | some va => decide (lo ≤ va) && decide (va < hi)
       | none => false

/-- A thread PARKED for a page executes its instruction again (R154). -/
def resumeThread (lo hi : Nat) (t : Thread) : Thread :=
  if t.reason = .pager && t.ownFault && lo ≤ t.faultVa.toNat && t.faultVa.toNat < hi then
    let t := { t with cause := .none, status := .ok }
    if t.pagerDue then t
    else if t.st = .parked then t.release
    else { t with reason := .none }
  else t

/-- STEP 3 OF A MOVE INTO T1: every unit of the contexts that waits for the page goes on (R533). -/
def resolvePage (ctxs : List Nat) (lo hi : Nat) (s : Block) : Block :=
  let cores := (s.cores.map (·.1)).filter fun c => match s.ctxOf c with
    | some x => ctxs.contains x
    | none => false
  let s := cores.foldl (fun s c =>
    let s := s.modCore c fun x => { x with threads := x.threads.map fun e => (e.1, resumeThread lo hi e.2) }
    if isSystem c then s else resolveTowpath c lo hi s) s
  let cs := pageWaiters s ctxs lo hi
  let s := cs.foldl (fun s p => wakeCmd p.1 p.2 s) s
  let groups := (cs.filter fun p => p.2.unit == 8 && p.2.code == 1).map fun p => p.2.rdGroup
  groups.foldl (fun s g => rdRun g s) (settleRd s)

/-! ### Final ends (R530) -/

/-- A unit's own part of ending a waiting command with a final status: its events and unpredictable results. -/
def endWork (c : Cmd) (st : Status) (va : Nat) (s : Block) : Block :=
  let take := fun (w : Work) => match w with
    | .done _ s => s
    | .fault _ _ s => s
    | .point _ _ s => s
    | .notYet s => s
  match c.unit with
  | 3 =>
    let p := mvParams c.block c.code
    unitEvent c.core st va (mmScramble c.core p (mvStrips p) s)
  | 6 =>
    let j := atJobOf (s.core c.core).ts c.block (c.code == 0x11)
    let w := whoCore s c.core 5 0
    atFail c j.writes st va (if c.code = 0x11 then scrambleDc w j s else j.tear w c.pos s)
  | 7 =>
    if c.code ≠ 3 then unitEvent c.core st va s
    else
      match peek s ((s.ctxOf c.core).getD 0xFFFF) (c.fld 0x18 8) 256 with
      | some r => take (applyFault c (shardOf r) c.didResume c.didReapply (st, va) s)
      | none =>
        let (bs, s) := freeBytes 31 s
        take (applyEnd c st (leBytes 1 st.code ++ bs) (unitEvent c.core st va s))
  | 8 =>
    if c.code ≠ 1 then cmdEvent c st va s
    else
      match (s.group c.rdGroup).sums.find? fun x => x.cmdId == c.id with
      | some x => sumFault c.rdGroup c x (st, va) s
      | none => cmdEvent c st va s
  | 10 => cmdEvent c st va s
  | _ => s

/-- A command that waits for a page ends with a final status. -/
def endCmdWait (q : QueueRef) (c : Cmd) (st : Status) (s : Block) : Block :=
  let va := c.faultVa.getD 0
  let s := s.modCmd q c.id fun x => { x with faultVa := none }
  settleRd (endNow q c.id st (endWork c st va s))

/-- A thread that waits for its own page is HALTED with the status (R152, R155, R530). -/
def endThreadWait (th : Nat) (st : Status) (s : Block) : Block :=
  let t := s.thread th
  if t.reason = .pager && t.ownFault then
    postHalt th t.cause st t.faultVa.toNat (s.modThread th fun t =>
      { t with st := .halted, reason := .none, status := st, wait := .none, pagerDue := false })
  else s

/-- A towpath queue's waits for pages become final (R450). -/
def endQueueWait (core q : Nat) (st : Status) (hit : Nat → Bool) (s : Block) : Block :=
  let x := s.twq core q
  if x.retry.any fun r => r.2.1 == .notResident && hit r.2.2 then
    let s := s.modTwq core q fun x =>
      { x with retry := x.retry.map fun r => if r.2.1 = .notResident && hit r.2.2 then (r.1, st, r.2.2) else r }
    match st, x.retry.find? fun r => r.2.1 == .notResident && hit r.2.2 with
    | .notResident, some r => finalFault core q st r.2.2 s
    | _, _ => faultCheck core q s
  else s

/-- Every wait for a page between two addresses ends with a status: firmware writes `BS_FAULT_END` for each. A status of
NOT_RESIDENT is final here (R534). -/
def endPage (ctxs : List Nat) (lo hi : Nat) (st : Status) (s : Block) : Block :=
  let hit := fun (va : Nat) => decide (lo ≤ va) && decide (va < hi)
  let cores := (s.cores.map (·.1)).filter fun c => match s.ctxOf c with
    | some x => ctxs.contains x
    | none => false
  let s := cores.foldl (fun s c =>
    let s := (List.range 16).foldl (fun s t =>
      if hit (s.thread (c * 16 + t)).faultVa.toNat then endThreadWait (c * 16 + t) st s else s) s
    if isSystem c then s else [0, 1, 2, 3].foldl (fun s q => endQueueWait c q st hit s) s) s
  (pageWaiters s ctxs lo hi).foldl (fun s p => endCmdWait p.1 p.2 st s) s

/-- A command of a queue that waits for a page. -/
def waiterIn (s : Block) (q : QueueRef) : Option Cmd := (s.queue q).find? fun c => c.faultVa.isSome

/-- `BS_FAULT_END` (R532): the NOT_RESIDENT wait of the named unit ends with STATUS; OK, a reserved status and a unit
with no such wait change nothing. -/
def faultEnd (b w : Nat) (s : Block) : Block :=
  let slot := bitsOf w 16 8
  let inst := bitsOf w 24 4
  let core := b * 16 + slot
  let cmd := fun (q : QueueRef) => match Status.ofCode (bitsOf w 0 8), waiterIn s q with
    | some st, some c => endCmdWait q c st s
    | _, _ => s
  match Status.ofCode (bitsOf w 0 8) with
  | none => s
  | some st =>
    if st = .ok then s
    else
      match bitsOf w 8 8 with
      | 1 => if slot < 16 && (s.thread (core * 16 + inst)).cause = .memFault then endThreadWait (core * 16 + inst) st s else s
      | 2 => if slot < 16 && (s.thread (core * 16 + inst)).cause = .fetchFault then endThreadWait (core * 16 + inst) st s else s
      | 3 => if slot < 16 && inst < 4 then endQueueWait core inst st (fun _ => true) s else s
      | 4 => cmd (.mv b)
      | 5 => if slot < 16 then cmd (.mx core) else s
      | 6 => cmd (.up b)
      | 8 => cmd (.rd b)
      | _ => s

def execBsFaultEnd (basin : Nat) (value : U64) (s : State) : Result := onBlock s fun s =>
  within (decide (basin < 256)) s (faultEnd basin value.toNat)

end Sys2Proof.Machine
end

