-- ==== Sys2Proof/Machine/Tier.lean ====
section
/-! DEFINITION. The tier engines (R460–R492, R529–R535, R798–R804): `tm.` commands, the tier schedule, the move of a page,
rekeying, and the pager. Each of the four steps of a move is one step here, and reading and writing a page within step 2
is indivisible (R464–R466, assumption 11). -/

namespace Sys2Proof.Machine

/-! ### Requests -/

def Block.tierEngine (s : Block) (e : Nat) : TierEngine := SMap.get TierEngine.init e s.tier
def Block.modTier (s : Block) (e : Nat) (f : TierEngine → TierEngine) : Block :=
  { s with tier := SMap.put TierEngine.init e (f (s.tierEngine e)) s.tier }

/-- The I/O die on which firmware puts a page's T2 frame (R475; its choice, assumption 36). -/
def t2Die (va : Nat) : Nat := va / 65536 / 4 % 2

/-- The engine that moves a page (R475). -/
def engineOf (x : Option Leaf) (va dest : Nat) : Nat :=
  let i := va / 65536 % 4
  match x with
  | none => i
  | some x =>
    if leafHome x.l = 3 || dest = 3 then i
    else if leafHome x.l = 2 then 4 * (leafFrame x.l / 2 ^ 40) + i
    else if dest = 2 then 4 * t2Die va + i
    else i

/-- A request for one page reaches its engine. -/
def tierRequest (r : TierReq) (s : Block) : Block :=
  s.modTier (engineOf (leafOf s r.ctx r.va) r.va r.dest) fun t => { t with reqs := t.reqs ++ [r] }

/-- The pages of `n` units of 64 KiB from `va`: each page's address with its place in the range. -/
def rangePages (s : Block) (ctx va n : Nat) : List (Nat × Nat) :=
  (List.range n).filterMap fun i =>
    let a := va + 65536 * i
    match leafOf s ctx a with
    | some x => if x.big && a % 0x20_0000 ≠ 0 then none else some (i, a)
    | none => some (i, a)

/-- The range covers part of a 2 MiB page (R484). -/
def cutsBig (s : Block) (ctx va n : Nat) : Bool :=
  let bigAt := fun (a : Nat) => match leafOf s ctx a with
    | some x => x.big
    | none => false
  (va % 0x20_0000 ≠ 0 && bigAt va) || ((va + 65536 * n) % 0x20_0000 ≠ 0 && bigAt (va + 65536 * n - 1))

/-- The basin charged for a move (R483): the issuing basin, or for a system core and a schedule the partition's lowest;
or the CHARGE-th of the partition. -/
def chargedBasin (s : Block) (own : Option Nat) (part : Option Nat) (self : Bool) (charge : Nat) : Option Nat :=
  let l := match part.bind fun p => SMap.find p s.parts with
    | some x => x.basins
    | none => []
  if !self then l[charge]?
  else match own with
    | some b => some b
    | none => some (l.headD 0)

/-- The fields of a move that R484 refuses, whatever the tables hold. -/
def moveFieldsOk (va pages dest cfmt : Nat) : Bool :=
  va % 65536 == 0 && decide (va < 2 ^ 48) && (1 ≤ pages && pages ≤ 16777216) && decide (va + 65536 * pages ≤ 2 ^ 48)
    && (1 ≤ dest && dest ≤ 3) && (cfmtOk cfmt || cfmt == 15)

/-- The units of 64 KiB after which the scaled work since a pass exceeds that of class 20 (R906). -/
def unitsPerPass (s : Block) (basin : Nat) : Nat := 524288000000 / max (scaledEnergy s (dieOfBasin basin) 600000) 1 + 1

/-! ### `tm.` commands (R480–R486) -/

/-- The partition of the context of a core. -/
def partOfCore (s : Block) (core : Nat) : Option Nat := ((s.ctxOf core).bind s.context).map (·.part)

def moveBasin (s : Block) (core : Nat) (b : List Byte) : Option Nat :=
  chargedBasin s (if isSystem core then none else some (basinOf core)) (partOfCore s core) (bitOf (fld b 0x27 1) 0) (fld b 0x26 1)

/-- The checks and weight of a tier-move command (R480, R484, R485, R904). -/
def tmEntry (code : Nat) (s : Block) (core : Nat) (b : List Byte) : Entry :=
  if code = 2 then .unless (allZero b 0x1C 36) .light
  else
    let va := fld b 0x18 8
    let n := fld b 0x20 4
    let ctx := (s.ctxOf core).getD 0xFFFF
    match moveBasin s core b with
    | none => .fails .internal
    | some basin =>
      if !moveFieldsOk va n (fld b 0x24 1) (fld b 0x25 1) || bitsOf (fld b 0x27 1) 1 7 ≠ 0 || !allZero b 0x28 24
          || cutsBig s ctx va n then .fails .internal
      else if n ≤ 32 then { Entry.light with basin := some basin }
      else { Entry.heavyOf b (600000 * n) 4000 with basin := some basin }

/-- The requests that a command or a run has with the engines. -/
def ownedReqs (s : Block) (o : TierOwner) : List TierReq := s.tier.flatMap fun e => e.2.reqs.filter fun r => decide (r.owner = o)

/-- The die from which the rotation of a request's owner goes on (R478). -/
def ownedRot (s : Block) (o : TierOwner) : Option Nat := (ownedReqs s o).findSome? (·.rot)

/-- The next pages of a `tm.move` that runs reach the engines: all of them, or as many as a pass covers. -/
def feedMove (q : QueueRef) (c : Cmd) (s : Block) : Block :=
  let ctx := (s.ctxOf c.core).getD 0xFFFF
  let va := c.fld 0x18 8
  let n := c.fld 0x20 4
  let upTo := if c.heavy then min n (c.pos + unitsPerPass s c.passBasin) else n
  let pages := (rangePages s ctx va n).filter fun p => decide (c.pos ≤ p.1) && decide (p.1 < upTo)
  let rot := ownedRot s (.cmd q c.id)
  let s := pages.foldl (fun s p =>
    tierRequest { owner := .cmd q c.id, ctx := ctx, va := p.2, dest := c.fld 0x24 1, cfmt := c.fld 0x25 1, charge := c.passBasin,
                  ord := p.1, rot := rot, result := none } s) s
  s.modCmd q c.id fun x => { x with pos := upTo }

/-- The first failure in ascending page address, or OK (R479). -/
def reqsStatus (l : List TierReq) : Status :=
  let bad := l.filter fun r => match r.result with
    | some st => st.isFailure
    | none => false
  match bad with
  | [] => .ok
  | r :: rest => ((rest.foldl (fun (m : TierReq) x => if x.va < m.va then x else m) r).result).getD .ok

/-- A request completes: its engines' LAST_STATUS, and its pages leave their lists. -/
def retireReqs (o : TierOwner) (st : Status) (s : Block) : Block :=
  let f := fun (e : Nat × TierEngine) =>
    let mine := e.2.reqs.any fun r => decide (r.owner = o)
    if mine then (e.1, { e.2 with reqs := e.2.reqs.filter (fun r => decide (r.owner ≠ o)), last := st }) else e
  { s with tier := (s.tier.map f).filter fun e => decide (e.2 ≠ TierEngine.init) }

/-! ### The tier schedule (R487–R492) -/

/-- The run of an entry in a round. -/
def Context.run (c : Context) (round index : Nat) : Option SchedRun := c.runs.find? fun r => r.round == round && r.index == index

/-- An entry has completed in the current round. -/
def Context.entryDone (c : Context) (i : Nat) : Option Status := (c.run c.round i).bind (·.done)

def modRun (ctx id : Nat) (f : SchedRun → SchedRun) (s : Block) : Block :=
  s.modContext ctx fun c => { c with runs := c.runs.map fun r => if r.id = id then f r else r }

/-- The next pages of a run reach the engines. -/
def feedRun (ctx : Nat) (e : SchedEntry) (r : SchedRun) (s : Block) : Block :=
  let upTo := if e.pages ≤ 32 then e.pages else min e.pages (r.fed + unitsPerPass s r.basin)
  let pages := (rangePages s ctx e.va e.pages).filter fun p => decide (r.fed ≤ p.1) && decide (p.1 < upTo)
  let rot := ownedRot s (.sched ctx r.id)
  let s := pages.foldl (fun s p =>
    tierRequest { owner := .sched ctx r.id, ctx := ctx, va := p.2, dest := e.dest, cfmt := e.cfmt, charge := r.basin, ord := p.1,
                  rot := rot, result := none } s) s
  modRun ctx r.id (fun r => { r with fed := upTo }) s

/-- A run completes with a status. -/
def endRun (ctx : Nat) (r : SchedRun) (st : Status) (s : Block) : Block :=
  let s := if r.running then addPower r.basin (-4000) s else s
  modRun ctx r.id (fun r => { r with done := some st, running := false }) (retireReqs (.sched ctx r.id) st s)

/-- The pass power of the share of basin `b` has room for more (R911). -/
def gateOpen (s : Block) (b mw : Nat) : Bool :=
  let die := dieOfBasin b
  let p := partOfShare s b
  decide ((SMap.get 0 (shareKey die p) s.lock.runMw + mw) * s.scale die * 32 ≤ s.lock.peakW.toNat * 1000 * 4096 * shareBasins s die p)

/-- A granted run starts when the gate lets it. -/
def startRun (ctx id : Nat) (s : Block) : Block :=
  match s.context ctx with
  | none => s
  | some c =>
    match c.runs.find? fun r => r.id == id with
    | none => s
    | some r =>
      match c.sched[r.index]? with
      | none => s
      | some e =>
        if !r.granted || r.done.isSome then s
        else if r.running then feedRun ctx e r (modRun ctx id (fun r => { r with granted := false }) s)
        else if gateOpen s r.basin 4000 then
          let s := addPower r.basin 4000 (modRun ctx id (fun r => { r with granted := false, running := true }) s)
          feedRun ctx e r s
        else s

/-- A lock pass is granted to a schedule run (R480). -/
def grantRun (id : Nat) (s : Block) : Block :=
  match s.contexts.find? fun c => c.2.runs.any fun r => r.id == id with
  | none => s
  | some c => startRun c.1 id (modRun c.1 id (fun r => { r with waits := false, granted := true }) s)

/-- Granted runs charged to a basin that have not started, oldest first. -/
def grantedRuns (s : Block) (b : Nat) : List (Nat × Nat) :=
  s.contexts.flatMap fun c => (c.2.runs.filter fun r => r.granted && r.basin == b).map fun r => (c.1, r.id)

/-- The tier engines take the entry at the cursor (R489): carried out as one `tm.move`. -/
def takeEntry (ctx : Nat) (c : Context) (e : SchedEntry) (s : Block) : Block :=
  let id := s.nextId
  let basin := chargedBasin s none (some c.part) (bitOf e.flags 1) e.charge
  let bad := basin.isNone || !moveFieldsOk e.va e.pages e.dest e.cfmt || cutsBig s ctx e.va e.pages
  let b := basin.getD 0
  let energy := scaledEnergy s (dieOfBasin b) (600000 * e.pages)
  let r : SchedRun := { id := id, index := c.cursor, round := c.round, basin := b, fed := 0, more := ceilDiv energy 524288000000 - 1,
                        waits := false, granted := false, running := false, done := if bad then some .internal else none }
  let s := { s with nextId := s.nextId + 1 }
  let s := s.modContext ctx fun c => { c with runs := c.runs ++ [r], cursor := c.cursor + 1 }
  if bad then s
  else if e.pages ≤ 32 then feedRun ctx e r s
  else
    addRequest { q := .tm b, id := id, cls := derivedClass energy, part := partOfShare s b, since := s.gl.timebase.toNat } b
      (modRun ctx id (fun r => { r with waits := true }) s)

/-- SCHEDULE_ENTRY_START: the next entry within reach is taken. -/
def scheduleStart (ctx : Nat) (s : Block) : Block :=
  match s.context ctx with
  | none => s
  | some c =>
    match SMap.find c.part s.parts, c.sched[c.cursor]? with
    | some p, some e =>
      if p.schedEn && !s.ctxFrozen ctx && decide (s.lock.level < 3) && decide (e.layer ≤ c.layer + p.lookaheadAct.toNat) then takeEntry ctx c e s else s
    | _, _ => s

def execScheduleEntryStart (ctx : Nat) (s : State) : Result := onBlock s fun s => within (decide (ctx < 65536)) s (scheduleStart ctx)

/-- `TE_PART_STAT_p`: more entries are late, or skipped (R490, R492). -/
def countLayer (p late skipped : Nat) (s : Block) : Block :=
  let zero : TierCount := { late := 0, skipped := 0 }
  let n := SMap.get zero p s.teCount
  let n' : TierCount := { late := n.late + BitVec.ofNat 32 late, skipped := n.skipped + BitVec.ofNat 32 skipped }
  { s with teCount := SMap.put zero p n' s.teCount }

/-- The rounds of a context that a `tm.layer` which has started still waits in. -/
def layerRounds (s : Block) (ctx : Nat) : List Nat :=
  (allQueues s).filterMap fun e =>
    if e.2.unit = 9 && e.2.code = 2 && e.2.phase = .running && s.ctxOf e.2.core = some ctx then some (e.2.pos / 2 ^ 32) else none

/-- `tm.layer` takes effect as it starts (R490, R492, R509): its round and layer are noted with the command. -/
def startLayer (q : QueueRef) (c : Cmd) (s : Block) : Block :=
  let ctx := (s.ctxOf c.core).getD 0xFFFF
  let l := c.fld 0x18 4
  match s.context ctx with
  | none => s.modCmd q c.id fun x => { x with phase := .running }
  | some x =>
    let fresh := decide (l < x.layer)
    let round := if fresh then x.round + 1 else x.round
    let skipped := if fresh then x.sched.length - x.cursor else 0
    let rounds := x.round :: layerRounds s ctx
    let s := s.modContext ctx fun x =>
      { x with layer := l, round := round, cursor := if fresh then 0 else x.cursor
               runs := if fresh then x.runs.filter fun r => r.done.isNone || rounds.contains r.round else x.runs }
    let late := match s.context ctx with
      | some x => (x.sched.zipIdx.filter fun e => decide (e.1.layer ≤ l) && (x.entryDone e.2).isNone).length
      | none => 0
    let s := countLayer x.part late skipped (s.modPart x.part fun p => { p with lookaheadAct := p.lookahead })
    s.modCmd q c.id fun x => { x with phase := .running, pos := round * 2 ^ 32 + l }

/-- Where a `tm.layer` stands (R491): its status once every WAIT entry of its round at or below its layer has completed;
entries that a later round skipped hold nothing up. -/
def layerStatus (s : Block) (c : Cmd) : Option Status :=
  match s.context ((s.ctxOf c.core).getD 0xFFFF) with
  | none => some .ok
  | some x =>
    let round := c.pos / 2 ^ 32
    let l := c.pos % 2 ^ 32
    let waits := x.sched.zipIdx.filter fun e => bitOf e.1.flags 0 && decide (e.1.layer ≤ l)
    let sts := waits.map fun e => (x.run round e.2).map (·.done)
    let open_ := fun (st : Option (Option Status)) => match st with
      | some none => true
      | none => round == x.round
      | some (some _) => false
    if sts.any open_ then none
    else some (((sts.filterMap fun st => st.bind id).find? Status.isFailure).getD .ok)

/-- What a `tm.` command does when it can start: it is first of its core, its dependency is satisfied, and a heavy one
runs under its pass. -/
def startTm (q : QueueRef) (c : Cmd) (s : Block) : Block :=
  if c.unit ≠ 9 || c.refuse.isSome || c.cancel.isSome || !firstOfCore s q c || 3 ≤ s.lock.level then s
  else if c.code = 2 then (if c.phase = .entered && depMet c then startLayer q c s else s)
  else if c.heavy then
    (if c.phase = .running && c.pos < c.fld 0x20 4 && (ownedReqs s (.cmd q c.id)).all (·.result.isSome)
        && !((s.basin c.passBasin).passes.any fun p => p.id == c.id) then feedMove q c s else s)
  else if c.phase = .entered && depMet c then
    feedMove q c (s.modCmd q c.id fun x => { x with phase := .running })
  else s

/-- The commands of a tier-move queue that can start do. -/
def startTms (q : QueueRef) (s : Block) : Block := (s.queue q).foldl (fun s c => startTm q c s) s

/-- A `tm.` command is asked whether it is complete. -/
def runTm (q : QueueRef) (c : Cmd) (s : Block) : Work :=
  if c.phase ≠ .running then .notYet s
  else if c.code = 2 then
    match layerStatus s c with
    | some st => .done st s
    | none => .notYet s
  else
    let l := ownedReqs s (.cmd q c.id)
    if c.pos < c.fld 0x20 4 || l.any (·.result.isNone) then .notYet s
    else .done (reqsStatus l) (retireReqs (.cmd q c.id) (reqsStatus l) s)

def enterTm (th : Nat) (d : Reg) (pk : Pred) (code : Nat) (q : QueueRef) (b : List Byte) (e : Entry) (s : Block) : Block :=
  startTms q (enterCmd th d pk 9 code q b e s)

def issueTm (th : Nat) (d a : Reg) (pk : Pred) (code : Nat) (s : Block) : BlockResult :=
  issueP th [pk] s (engWord th a 9 code (fun s b => tmEntry code s (th / 16) b) (enterTm th d pk code))

def execTmMove (th : Nat) (d a : Reg) (w : EngCode) (s : State) : Result := onBlock s fun s =>
  issueFirst th d a w.pk 9 1 w.code (issueTm th d a w.pk 1) s
def execTmLayer (th : Nat) (d a : Reg) (pk : Pred) (s : State) : Result := onBlock s fun s => issueTm th d a pk 2 s

/-- What `tm.home` answers for an address (R486): the page's home and state, unless it fails check 1 or, for its key
slot, check 3. -/
def homeOf (s : Block) (ctx va : Nat) : Option Nat :=
  match walk s ctx va with
  | .error _ => none
  | .ok (l, _, _) =>
    let held := match s.context ctx with
      | some c => c.direct || c.slots.contains (leafSlot l) || c.baseRead.contains (leafSlot l)
      | none => false
    if held then some (leafHome l + 4 * b2n (leafMoving l) + 8 * b2n (leafPinned l) + 16 * leafCfmt l) else none

/-- `tm.home` answers at once, in no queue (R486). -/
def tmHome (th : Nat) (d a : Reg) (pk : Pred) (s : Block) : Block :=
  match blockTrap th (s.g th a) with
  | some cause => takeTrap th cause .ok 0 s
  | none =>
    match readBlock th (s.g th a) s with
    | (none, s) => s
    | (some b, s) =>
      let v := if headerOk b 9 3 && allZero b 0x20 32 then homeOf s ((s.ctxOf (th / 16)).getD 0xFFFF) (fld b 0x18 8) else none
      s.modThread th fun t => ((t.setG d (BitVec.ofNat 64 (v.getD 0))).setP pk v.isSome).next 4

def execTmHome (th : Nat) (d a : Reg) (pk : Pred) (s : State) : Result := onBlock s fun s => issueP th [pk] s (tmHome th d a pk)

/-! ### The move of a page (R464–R472, R478, R799) -/

/-- The event record of a move that fails (R472, R503). -/
def tierEvent (e ctx : Nat) (st : Status) (detail : List Byte) (s : Block) : Block :=
  let f := match (s.context ctx).map (·.part) with
    | some p => s.fnOfPart p
    | none => 0
  postEvent f st 0x08 e ctx 0xFF detail s

/-- The failure of a page whose contents cannot be decoded. -/
def codecFail (e ctx va : Nat) (err : CodecErr × Nat) (s : Block) : Block :=
  tierEvent e ctx .internal (leBytes 1 err.1.code ++ zeros 1 ++ leBytes 2 err.2 ++ zeros 4 ++ leBytes 8 va) s

/-- The status of a host access that fails (R857). -/
def hostStatus (s : Block) (a n : Nat) : Option Status :=
  (hostFail s a n).map fun timeout => if timeout then .internal else .xlateFault

/-- The additional data of a sealed T3 page: its VA and EPOCH (R799; their layout is DEDUCED, assumption 23). -/
def t3Aad (va epoch : Nat) : List Byte := leBytes 8 va ++ leBytes 1 epoch

/-- The compressed page of a page homed below T1, and the host or T2 bytes it was read from. -/
def readCompressed (e ctx va : Nat) (x : Leaf) (s : Block) : Except Status (List Byte) × Block :=
  let a := leafFrame x.l
  if leafHome x.l = 2 then
    let max := match s.mem.granules.find? fun h => h.first == a / 4096 with
      | some h => h.n * 4096
      | none => if x.big then 515 * 4096 else 17 * 4096
    let n := min (fld (t2Data s a 32) 8 4) max
    match t2BadIn s a (Nat.max n 32) with
    | some w => (.error .eccUncorrectable, tierEvent e ctx .eccUncorrectable (zeros 8 ++ leBytes 8 va) (eccT2 w false 0x08 e 0xFF s))
    | none => (.ok (t2Data s a n), t2Met a (Nat.max n 32) s)
  else
    let (n, s) := match SMap.find a s.mem.t3len with
      | some n => (n, s)
      | none => s.freeBelow (if x.big then 515 * 4096 else 17 * 4096)
    match hostStatus s a (n + 28) with
    | some st => (.error st, hostReport 0 a (n + 28) s)
    | none =>
      let s := atsTouch 0 a (n + 28) s
      let bs := Mem.read s.mem.host a (n + 28)
      match openUnder (leafSlot x.l) (leafEpoch x.l) ((bs.drop n).take 12) (t3Aad va (leafEpoch x.l)) (bs.take n) (bs.drop (n + 12)) s with
      | .ok pt => (.ok pt, s)
      | .error st => (.error st, s)

/-- Count a page's work in an engine's registers. -/
def countCodec (e raw cmp : Nat) (s : Block) : Block :=
  s.modTier e fun t => { t with raw := t.raw + BitVec.ofNat 64 raw, cmp := t.cmp + BitVec.ofNat 64 cmp }

/-- A page's bytes, read from its home. -/
def readPage (e ctx va : Nat) (x : Leaf) (s : Block) : Except Status (List Byte) × Block :=
  let size := pageSize x.big
  if leafHome x.l = 1 then
    match t1BadIn s (leafFrame x.l) size with
    | some w => (.error .eccUncorrectable,
        tierEvent e ctx .eccUncorrectable (zeros 8 ++ leBytes 8 (va + (max w (leafFrame x.l) - leafFrame x.l)))
          (eccT1 w false 0x08 e 0xFF s))
    | none => (.ok (t1Data s (leafFrame x.l) size), t1Met (leafFrame x.l) size s)
  else
    match readCompressed e ctx va x s with
    | (.error st, s) => (.error st, s)
    | (.ok c, s) =>
      match decodePage va x.big c with
      | .error err => (.error .internal, codecFail e ctx va err (countCodec e 0 c.length s))
      | .ok bs => (.ok bs, countCodec e size c.length s)

/-- A leaf with MOVING set or clear. -/
def setMoving (v : Bool) (l : U64) : U64 := setBits l 8 1 (b2n v)

/-- A leaf with a new home, frame, format and epoch, its MOVING clear (step 3 of R464). -/
def rehome (l : U64) (home frame cfmt epoch : Nat) : U64 :=
  setMoving false (setBits (setBits (setBits (setBits l 2 2 home) 12 36 (frame / 4096)) 48 4 cfmt) 10 2 epoch)

/-- Where firmware puts a sealed T3 page of `n` bytes: a free choice among the host pages that keep all of it below 2⁴⁸
(R515). -/
def t3Place (n : Nat) (s : Block) : Nat × Block := s.freeBelow (2 ^ 36 + 1 - ceilDiv n 4096)

/-- Place a page's bytes in their new home: its new leaf, or the status the move ends with. -/
def placePage (e ctx va : Nat) (x : Leaf) (dest cfmt : Nat) (dies : List Nat) (bs : List Byte) (s : Block) : Except Status U64 × Block :=
  let size := pageSize x.big
  let n := if x.big then 32 else 1
  let part := quotaOf s ctx va
  let epoch := leafEpoch x.l
  match dest with
  | 1 =>
    match (if t1Fits s part size then takeFrames s dies n else none) with
    | none => (.error .busy, s)
    | some f =>
      let s := holdFrames { first := f, n := n, ctx := ctx, va := va, part := part } (s.spent 1)
      (.ok (rehome x.l 1 (f * 65536) (leafCfmt x.l) epoch), t1Write (f * 65536) bs (t1Zero (f * 65536) size s))
  | 2 =>
    let c := encodePage cfmt x.big va bs
    let g := granulesOf c.length
    match (if t2Fits s part (4096 * g) then freeGranules s (t2Die va) g else none) with
    | none => (.error .busy, s)
    | some f =>
      let s := holdGranules { first := f, n := g, ctx := ctx, va := va, part := part } (s.spent 1)
      (.ok (rehome x.l 2 (f * 4096) cfmt epoch), countCodec e size c.length (t2Write (f * 4096) c s))
  | _ =>
    let c := encodePage cfmt x.big va bs
    let (a, s) := t3Place (c.length + 28) s
    match hostStatus s (a * 4096) (c.length + 28) with
    | some st => (.error st, hostReport 0 (a * 4096) (c.length + 28) s)
    | none =>
      let cur := (s.slot (leafSlot x.l)).epoch.toNat
      match sealUnder (leafSlot x.l) (t3Aad va cur) c s with
      | (.error st, s) => (.error st, s)
      | (.ok (ct, iv, tag, ep), s) =>
        let s := hostWrite (a * 4096) (ct ++ iv ++ tag) (atsTouch 0 (a * 4096) (c.length + 28) s)
        let s := { s with mem := { s.mem with t3len := SMap.put 0 (a * 4096) c.length s.mem.t3len } }
        let s := if ep = epoch then s else s.modSlot (leafSlot x.l) fun k => KeySlot.retire { k with oldPages := k.oldPages - 1 }
        (.ok (rehome x.l 3 (a * 4096) cfmt ep), countCodec e size c.length s)

/-- The bounds of the page at an address. -/
def pageBounds (s : Block) (ctx va : Nat) : Nat × Nat :=
  let big := match leafOf s ctx va with
    | some x => x.big
    | none => false
  (pageBase big va, pageBase big va + pageSize big)

/-- The contexts whose units may wait for a page: every one for a window page (R615). -/
def sharers (s : Block) (ctx va : Nat) : List Nat := if inWindow va then s.contexts.map (·.1) else [ctx]

/-- An access that translated to a T1 frame has not finished (step 4 of R464); with `write`, one that may write. -/
def frameInUse (s : Block) (write : Bool) (pa n : Nat) : Bool :=
  s.cores.any fun e => e.2.threads.any fun t =>
    t.2.st = .waiting &&
      match t.2.wait with
      | .load _ _ a _ _ _ _ => !write && decide (pa ≤ a) && decide (a < pa + n)
      | .amo _ _ _ a _ _ _ _ _ _ => decide (pa ≤ a) && decide (a < pa + n)
      | _ => false

/-- A page's entry changes, in its table and in every basin TLB that holds it (step 1 of R464, R802). -/
def markMoving (v : Bool) (ctx va : Nat) (x : Leaf) (s : Block) : Block :=
  let s := putLeaf x (setMoving v x.l) s
  { s with basins := s.basins.map fun e =>
      (e.1, { e.2 with tlb := e.2.tlb.map fun t =>
        if t.va == pageBase t.big va && (t.ctx == ctx || inWindow va) then { t with leaf := setMoving v t.leaf } else t }) }

/-- Threads whose write or atomic waited for a page that is MOVING no more issue it again (R466). -/
def releaseMoving (ctxs : List Nat) (lo hi : Nat) (s : Block) : Block :=
  { s with cores := s.cores.map fun e =>
      match s.ctxOf e.1 with
      | none => e
      | some x =>
        if ctxs.contains x then
          (e.1, { e.2 with threads := e.2.threads.map fun t =>
            match t.2.wait with
            | .moving va => if t.2.st = .waiting && lo ≤ va && va < hi then (t.1, t.2.release) else t
            | _ => t })
        else e }

/-- What a request that has not begun to move its page comes to: its status, or the page to move; none while the page is
MOVING (R464, R468–R470, R517). -/
def judgeMove (r : TierReq) (s : Block) : Option (Except Status Leaf) :=
  let direct := match s.context r.ctx with
    | some c => c.direct && !inWindow r.va
    | none => false
  if direct then some (.error (if r.dest = 1 then .ok else .busy))
  else
    match leafOf s r.ctx r.va with
    | none => some (.error .xlateFault)
    | some x =>
      let va := pageBase x.big r.va
      if inBaseWindow va && decide (r.ctx ≠ 0) && decide (r.owner ≠ .pager) then some (.error .permFault)
      else if leafMoving x.l then none
      else if leafHome x.l = 0 then some (.error .internal)
      else if leafHome x.l = r.dest then some (.error .ok)
      else if leafPinned x.l then some (.error .busy)
      else
        match slotCheck (s.slot (leafSlot x.l)) (leafEpoch x.l) with
        | some st => some (.error st)
        | none => some (.ok x)

/-- The dies a page of a request goes to, first choice first: in rotation from the die of the charged basin, one page per
die in turn (R478). -/
def destDies (s : Block) (r : TierReq) : List Nat :=
  let l := diesOf s ((s.context r.ctx).map (·.part))
  rotateDies l (r.rot.getD (dieOfBasin r.charge)) (if r.rot.isSome then 1 else 0)

/-- The rotation of a request's owner goes on from the die that a page went to. -/
def turnDies (o : TierOwner) (l : U64) (s : Block) : Block :=
  if leafHome l ≠ 1 then s
  else
    let d := dieOfFrame (leafFrame l / 65536)
    { s with tier := s.tier.map fun e =>
        (e.1, { e.2 with reqs := e.2.reqs.map fun r => if r.owner = o then { r with rot := some d } else r }) }

/-- Step 2: the page is read, encoded or decoded, and written to its destination, once no write that translated before
step 1 is outstanding: the leaf that step 3 writes, or the status the move ends with. -/
def copyPage (e : Nat) (j : TierJob) (x : Leaf) (s : Block) : Except Status U64 × Block :=
  let r := j.req
  let cfmt := if r.dest = 1 || r.cfmt = 15 then leafCfmt x.l else r.cfmt
  match slotCheck (s.slot (leafSlot x.l)) (leafEpoch x.l) with
  | some st => (.error st, s)
  | none =>
    match readPage e r.ctx j.va x s with
    | (.error st, s) => (.error st, s)
    | (.ok bs, s) => placePage e r.ctx j.va x r.dest cfmt (destDies s r) bs s

/-- The four steps of a move with nothing between them, as the adapter service moves the pages of an image that nothing
uses: its status. -/
def movePage (e : Nat) (r : TierReq) (s : Block) : Status × Block :=
  match judgeMove r s with
  | none => (.busy, s)
  | some (.error st) => (st, s)
  | some (.ok x) =>
    let va := pageBase x.big r.va
    let s := if leafHome x.l = 1 then landRange (leafFrame x.l) (pageSize x.big) s else s
    match copyPage e { req := r, stage := 1, va := va, addr := x.addr, big := x.big, old := x.l, new := 0 } x s with
    | (.error st, s) => (st, s)
    | (.ok l, s) => (.ok, (releaseHome x (dropPage r.ctx va (putLeaf x l s))).modTier e fun t => { t with pages := t.pages + 1 })

/-! ### The pager (R532–R534) -/

/-- The partition of a context has room in T1 for a page. -/
def roomFor (s : Block) (ctx va : Nat) : Bool :=
  match leafOf s ctx va with
  | none => true
  | some x =>
    t1Fits s (quotaOf s ctx va) (pageSize x.big)
      && (takeFrames s (diesOf s ((s.context ctx).map (·.part))) (if x.big then 32 else 1)).isSome

/-- The page that the pager moves out of T1 next (R534): of the partition's pages, the one homed there longest, passing over
pinned pages, pages that are MOVING and window pages, and those of `tried`. -/
def nextOut (s : Block) (part : Option Nat) (tried : List (Nat × Nat)) : Option (Nat × Nat × Leaf) :=
  s.mem.frames.findSome? fun h =>
    if h.part != part || inWindow h.va || tried.contains (h.ctx, h.va) then none
    else
      match leafOf s h.ctx h.va with
      | none => none
      | some x => if leafPinned x.l || leafMoving x.l || leafHome x.l ≠ 1 then none else some (h.ctx, h.va, x)

/-- The pager's request for a page ends its waits with a status (R532, R534). -/
def pagerEnds (r : TierReq) (st : Status) (s : Block) : Block :=
  let (lo, hi) := pageBounds s r.ctx r.va
  endPage (sharers s r.ctx r.va) lo hi st s

/-- Room is made for a page until its move can be tried again (R534): one page at a time is asked out of T1; when no page
remains, the waits end with NOT_RESIDENT. -/
def makeRoom (w : RoomWait) (s : Block) : Block :=
  let s := { s with rooms := s.rooms.filter fun x => !(x.req.ctx == w.req.ctx && x.req.va == w.req.va) }
  if roomFor s w.req.ctx w.req.va then tierRequest w.req s
  else
    match nextOut s ((s.context w.req.ctx).map (·.part)) w.tried with
    | none => pagerEnds w.req .notResident s
    | some (ctx, va, _) =>
      tierRequest { owner := .room w.req.ctx w.req.va, ctx := ctx, va := va, dest := 2, cfmt := 15, charge := w.req.charge, ord := 0,
                    rot := none, result := none } { s with rooms := s.rooms ++ [w] }

/-- The pager's request for room has its result: with T2 full the waits end (R534); a page that cannot be moved for another
reason is passed over. -/
def roomDone (wctx wva : Nat) (r : TierReq) (st : Status) (quota : Bool) (s : Block) : Block :=
  match s.rooms.find? fun w => w.req.ctx == wctx && w.req.va == wva with
  | none => s
  | some w =>
    if st = .ok then makeRoom w s
    else if quota then
      pagerEnds w.req .notResident { s with rooms := s.rooms.filter fun x => !(x.req.ctx == wctx && x.req.va == wva) }
    else makeRoom { w with tried := (r.ctx, r.va) :: w.tried } s

/-- The pager's move of a page has its result (R532–R534): with no room (`quota`) room is made and the move tried again; BUSY
for a pinned page, which no rule lets the pager cure, ends the waits with NOT_RESIDENT (DESIGN CHOICE, assumption 98). -/
def pagerDone (r : TierReq) (st : Status) (quota : Bool) (s : Block) : Block :=
  if st = .ok then s
  else if quota then makeRoom { req := { r with rot := none, result := none }, tried := [] } s
  else pagerEnds r (if st = .busy then .notResident else st) s

/-- A run whose fed pages are done completes, or asks for its next pass (R906). -/
def settleRun (ctx id : Nat) (s : Block) : Block :=
  match s.context ctx with
  | none => s
  | some c =>
    match c.runs.find? fun r => r.id == id with
    | none => s
    | some r =>
      match c.sched[r.index]? with
      | none => s
      | some e =>
        let l := ownedReqs s (.sched ctx id)
        if r.done.isSome || l.any (·.result.isNone) then s
        else if e.pages ≤ r.fed then endRun ctx r (reqsStatus l) s
        else if r.waits || r.granted then s
        else
          addRequest { q := .tm r.basin, id := id, cls := 20, part := partOfShare s r.basin, since := s.gl.timebase.toNat } r.basin
            (modRun ctx id (fun r => { r with waits := true, more := r.more - 1 }) s)

/-- A `tm.move` whose fed pages are done, with more to move, asks for its next pass (R906). -/
def settleMove (q : QueueRef) (id : Nat) (s : Block) : Block :=
  match (s.queue q).find? fun c => c.id == id with
  | none => s
  | some c =>
    let l := ownedReqs s (.cmd q id)
    if c.phase ≠ .running || c.fld 0x20 4 ≤ c.pos || l.any (·.result.isNone)
        || (s.basin c.passBasin).passes.any (fun p => p.id == id) then s
    else addRequest { q := q, id := id, cls := 20, part := partOfShare s c.passBasin, since := s.gl.timebase.toNat } c.passBasin s

/-- Faults that waited for a move of their page which another owner asked for (R467): resolved by it, or the pager's own move
is asked for. -/
def settleDeferred (ctx lo hi : Nat) (st : Status) (s : Block) : Block :=
  let mine := s.deferred.filter fun r => (r.ctx == ctx || inWindow lo) && decide (lo ≤ r.va) && decide (r.va < hi)
  let s := { s with deferred := s.deferred.filter fun r => !mine.contains r }
  if st = .ok then s else mine.foldl (fun s r => tierRequest r s) s

/-- A page request has its result; `quota` says that BUSY came of R471. -/
def putResult (e : Nat) (r : TierReq) (st : Status) (quota : Bool) (s : Block) : Block :=
  let (lo, hi) := pageBounds s r.ctx r.va
  let set := fun (l : List TierReq) => l.map fun x => if x.owner = r.owner && x.va = r.va && x.result.isNone then { x with result := some st } else x
  let drop := fun (s : Block) => s.modTier e fun t => { t with reqs := t.reqs.filter fun x => !(x.owner = r.owner && x.ctx = r.ctx && x.va = r.va), last := st }
  let s := match r.owner with
    | .pager => pagerDone r st quota (drop s)
    | .room ctx va => roomDone ctx va r st quota (drop s)
    | .cmd q id => settleMove q id (s.modTier e fun t => { t with reqs := set t.reqs })
    | .sched ctx id => settleRun ctx id (s.modTier e fun t => { t with reqs := set t.reqs })
  if r.dest = 1 then settleDeferred r.ctx lo hi st s else s

/-- A move that has begun ends before step 3: MOVING is clear again (R472). -/
def giveUp (e : Nat) (j : TierJob) (st : Status) (quota : Bool) (s : Block) : Block :=
  let s := match leafOf s j.req.ctx j.va with
    | some x => if x.addr = j.addr && leafMoving x.l then markMoving false j.req.ctx j.va x s else s
    | none => s
  let s := releaseMoving (sharers s j.req.ctx j.va) j.va (j.va + pageSize j.big) (s.modTier e fun t => { t with job := none })
  putResult e j.req st quota s

/-- The page of a move is still mapped by the entry that step 1 marked. -/
def stillMoving (s : Block) (j : TierJob) : Option Leaf :=
  match leafOf s j.req.ctx j.va with
  | some x => if x.addr = j.addr && leafMoving x.l && leafFrame x.l = leafFrame j.old then some x else none
  | none => none

/-- What a destination that no entry names holds is released. -/
def dropDest (j : TierJob) (s : Block) : Block := releaseHome { l := j.new, addr := j.addr, big := j.big } s

/-- The next step of the page that an engine moves (R464). -/
def moveStep (e : Nat) (j : TierJob) (s : Block) : Block :=
  let ctx := j.req.ctx
  let size := pageSize j.big
  let old : Leaf := { l := j.old, addr := j.addr, big := j.big }
  match j.stage with
  | 1 =>
    match stillMoving s j with
    | none => giveUp e j .xlateFault false s
    | some x =>
      if leafHome x.l = 1 && frameInUse s true (leafFrame x.l) size then s
      else
        let s := if leafHome x.l = 1 then landRange (leafFrame x.l) size s else s
        match copyPage e j x s with
        | (.error st, s) => giveUp e j st (st = .busy) s
        | (.ok l, s) => turnDies j.req.owner l (s.modTier e fun t => { t with job := some { j with stage := 2, old := x.l, new := l } })
  | 2 =>
    match stillMoving s j with
    | none => giveUp e j .xlateFault false (dropDest j s)
    | some x =>
      let s := dropPage ctx j.va (putLeaf x j.new s)
      let s := s.modTier e fun t => { t with job := some { j with stage := 3 } }
      let s := releaseMoving (sharers s ctx j.va) j.va (j.va + size) s
      if j.req.dest = 1 then resolvePage (sharers s ctx j.va) j.va (j.va + size) s else s
  | _ =>
    if leafHome j.old = 1 && frameInUse s false (leafFrame j.old) size then s
    else
      let s := (releaseHome old s).modTier e fun t => { t with job := none, pages := t.pages + 1 }
      putResult e j.req .ok false s

/-- A request for a page whose home has changed since reaches the engine that moves it now (R475). -/
def handOn (e : Nat) (r : TierReq) (s : Block) : Block :=
  tierRequest r (s.modTier e fun t => { t with reqs := t.reqs.erase r })

/-- The request's owner runs: a heavy one is under its pass (R480, R912). -/
def ownerRuns (s : Block) (r : TierReq) : Bool :=
  match r.owner with
  | .cmd q id => (s.queue q).any fun c => c.id == id && decide (c.phase = .running)
  | .sched ctx id => (s.context ctx).any fun c => c.runs.any fun x =>
      x.id == id && (x.running || (c.sched[x.index]?).any fun e => decide (e.pages ≤ 32))
  | _ => true

/-- Step 1: the engine takes its first request that is not done; MOVING is set in the page's entry and in the TLBs, or the
request has its result at once. -/
def beginMove (e : Nat) (s : Block) : Block :=
  match (s.tierEngine e).reqs.find? fun r => r.result.isNone && !s.ctxFrozen r.ctx && ownerRuns s r with
  | none => s
  | some r =>
    match judgeMove r s with
    | none => s
    | some (.error st) => putResult e r st false s
    | some (.ok x) =>
      if engineOf (some x) r.va r.dest ≠ e then handOn e r s
      else
        let va := pageBase x.big r.va
        let j : TierJob := { req := r, stage := 1, va := va, addr := x.addr, big := x.big, old := setMoving true x.l, new := 0 }
        markMoving true r.ctx va x (s.modTier e fun t => { t with job := some j })

/-- PAGE_MOVE: engine `e` goes one step on with the page it is moving, or begins with the next; at weir level 3, and for a
frozen function, it begins none: it stops between pages (R481, R865). -/
def pageMove (e : Nat) (s : Block) : Block :=
  match (s.tierEngine e).job with
  | some j => moveStep e j s
  | none => if 3 ≤ s.lock.level then s else beginMove e s

def execPageMove (engine : Nat) (s : State) : Result := onBlock s fun s => within (decide (engine < 8)) s (pageMove engine)

/-- FAULT_RECORD_TAKE: firmware takes a die's oldest fault record; for a page that is not resident it asks for the page's
move into T1 with the faulting basin charged (R532), unless the pager has asked for it; where another owner's move is bringing
the page to T1 it waits for that move (R467). -/
def takeRecord (die : Nat) (s : Block) : Block :=
  match SMap.get [] die s.faults with
  | [] => s
  | bs :: rest =>
    let r := FaultRec.ofBytes bs
    let s := { s with faults := SMap.put [] die rest s.faults }
    if r.status ≠ .notResident then s
    else
      let (lo, hi) := pageBounds s r.ctx r.va
      let here := fun (x : TierReq) => x.dest == 1 && (x.ctx == r.ctx || inWindow r.va) && decide (lo ≤ x.va) && decide (x.va < hi)
      let asked : List TierReq := s.tier.flatMap fun (e : Nat × TierEngine) => e.2.reqs.filter fun (x : TierReq) => x.result.isNone && here x
      let req : TierReq := { owner := .pager, ctx := r.ctx, va := lo, dest := 1, cfmt := 15, charge := r.basin, ord := 0, rot := none,
                             result := none }
      if (asked.any fun x => x.owner == TierOwner.pager) || s.rooms.any (fun w => here w.req) || s.deferred.any here then s
      else if !asked.isEmpty then { s with deferred := s.deferred ++ [req] }
      else tierRequest req s

def execFaultRecordTake (die : Nat) (s : State) : Result := onBlock s fun s => within (decide (die < 8)) s (takeRecord die)

/-! ### Rekeying (R802–R804) -/

/-- The bytes of a T3 page are opened under the previous epoch and sealed again under the current one (R802). -/
def resealPage (slot ctx page : Nat) (x : Leaf) (s : Block) : Bool × Block :=
  match readCompressed 0 ctx page x s with
  | (.error _, s) => (false, s)
  | (.ok c, s) =>
    match sealUnder slot (t3Aad page (s.slot slot).epoch.toNat) c s with
    | (.error _, s) => (false, s)
    | (.ok (ct, iv, tag, _), s) => (true, hostWrite (leafFrame x.l) (ct ++ iv ++ tag) s)

/-- Steps 2 and 3 of a rekey (R802): the page is encrypted again in its place, its entry gets the current epoch, its MOVING
clears, and OLD_PAGES falls by 1. A T3 page that cannot be read or sealed keeps its epoch. -/
def rekeyEnd (slot ctx page : Nat) (x : Leaf) (s : Block) : Block :=
  let s := { s with rekeys := s.rekeys.erase (slot, ctx, page) }
  let free := releaseMoving (sharers s ctx page) page (page + pageSize x.big)
  let (ok, s) := if leafHome x.l = 3 then resealPage slot ctx page x s else (true, s)
  if !ok then free (markMoving false ctx page x s)
  else
    let s := dropPage ctx page (putLeaf x (setMoving false (setBits x.l 10 2 (s.slot slot).epoch.toNat)) s)
    free (s.modSlot slot fun k => KeySlot.retire { k with oldPages := k.oldPages - 1 })

/-- REKEY_PAGE: a page still at the previous epoch of a rotating slot is encrypted again under the current one, in place
(R802): first MOVING is set, so that writes and atomics wait (R803), and then, once none is outstanding, the rest is done. At
weir level 3 no page is begun (R481). -/
def rekeyPage (slot ctx va : Nat) (s : Block) : Block :=
  let k := s.slot slot
  match leafOf s ctx va with
  | none => s
  | some x =>
    let page := pageBase x.big va
    let mine := s.rekeys.contains (slot, ctx, page)
    if k.st ≠ .rotating || leafSlot x.l ≠ slot || leafEpoch x.l ≠ (k.epoch - 1).toNat then
      (if mine then { (if leafMoving x.l then markMoving false ctx page x s else s) with rekeys := s.rekeys.erase (slot, ctx, page) } else s)
    else if !mine then
      (if leafMoving x.l || 3 ≤ s.lock.level then s
       else markMoving true ctx page x { s with rekeys := s.rekeys ++ [(slot, ctx, page)] })
    else if leafHome x.l = 1 && frameInUse s true (leafFrame x.l) (pageSize x.big) then s
    else rekeyEnd slot ctx page x (if leafHome x.l = 1 then landRange (leafFrame x.l) (pageSize x.big) s else s)

def execRekeyPage (slot ctx va : Nat) (s : State) : Result := onBlock s fun s =>
  within (decide (slot < 4096) && decide (ctx < 65536)) s (rekeyPage slot ctx va)

end Sys2Proof.Machine
end

