-- ==== Sys2Proof/Machine/Check.lean ====
section
/-! DEFINITION. `ck.run`, the check-value command of the system cores (R892, R896), and the host accesses it shares with
firmware's other work (R856, R857). -/

namespace Sys2Proof.Machine

/-! ### Host memory (R856, R857) -/

/-- Read host memory as function `f`: its bytes, or the status its operation ends with. -/
def hostRead (f a n : Nat) (s : Block) : Except Status (List Byte) × Block :=
  match hostStatus s a n with
  | some st => (.error st, hostReport f a n s)
  | none =>
    let s := atsTouch f a n s
    (.ok (Mem.read s.mem.host a n), s)

/-- Write host memory as function `f`. -/
def hostPut (f a : Nat) (bs : List Byte) (s : Block) : Except Status Unit × Block :=
  match hostStatus s a bs.length with
  | some st => (.error st, hostReport f a bs.length s)
  | none => (.ok (), hostWrite a bs (atsTouch f a bs.length s))

/-! ### ck.run -/

/-- The body of `ck.run` keeps R896. -/
def ckOk (b : List Byte) : Bool :=
  (1 ≤ fld b 0x20 4 && fld b 0x20 4 < 2 ^ 32) && bitsOf (fld b 0x24 1) 3 5 == 0 && allZero b 0x25 27

/-- The checks at entry. A check is never heavy. -/
def ckEntry (b : List Byte) : Entry := .when (ckOk b) .light

/-- The value of an object trailer, as its bytes. -/
def trailerOf (poly : Bool) (bs : List Byte) : List Byte :=
  if poly then leBytes 8 (crc64nvme bs) else leBytes 4 (crc32c bs)

/-- Bytes at the command's address: a host address, reached through the physical function, or a device VA. -/
def ckRead (c : Cmd) (host : Bool) (a n : Nat) (s : Block) : Except (Status × Nat) (List Byte) × Block :=
  if host then
    match hostRead 0 a n s with
    | (.ok bs, s) => (.ok bs, s)
    | (.error st, s) => (.error (st, a), s)
  else vread (whoThread s c.thread 1) none a n s

def ckWrite (c : Cmd) (host : Bool) (a : Nat) (bs : List Byte) (s : Block) : Except (Status × Nat) Unit × Block :=
  if host then
    match hostPut 0 a bs s with
    | (.ok _, s) => (.ok (), s)
    | (.error st, s) => (.error (st, a), s)
  else vwrite (whoThread s c.thread 1) none a bs s

/-- A wrong check value of a command or a host record is counted in a check-value unit, any of the eight. -/
def checkFailed (s : Block) : Block :=
  let (u, s) := s.freeBelow 8
  countMismatch u s

/-- A check-value command does its work: the trailer after the bytes is written, or compared. On a page that is not resident it
waits (R530). -/
def runCk (c : Cmd) (s : Block) : Work :=
  let a := c.fld 0x18 8
  let n := c.fld 0x20 4
  let mode := c.fld 0x24 1
  let host := bitOf mode 2
  let fail := fun (e : Status × Nat) (s : Block) =>
    if e.1 = .notResident then Work.fault e.2 0 s else Work.done e.1 (cmdEvent c e.1 e.2 s)
  match ckRead c host a n s with
  | (.error e, s) => fail e s
  | (.ok bs, s) =>
    let t := trailerOf (bitOf mode 1) bs
    if bitOf mode 0 then
      match ckRead c host (a + n) t.length s with
      | (.error e, s) => fail e s
      | (.ok u, s) => if u = t then .done .ok s else .done .checkMismatch (checkFailed s)
    else if !host && writeHeld s (whoThread s c.thread 1).ctx (a + n) t.length accWrite then .notYet s
    else
      match ckWrite c host (a + n) t s with
      | (.error e, s) => fail e s
      | (.ok _, s) => .done .ok s

def execCkRun (th : Nat) (d a : Reg) (w : EngCode) (s : State) : Result := onBlock s fun s =>
  issueFirst th d a w.pk 10 1 w.code (issueEng th d a w.pk 10 1 (fun _ b => ckEntry b)) s

end Sys2Proof.Machine
end

