-- ==== Sys2Proof/Machine/Service.lean ====
section
/-! DEFINITION. Command rings, service queues and event rings: how entries are posted, taken and completed (R623–R630,
R839–R844), who may post which operation (R628, R629, R845), and how event records and interrupts are released
(R851–R855). -/

namespace Sys2Proof.Machine

/-- The module is ready: firmware serves its rings and queues, and memory requests outside the TH_ block are answered
(R919, R949, R950). -/
def fwUp (s : Block) : Bool := decide (s.th.stage = .ready)

/-- A host write outside the TH_ block takes effect only while the module is ready (R949). -/
def whenUp (f : Block → Block) (s : Block) : Block := if fwUp s then f s else s

/-! ### Operations and their posters -/

/-- The operations of R628. -/
def serviceOps : List Nat :=
  [0x01, 0x02, 0x03, 0x04, 0x05, 0x06, 0x07, 0x08, 0x10, 0x11, 0x18, 0x19, 0x1A, 0x20, 0x21, 0x22, 0x23]

/-- The host operations of R845 and R863. -/
def hostOps : List Nat :=
  [0x30, 0x31, 0x38, 0x39, 0x3A, 0x3B, 0x40, 0x41, 0x42, 0x43, 0x50, 0x51, 0x52, 0x53, 0x54, 0x55, 0x56, 0x57, 0x58]

/-- The operation exists where it is posted (R628, R845). -/
def opKnown (p : Poster) (op : Nat) : Bool :=
  match p with
  | .ring .. => serviceOps.contains op || hostOps.contains op
  | .service .. => serviceOps.contains op

/-- The tables of R628 and R845 name this kind of actor for the operation. -/
def actorNamed (p : Poster) (op : Nat) : Bool :=
  match p with
  | .ring 0 .. => !([0x21, 0x22].contains op)
  | .ring .. => !([0x08, 0x18, 0x19, 0x1A, 0x21, 0x22, 0x38, 0x39, 0x3A].contains op) && op < 0x50
  | .service .. => [0x02, 0x03, 0x06, 0x07, 0x10, 0x21, 0x22, 0x23].contains op

/-- Argument `i` of an entry. -/
def Taken.arg (t : Taken) (i : Nat) : Nat := (t.args.getD i 0).toNat

/-- A function holds a key slot: the PF every one, a VF those it reserved and those of the contexts of its partition
(assumption 40). -/
def fnHolds (s : Block) (f k : Nat) : Bool :=
  f == 0 || (s.slot k).holder == some f
    || s.contexts.any fun c => (c.2.fn == f || some c.2.part == (s.func f).bound) && c.2.slots.contains k

/-- A context holds a key slot (R516). -/
def ctxHolds (s : Block) (c k : Nat) : Bool :=
  match s.context c with
  | some x => x.slots.contains k
  | none => false

/-- A context belongs to the partition a function is bound to; the PF reaches every one. -/
def fnHasCtx (s : Block) (f c : Nat) : Bool :=
  f == 0 || match s.context c with
    | some x => (s.func f).bound == some x.part
    | none => false

/-- The poster holds a key slot. -/
def posterHolds (s : Block) (p : Poster) (k : Nat) : Bool :=
  match p with
  | .ring f .. => fnHolds s f k
  | .service c _ => ctxHolds s c k

/-- A directory entry that is not FREE. -/
def Block.dirEntry (s : Block) (i : Nat) : Option DirEntry := SMap.find i s.adapters.dir

/-- The context an admission names (R640). -/
def admitCtx (t : Taken) : Nat :=
  match t.poster with
  | .ring .. => t.arg 5 % 65536
  | .service c _ => c

/-- The key slot, directory entry or context an operation names is one its poster may name (R629, R845). -/
def posterMay (t : Taken) (s : Block) : Bool :=
  let bound := match t.poster with
    | .ring f .. => f == 0 || (s.func f).bound.isSome
    | .service .. => true
  let ctx := fun (c : Nat) => match t.poster with
    | .ring f .. => fnHasCtx s f c
    | .service c' _ => c == c'
  bound && match t.op with
    | 0x01 => posterHolds s t.poster (t.arg 1 % 4096)
    | 0x02 | 0x03 | 0x04 | 0x05 | 0x06 | 0x07 =>
      match s.dirEntry (t.arg 0) with
      | some e => posterHolds s t.poster e.slot
      | none => true
    | 0x10 => ctx (admitCtx t) && ((t.arg 0 == 0 && !bitOf (t.arg 1) 12) || posterHolds s t.poster (t.arg 1 % 4096))
    | 0x11 => ctx (t.arg 0 % 65536)
    | 0x20 | 0x23 | 0x31 => posterHolds s t.poster (t.arg 0 % 4096)
    | 0x41 => ctx (t.arg 0 % 65536)
    | 0x42 | 0x43 => ctx (t.arg 0)
    | _ => true

/-- The objects an entry names: directory entries 0, contexts 1, partitions 2, key slots 3, functions 4 (R844). -/
def objectsOf (t : Taken) : List (Nat × Nat) :=
  match t.op with
  | 0x01 => [(3, t.arg 1 % 4096)]
  | 0x02 | 0x03 | 0x04 | 0x05 | 0x06 | 0x07 => [(0, t.arg 0)]
  | 0x10 => [(1, admitCtx t), (3, t.arg 1 % 4096)]
  | 0x11 => [(1, t.arg 0 % 65536)]
  | 0x20 | 0x23 | 0x31 => [(3, t.arg 0 % 4096)]
  | 0x39 => [(2, t.arg 0 % 64)]
  | 0x3A => [(2, t.arg 0 / 256 % 64), (4, t.arg 0 % 64)]
  | 0x40 => [(3, t.arg 0 % 4096), (2, t.arg 5 % 64)]
  | 0x41 => [(1, t.arg 0 % 65536)]
  | 0x42 => [(1, t.arg 0), (3, t.arg 1 % 4096)]
  | 0x43 => [(1, t.arg 0)]
  | n => if 0x50 ≤ n then [(4, t.arg 0 % 64)] else []

/-- Two entries come from one ring or one service queue. -/
def sameQueue (a b : Poster) : Bool :=
  match a, b with
  | .ring f c _, .ring f' c' _ => f == f' && c == c'
  | .service c _, .service c' _ => c == c'
  | _, _ => false

/-! ### Completion (R626, R842, R850, R857) -/

/-- A command ring stops. -/
def ringErr (f c : Nat) (s : Block) : Block := s.modFunc f fun x => x.setCr c { x.cr c with err := true }

/-- The address of entry n of a command ring. -/
def ringEntry (s : Block) (f c n : Nat) : Nat :=
  let r := (s.func f).cr c
  r.base.toNat + 64 * (n % 2 ^ r.size.toNat)

/-- The first byte of the service queue of every context, and of its entry n (R624, R625). -/
def svcQueue : Nat := 0xC400_0080_0000
def svcEntry (n : Nat) : Nat := svcQueue + 64 * (1 + n % 63)

/-- Write-back of a ring entry: RESULT, then STATUS. -/
def writeBack (f c n : Nat) (st : Status) (result : Nat) (s : Block) : Block :=
  let a := ringEntry s f c n
  match hostPut f (a + 0x38) (leBytes 8 result) s with
  | (.error _, s) => ringErr f c s
  | (.ok _, s) =>
    match hostPut f (a + 1) (leBytes 1 st.code) s with
    | (.error _, s) => ringErr f c s
    | (.ok _, s) => s

/-- Completion of a service entry: RESULT, then STATUS, then HEAD. -/
def finishService (ctx n : Nat) (st : Status) (result : Nat) (s : Block) : Block :=
  let s := fwWrite ctx (svcEntry n + 0x38) (leBytes 8 result) s
  let s := fwWrite ctx (svcEntry n + 1) (leBytes 1 st.code) s
  fwWrite ctx svcQueue (leBytes 8 (n + 1)) s

/-- Two entries name one object. -/
def Taken.shares (a b : Taken) : Bool := (objectsOf a).any fun o => (objectsOf b).contains o

/-- An entry's completion is written: RESULT and STATUS, and a ring's completion record. -/
def writeCompletion (t : Taken) (st : Status) (result : Nat) (s : Block) : Block :=
  match t.poster with
  | .ring f c n =>
    let s := writeBack f c n st result s
    postRecord f c (eventBytes s f st 0x04 c 0xFFFF 2 0xFF (leBytes 4 t.tag.toNat ++ leBytes 4 n ++ leBytes 8 result)) s
  | .service c n => finishService c n st result s

/-- The first entry that has done its work and that no entry taken before it and naming an object of it holds back (R844). -/
def dueEntry (l : List Taken) : Option Taken :=
  l.find? fun t => t.outcome.isSome && !((l.takeWhile fun x => x.poster != t.poster).any t.shares)

/-- Entries complete as their turn comes (R844). -/
def settleTaken : Nat → Block → Block
  | 0, s => s
  | n + 1, s =>
    match dueEntry s.host.taken with
    | none => s
    | some t =>
      let s := { s with host := { s.host with taken := s.host.taken.filter fun x => x.poster != t.poster } }
      settleTaken n (match t.outcome with
        | some (st, result) => writeCompletion t st result s
        | none => s)

/-- Firmware forgets entries, and those they held back complete. -/
def forgetTaken (gone : Taken → Bool) (s : Block) : Block :=
  let s := { s with host := { s.host with taken := s.host.taken.filter fun t => !gone t } }
  settleTaken s.host.taken.length s

/-- An entry that firmware has taken has done its work; it completes with this status and RESULT in its turn. An entry that
firmware has discarded completes no more (R859). -/
def complete (p : Poster) (st : Status) (result : Nat) (s : Block) : Block :=
  let done := fun (t : Taken) =>
    if t.poster = p then { t with started := true, outcome := some (t.outcome.getD (st, result)) } else t
  settleTaken s.host.taken.length { s with host := { s.host with taken := s.host.taken.map done } }

/-- Complete for whoever posted, when someone did. -/
def completeFor (p : Option Poster) (st : Status) (result : Nat) (s : Block) : Block :=
  match p with
  | some p => complete p st result s
  | none => s

/-- An operation goes on after it starts. -/
def markStarted (p : Poster) (s : Block) : Block :=
  { s with host := { s.host with taken := s.host.taken.map fun t => if t.poster = p then { t with started := true } else t } }

/-- An entry may start: every entry taken before it from its queue, and every one that names an object of it, has
started (R840, R844). -/
def mayBegin (t : Taken) (s : Block) : Bool :=
  (s.host.taken.takeWhile fun x => x.poster != t.poster).all fun x =>
    x.started || !(sameQueue x.poster t.poster || x.shares t)

/-- The form of every operation's row: the entry its poster names is one firmware has taken, of that operation, whose
turn has come. -/
def runOp (p : Poster) (op : Nat) (f : Taken → Block → Block) (s : Block) : Block :=
  match s.host.taken.find? fun t => t.poster == p with
  | none => s
  | some t =>
    if !fwUp s || t.op ≠ op || t.started || !mayBegin t s then s
    else if !posterMay t s then complete p .permFault 0 s
    else f t s

/-- A poster the module has: a ring of a function, or the service queue of a context number. -/
def posterOk : Poster → Bool
  | .ring f c _ => decide (f < 64) && decide (c < 4)
  | .service c _ => decide (c < 65536)

/-! ### Taking entries (R624–R629, R840, R845, R1012) -/

/-- Firmware takes an entry. What no table lists completes with INTERNAL, what its poster may not post with PERM_FAULT. -/
def acceptEntry (p : Poster) (bs : List Byte) (s : Block) : Block :=
  let t : Taken := { poster := p, op := fld bs 0 1, tag := BitVec.ofNat 32 (fld bs 4 4), started := false, outcome := none
                     args := (List.range 6).map fun i => BitVec.ofNat 64 (fld bs (8 + 8 * i) 8) }
  let s := { s with host := { s.host with taken := s.host.taken ++ [t] } }
  if !opKnown p t.op then complete p .internal 0 s
  else if !actorNamed p t.op then complete p .permFault 0 s
  else s

/-- The next entry of a command ring is fetched and taken. -/
def takeRingEntry (f c : Nat) (s : Block) : Block :=
  let x := s.func f
  let r := x.cr c
  if !fwUp s || !r.en || r.err || x.frozen || x.resetting || x.tdi = .error || s.host.fatal || r.head = r.tail then s
  else
    match hostRead f (ringEntry s f c r.head.toNat) 64 s with
    | (.error _, s) => ringErr f c s
    | (.ok bs, s) =>
      acceptEntry (.ring f c r.head.toNat) bs (s.modFunc f fun x => x.setCr c { x.cr c with head := r.head + 1 })

def execRingEntryTake (fn : Nat) (ring : BitVec 2) (s : State) : Result := onBlock s fun s =>
  within (decide (fn < 64)) s (takeRingEntry fn ring.toNat)

/-- The runs of entries to ignore, after a look at TAIL (R627). -/
def ignoreBeyond (head tail : Nat) (l : List (Nat × Nat)) : List (Nat × Nat) :=
  let l := l.filter fun r => decide (head < r.2)
  let lo := l.foldl (fun a r => max a r.2) (head + 63)
  if lo < tail then l ++ [(lo, tail)] else l

/-- Firmware looks at a context's service queue and takes the entry at HEAD. HEAD names the next entry to take and moves
at a completion, so a queue has one entry in work (DEDUCED, assumption 41). -/
def pollService (ctx : Nat) (s : Block) : Block :=
  match s.context ctx, fwSee ctx svcQueue 16 s with
  | some x, (some hd, s) =>
    if !fwUp s || (s.func x.fn).frozen then s
    else
      let head := fld hd 0 8
      let tail := fld hd 8 8
      let ignored := ignoreBeyond head tail x.svcIgnored
      let s := s.modContext ctx fun x => { x with svcIgnored := ignored }
      if s.host.taken.any fun t => sameQueue t.poster (.service ctx 0) then s
      else
        match ignored.find? fun r => decide (r.1 ≤ head) && decide (head < r.2) with
        | some r => fwWrite ctx svcQueue (leBytes 8 r.2) s
        | none =>
          if tail ≤ head then s
          else
            match fwSee ctx (svcEntry head) 64 s with
            | (none, s) => s
            | (some bs, s) => acceptEntry (.service ctx head) bs s
  | _, _ => s

def execServiceQueuePoll (ctx : Nat) (s : State) : Result := onBlock s fun s => within (decide (ctx < 65536)) s (pollService ctx)

/-! ### The function page (R839, R841, R851–R854, R861, R867) -/

/-- A write of `HI_CR_TAIL_c`. -/
def writeTail (f c v : Nat) (s : Block) : Block :=
  let x := s.func f
  let r := x.cr c
  let v := BitVec.ofNat 32 v
  if x.resetting || !fwUp s then s
  else if 2 ^ r.size.toNat < (v - r.head).toNat then ringErr f c s
  else s.modFunc f fun x => x.setCr c { x.cr c with tail := v }

def execHiCrTail (fn : Nat) (ring : BitVec 2) (value : U64) (s : State) : Result := onBlock s fun s =>
  within (decide (fn < 64)) s (writeTail fn ring.toNat value.toNat)

/-- A write of `HI_CR_CTRL_c`. -/
def writeCrCtrl (f c v : Nat) (s : Block) : Block :=
  let n := bitsOf v 0 5
  s.modFunc f fun x =>
    let r := { x.cr c with size := BitVec.ofNat 5 (if 6 ≤ n ∧ n ≤ 16 then n else 6), en := bitOf v 5 }
    x.setCr c (if bitOf v 5 then r else { r with err := false, head := 0, tail := 0 })

def execHiCrCtrl (fn : Nat) (ring : BitVec 2) (value : U64) (s : State) : Result := onBlock s fun s =>
  within (decide (fn < 64)) s (whenUp (writeCrCtrl fn ring.toNat value.toNat))

/-- A write of `HI_ER_CTRL_e`. Records held for a ring that is disabled are gone (assumption 9). -/
def writeErCtrl (f r v : Nat) (s : Block) : Block :=
  let n := bitsOf v 0 5
  s.modFunc f fun x =>
    let e := { x.er r with
      size := BitVec.ofNat 5 (if 8 ≤ n ∧ n ≤ 20 then n else 8), en := bitOf v 5, vec := BitVec.ofNat 5 (bitsOf v 6 5)
      modCount := BitVec.ofNat 8 (bitsOf v 16 8), modUs := BitVec.ofNat 16 (bitsOf v 24 16) }
    if bitOf v 5 then x.setEr r e
    else
      { x.setEr r { e with head := 0, tail := 0, lost := 0, lostUnreported := 0, sinceIrq := 0 } with
        held := x.held.filter fun h => h.1 != r }

def execHiErCtrl (fn : Nat) (ring : BitVec 2) (value : U64) (s : State) : Result := onBlock s fun s =>
  within (decide (fn < 64)) s (whenUp (writeErCtrl fn ring.toNat value.toNat))

/-- The held records of a ring are written while it has room, then the record of what was dropped (R853). -/
def releaseHeld (f r : Nat) : Nat → Block → Block
  | 0, s => s
  | n + 1, s =>
    let x := s.func f
    let e := x.er r
    if e.full then s
    else
      match x.held.find? fun h => h.1 == r with
      | some h => releaseHeld f r n (writeRecord f r h.2 (s.modFunc f fun x => { x with held := x.held.erase h }))
      | none =>
        if e.lostUnreported = 0 then s
        else
          let rec_ := eventBytes s f .internal 0x04 r 0xFFFF 0 0xFF (leBytes 4 e.lostUnreported)
          writeRecord f r rec_ (s.modFunc f fun x => x.setEr r { x.er r with lostUnreported := 0 })

/-- A write of `HI_ER_HEAD_e`. -/
def writeErHead (f r v : Nat) (s : Block) : Block :=
  let e := (s.func f).er r
  let v := BitVec.ofNat 32 v
  if (e.tail - e.head).toNat < (v - e.head).toNat then s
  else releaseHeld f r 257 (s.modFunc f fun x => x.setEr r { x.er r with head := v })

def execHiErHead (fn : Nat) (ring : BitVec 2) (value : U64) (s : State) : Result := onBlock s fun s =>
  within (decide (fn < 64)) s (whenUp (writeErHead fn ring.toNat value.toNat))

/-- The time condition of R854: records stand unconsumed and unsignalled, and MOD_US is not 0. -/
def modTimer (f r : Nat) (s : Block) : Block :=
  let e := (s.func f).er r
  if e.en && e.modUs ≠ 0 && 0 < e.sinceIrq && e.head ≠ e.tail then
    raiseVector f e.vec.toNat (s.modFunc f fun x => x.setEr r { x.er r with sinceIrq := 0 })
  else s

def execInterruptModTimer (fn : Nat) (ring : BitVec 2) (s : State) : Result := onBlock s fun s =>
  within (decide (fn < 64)) s (modTimer fn ring.toNat)

/-- A vector is unmasked; with its pending bit set it is raised (R855). -/
def unmaskVector (f v : Nat) (s : Block) : Block :=
  let x := s.func f
  let s := s.modFunc f fun x => { x with vecMask := x.vecMask &&& ~~~(1#32 <<< v), vecPending := x.vecPending &&& ~~~(1#32 <<< v) }
  if bitOf x.vecPending.toNat v then raiseVector f v s else s

def execMsixUnmask (fn : Nat) (vector : BitVec 5) (s : State) : Result := onBlock s fun s =>
  within (decide (fn < 64)) s (whenUp (unmaskVector fn vector.toNat))

/-! ### ATS and fatal errors (R856, R858) -/

/-- The host invalidates the translations of a range for a function. -/
def atsInvalidate (f addr len : Nat) (s : Block) : Block :=
  { s with host := { s.host with ats := s.host.ats.filter fun e =>
      !(e.1 == f && decide (addr / 4096 ≤ e.2) && decide (e.2 * 4096 < addr + len)) } }

def execAtsInvalidation (fn addr len : Nat) (s : State) : Result := onBlock s fun s => within (decide (fn < 64)) s (atsInvalidate fn addr len)

/-- A fatal PCIe error is reported on the PF, and no function takes a ring entry from here (R858). -/
def fatalError (s : Block) : Block :=
  let s := reportAer 0 .fatal s
  { s with host := { s.host with fatal := true } }

def execPcieFatalError (s : State) : Result := onBlock s fun s => .next (fatalError s)

end Sys2Proof.Machine
end

