-- ==== Sys2Proof/Machine/Record.lean ====
section
/-! DEFINITION. Adapter records: their checks (R604–R610), and host records as firmware reads and writes them (R611–R613,
R799, R814, R815). -/

namespace Sys2Proof.Machine

/-! ### Checks of a header area (R605–R610) -/

/-- The bytes of a tensor-table entry. -/
def tensorEntry (h : List Byte) (i : Nat) : List Byte := (h.drop (128 + 32 * i)).take 32

/-- Bytes of `n` elements of a format (R238). -/
def elemBytes (f : Fmt) (n : Nat) : Nat := n * f.e2 / 2

/-- The tensors of an entry in the data area: offset and length (R609). -/
def tensorRanges (t : List Byte) : List (Nat × Nat) :=
  let r := fld t 6 2
  let k := fld t 8 4
  let n := fld t 0xC 4
  match fmtOf (fld t 4 1) with
  | none => []
  | some f =>
    match fld t 3 1 with
    | 1 => [(fld t 0x14 4, elemBytes f (k * r)), (fld t 0x18 4, elemBytes f (r * n))]
    | 2 => [(fld t 0x14 4, elemBytes f n)]
    | _ => [(fld t 0x14 4, n / 64 * (k / (16 * f.p)) * f.cartSize)]

/-- KIND allows FMT (R607). -/
def kindFmt (kind fmt : Nat) : Bool :=
  match kind with
  | 1 => 1 ≤ fmt && fmt ≤ 4
  | 2 => fmt == 1 || fmt == 9
  | 3 => 1 ≤ fmt && fmt ≤ 8
  | _ => false

/-- TARGET is not reserved (R608). -/
def targetOk (t : Nat) : Bool := (1 ≤ t && t ≤ 0xD) || 0x80 ≤ t

/-- The fields of an entry keep R606 to R608. -/
def tensorOk (layers : Nat) (t : List Byte) : Bool :=
  let kind := fld t 3 1
  let r := fld t 6 2
  decide (fld t 0 2 < layers) && targetOk (fld t 2 1) && kindFmt kind (fld t 4 1) && allZero t 5 1 && allZero t 0x1C 4
    && (if kind = 1 then decide (1 ≤ r) && decide (r ≤ 256) else r == 0)
    && (if kind = 2 then fld t 8 4 == 0 else fld t 8 4 % 64 == 0) && fld t 0xC 4 % 64 == 0
    && (kind == 1 || allZero t 0x10 4) && fld t 0x14 4 % 256 == 0
    && (if kind = 1 then fld t 0x18 4 % 256 == 0 else fld t 0x18 4 == 0)

/-- Members of a list that clash with no later one. -/
def noneClash {α : Type} (clash : α → α → Bool) : List α → Bool
  | [] => true
  | x :: rest => !(rest.any (clash x)) && noneClash clash rest

def hdrId (h : List Byte) : Nat := fld h 8 8
def hdrVersion (h : List Byte) : Nat := fld h 0x10 4
def hdrPages (h : List Byte) : Nat := fld h 0x18 4
def hdrSealed (h : List Byte) : Bool := bitOf (fld h 6 2) 0
def hdrDigest (h : List Byte) : List Byte := (h.drop 0x30).take 48

/-- The header area passes R610. -/
def recordOk (h : List Byte) : Bool :=
  let n := fld h 0x16 2
  let layers := fld h 0x14 2
  let ts := (List.range n).map (tensorEntry h)
  let ranges := ts.flatMap tensorRanges
  h.take 4 == [0x48#8, 0x41#8, 0x44#8, 0x52#8] && fld h 4 2 == 1 && decide (fld h 6 2 < 2) && hdrId h != 0 && hdrVersion h != 0
    && (1 ≤ layers && layers ≤ 256) && (1 ≤ n && n ≤ 2040) && (1 ≤ hdrPages h && hdrPages h ≤ 65536)
    && decide (fld h 0x1C 1 ≤ 4) && allZero h 0x1D 3 && allZero h 0x60 32
    && ts.all (tensorOk layers) && (ts.filter fun t => fld t 3 1 == 3).length == fld h 0x1C 1
    && noneClash (fun a b => fld a 0 2 == fld b 0 2 && fld a 2 1 == fld b 2 1 && fld a 3 1 == fld b 3 1) ts
    && ranges.all (fun r => decide (r.1 + r.2 ≤ hdrPages h * 65536))
    && noneClash (fun a b => overlap a.1 a.2 b.1 b.2) ranges

/-! ### The data pages of a host record -/

/-- How a page travels in a host record: sealed to a device set (R814), or a plain compressed page, or a compressed page
encrypted under the owner's slot (R799; its layout is DEDUCED, assumption 23). -/
inductive PageForm where
  | sealedSet (key : List Byte) | slot (k : Nat)
  deriving DecidableEq, Repr

/-- A compressed page at the front of some bytes, by its header. -/
def plainPage (bs : List Byte) : Option (List Byte × Nat) :=
  let n := fld bs 8 4
  if bs.take 4 = [0x4B#8, 0x43#8, 0x50#8, 0x47#8] && 32 ≤ n && n ≤ 69632 && n ≤ bs.length then some (bs.take n, n) else none

/-- Exactly a compressed page. -/
def isPage (bs : List Byte) : Bool := plainPage bs == some (bs, bs.length)

/-- The IV of page `i` of a sealed object (R814). -/
def sealIv (i : Nat) : List Byte := leBytes 8 i ++ zeros 4

/-- The page key of a sealed object (R814). -/
def sealKey (x : DeviceSet) (object : List Byte) : List Byte :=
  hkdf (leBytes 16 x.id.toNat) x.key (ascii "hts seal" ++ object) 32

/-- The compressed page at the front of some bytes of a host record, and the bytes it takes there. An encrypted page is
the shortest front that its tag proves. -/
def openPage (s : Block) (form : PageForm) (i : Nat) (bs : List Byte) : Option (List Byte × Nat) :=
  match form with
  | .sealedSet key =>
    (List.range 69633).findSome? fun n =>
      match Config.gcmOpen key (sealIv i) [] (bs.take (n + 16)) with
      | some pt => if pt.length = n && isPage pt then some (pt, n + 16) else none
      | none => none
  | .slot k =>
    match plainPage bs with
    | some x => some x
    | none =>
      (List.range 69633).findSome? fun n =>
        let (ct, iv, tag, epoch) := openBytes (bs.take (n + 29))
        match openUnder k epoch iv [] ct tag s with
        | .ok pt => if isPage pt then some (pt, n + 29) else none
        | .error _ => none

/-- A host record as read: its header area, its data pages with their codec formats, and its length. -/
structure HostRecord where
  header : List Byte
  pages : List (Nat × List Byte)
  len : Nat
  deriving DecidableEq, Repr

/-- Read `n` data pages from offset `off` of the record at `a`, the first with index `i`; the pages, where they end, and the
pages that no engine can decode, with their index (R503). -/
def readPages' (f a : Nat) (form : PageForm) : Nat → Nat → Nat → List (Nat × List Byte) → List (Nat × CodecErr × Nat) → Block →
    Except Status (List (Nat × List Byte) × Nat × List (Nat × CodecErr × Nat)) × Block
  | 0, _, off, acc, bad, s => (.ok (acc, off, bad), s)
  | n + 1, i, off, acc, bad, s =>
    let off := ceilDiv off 4096 * 4096
    match hostStatus s (a + off) 32 with
    | some st => (.error st, hostReport f (a + off) 32 s)
    | none =>
      match openPage s form i (Mem.read s.mem.host (a + off) 69664) with
      | none => (.error (match form with
          | .sealedSet _ => .permFault
          | .slot _ => .checkMismatch), s)
      | some (c, used) =>
        match hostRead f (a + off) used s with
        | (.error st, s) => (.error st, s)
        | (.ok _, s) =>
          match decodePage 0 false c with
          | .error err => readPages' f a form n (i + 1) (off + used) (acc ++ [(0, zeros 65536)]) (bad ++ [(i, err)]) s
          | .ok bs => readPages' f a form n (i + 1) (off + used) (acc ++ [(fld c 5 1, bs)]) bad s

/-- The form of the pages of a record of key slot `k`; none where it is sealed and no set is bound (R815). -/
def formOf (s : Block) (k : Nat) (h : List Byte) : Option PageForm :=
  if hdrSealed h then
    match (s.slot k).set.bind fun id => s.attest.sets.find? fun x => x.id == id with
    | some x => some (.sealedSet (sealKey x (leBytes 8 (hdrId h) ++ leBytes 4 (hdrVersion h))))
    | none => none
  else some (.slot k)

/-- Read the host record at `a` as function `f` for key slot `k`: checked under R610 and against its check value (R613); then
a page that cannot be decoded ends it as R472 ends a move, its event naming address 0 (R612). -/
def readRecordAt (f a k : Nat) (s : Block) : Except Status HostRecord × Block :=
  match hostRead f a 65536 s with
  | (.error st, s) => (.error st, s)
  | (.ok h, s) =>
    if !recordOk h then (.error .internal, s)
    else
      match formOf s k h with
      | none => (.error .permFault, s)
      | some form =>
        match readPages' f a form (hdrPages h) 0 65536 [] [] s with
        | (.error st, s) => (.error st, s)
        | (.ok (pages, off, bad), s) =>
          match hostRead f (a + off) 8 s with
          | (.error st, s) => (.error st, s)
          | (.ok crc, s) =>
            if leNat crc ≠ crc64nvme (Mem.read s.mem.host a off) then (.error .checkMismatch, checkFailed s)
            else
              match bad with
              | [] => (.ok { header := h, pages := pages, len := off + 8 }, s)
              | (i, err) :: _ => (.error .internal, codecFail (i % 4) 0xFFFF 0 err s)

/-- A page in the form it takes in a host record. -/
def wrapPage (form : PageForm) (i : Nat) (c : List Byte) (s : Block) : Except Status (List Byte) × Block :=
  match form with
  | .sealedSet key => (.ok (Config.gcmSeal key (sealIv i) [] c), s)
  | .slot k =>
    match sealUnder k [] c s with
    | (.error st, s) => (.error st, s)
    | (.ok x, s) => (.ok (sealBytes x), s)

/-- The record's bytes so far, with data pages added from index `i` on. -/
def wrapPages (form : PageForm) : List (Nat × List Byte) → Nat → List Byte → Block → Except Status (List Byte) × Block
  | [], _, acc, s => (.ok acc, s)
  | (cfmt, bs) :: rest, i, acc, s =>
    match wrapPage form i (encodePage cfmt false 0 bs) s with
    | (.error st, s) => (.error st, s)
    | (.ok w, s) => wrapPages form rest (i + 1) (acc ++ zeros (ceilDiv acc.length 4096 * 4096 - acc.length) ++ w) s

/-- Write a version as a host record at `a` (R633); its length. -/
def writeRecordAt (f a k : Nat) (h : List Byte) (pages : List (Nat × List Byte)) (s : Block) : Except Status Nat × Block :=
  match formOf s k h with
  | none => (.error .permFault, s)
  | some form =>
    match wrapPages form pages 0 h s with
    | (.error st, s) => (.error st, s)
    | (.ok bs, s) =>
      let all := bs ++ leBytes 8 (crc64nvme bs)
      match hostPut f a all s with
      | (.error st, s) => (.error st, s)
      | (.ok _, s) => (.ok all.length, s)

end Sys2Proof.Machine
end

