-- ==== Sys2Proof/Machine/Adapter.lean ====
section
/-! DEFINITION. The adapter service: directory, cache, admission and pinning, revocation, publication, the base slots and
the reservoirs (R614–R673, R1015). Operations on one entry are one step each (R630). -/

namespace Sys2Proof.Machine

/-! ### Entries, version slots and images -/

def Block.modAd (s : Block) (f : Adapters → Adapters) : Block := { s with adapters := f s.adapters }
def Block.modEntry (s : Block) (i : Nat) (f : DirEntry → DirEntry) : Block :=
  match s.dirEntry i with
  | none => s
  | some e => s.modAd fun a => { a with dir := SMap.set i (f e) a.dir }

/-- Version slot 1 of an entry, or slot 0. -/
def DirEntry.vs (e : DirEntry) (second : Bool) : VSlot := if second then e.vs1 else e.vs0
def DirEntry.setVs (e : DirEntry) (second : Bool) (v : VSlot) : DirEntry := if second then { e with vs1 := v } else { e with vs0 := v }

/-- The pages of an image (R614). -/
def VSlot.addrs (v : VSlot) : List Nat := if v.st = 2 then pageRun v.imageVa v.pages else []

/-- Codes of R620 and R659. -/
def stReady : Nat := 1
def stRevoking : Nat := 2
def stRevoked : Nat := 3
def stStranded : Nat := 4
def baseAdmits (st : Nat) : Bool := st == 2 || st == 3 || st == 4

def Block.baseSlot (s : Block) (b : Nat) : BaseSlot := s.adapters.bases.getD b .init
def Block.modBase (s : Block) (b : Nat) (f : BaseSlot → BaseSlot) : Block :=
  s.modAd fun a => { a with bases := a.bases.set b (f (a.bases.getD b .init)) }

/-- The adapter cache in use, in bytes (R639). -/
def cacheUsed (s : Block) : Nat := 65536 * ((s.mem.frames.filter fun h => inAdapterWindow h.va).map (·.n)).sum
def cacheLimit (s : Block) : Nat := s.adapters.cacheLimit * 2 ^ 30

/-- Granules that a reservoir page takes in T2 (R508). -/
def resGranules (m : Mem) : Nat := granulesOf (encodePage 0 false 0 (Mem.read m 0 65536)).length

/-- T2 bytes of images and reservoirs (R639, R666). -/
def serviceT2 (s : Block) : Nat :=
  4096 * (((s.mem.granules.filter fun h => inAdapterWindow h.va).map (·.n)).sum
    + (s.adapters.reservoirs.map fun r => (r.pages.map fun p => resGranules p.2).sum).sum)
def serviceT2Limit (s : Block) : Nat := s.adapters.t2Limit * 2 ^ 30

/-- PINNED of every page of an image is set or cleared. -/
def pinImage (v : VSlot) (on : Bool) (s : Block) : Block :=
  v.addrs.foldl (fun s va => changeLeaf 0xFFFF va (setPinned on) s) s

/-- An image is erased and released. -/
def eraseImage (v : VSlot) (s : Block) : Block := v.addrs.foldl (fun s va => erasePage 0xFFFF va s) s
/-- An image's pages are released. -/
def dropImage (v : VSlot) (s : Block) : Block := v.addrs.foldl (fun s va => unmapPage 0xFFFF va s) s

/-- What may fail with a status, and with what it did besides (event records, counts). -/
abbrev Attempt := Except (Status × Block) Block

/-- An image moves to a tier, page by page, in one step (assumption 36). Where a page cannot, no page has moved (R622). -/
def moveImage (v : VSlot) (dest : Nat) (s : Block) : Attempt :=
  let move := fun (va : Nat) (s : Block) =>
    let r : TierReq := { owner := .pager, ctx := 0xFFFF, va := va, dest := dest, cfmt := 15, charge := 0, ord := 0, rot := none, result := none }
    movePage (engineOf (leafOf s 0xFFFF va) va dest) r s
  v.addrs.foldl (fun acc va => acc.bind fun s' =>
    match move va s' with
    | (.ok, s') => .ok (if dest = 1 then resolvePage (s'.contexts.map (·.1)) va (va + 65536) s' else s')
    | (st, _) => .error (st, (move va s).2)) (.ok s)

/-! ### Making room (R645) -/

/-- The images that may be moved or released: entry, version slot, and LAST_USE. -/
def unheld (s : Block) (home : Nat) (needRecord : Bool) : List (Nat × Bool × Nat) :=
  s.adapters.dir.flatMap fun p => [false, true].filterMap fun b =>
    let v := p.2.vs b
    if v.st = 2 && v.home = home && v.pins = 0 && !p.2.static && (!needRecord || v.hostRec) then some (p.1, b, p.2.lastUse)
    else none

/-- The one least recently used; of equals the first. -/
def leastUsed : List (Nat × Bool × Nat) → Option (Nat × Bool)
  | [] => none
  | x :: rest => some (let m := rest.foldl (fun (m : Nat × Bool × Nat) y => if y.2.2 < m.2.2 then y else m) x; (m.1, m.2.1))

def countEviction (s : Block) : Block := s.modAd fun a => { a with evictions := a.evictions + 1 }

/-- An image in T2 that has a host record is released. -/
def releaseT2 (s : Block) : Option Block :=
  (leastUsed (unheld s 2 true)).bind fun (p : Nat × Bool) => (s.dirEntry p.1).map fun e =>
    let v := e.vs p.2
    countEviction ((dropImage v s).modEntry p.1 fun e => e.setVs p.2 { v with st := 1, home := 0, imageVa := 0 })

/-- An image moves from T1 to T2, with room made there. -/
def moveOut (i : Nat) (b : Bool) : Nat → Block → Option Block
  | 0, _ => none
  | n + 1, s =>
    match s.dirEntry i with
    | none => none
    | some e =>
      let v := e.vs b
      let again := (releaseT2 s).bind (moveOut i b n)
      match moveImage v 2 s with
      | .ok s' =>
        if serviceT2 s' ≤ serviceT2Limit s' then some (countEviction (s'.modEntry i fun e => e.setVs b { v with home := 2 }))
        else again
      | .error (.busy, _) => again
      | .error _ => none

/-- The image least recently used leaves T1. -/
def evictOne (s : Block) : Option Block :=
  (leastUsed (unheld s 1 false)).bind fun (p : Nat × Bool) => moveOut p.1 p.2 (s.adapters.dir.length * 2 + 1) s

/-- Do what needs `n` more bytes of the adapter cache, with images moved out one at a time until there is room; BUSY when
none can be moved. -/
def withRoom (n : Nat) (f : Block → Attempt) : Nat → Block → Attempt
  | 0, s => .error (.busy, s)
  | k + 1, s =>
    let out := match evictOne s with
      | some s => withRoom n f k s
      | none => .error (.busy, s)
    if cacheUsed s + n ≤ cacheLimit s then
      match f s with
      | .error (.busy, _) => out
      | x => x
    else out

/-- Attempts enough to move every image out. -/
def roomFuel (s : Block) : Nat := s.adapters.dir.length * 2 + 1

/-- Images leave a tier that holds more than its limit, as far as any may (R639, when a limit is lowered). -/
def fitLimits (s : Block) : Block :=
  let leave := fun (above : Block → Bool) (out : Block → Option Block) (s : Block) =>
    (List.range (roomFuel s)).foldl (fun s _ => if above s then (out s).getD s else s) s
  leave (fun s => decide (serviceT2Limit s < serviceT2 s)) releaseT2 (leave (fun s => decide (cacheLimit s < cacheUsed s)) evictOne s)

/-! ### Bringing an image in (R612, R613, R641 step 5) -/

/-- The images that stand in the adapter window. -/
def windowImages (s : Block) : List VSlot := s.adapters.dir.flatMap fun p => [p.2.vs0, p.2.vs1].filter fun v => decide (v.st = 2)

/-- A run of `n` pages at an address lies in the adapter window, and no image takes any of it. -/
def imageFits (s : Block) (n a : Nat) : Bool :=
  decide (0xC000_0000_0000 ≤ a) && decide (a % 65536 = 0) && decide (a + 65536 * n ≤ 0xC400_0000_0000)
    && (windowImages s).all fun v => !overlap a (65536 * n) v.imageVa (65536 * v.pages)

/-- A run of `n` pages of the adapter window that no image takes (assumption 36). -/
def freeImageVa (s : Block) (n : Nat) : Option Nat :=
  s.choice (imageFits s n) ((0xC000_0000_0000 :: (windowImages s).map fun v => v.imageVa + 65536 * v.pages).find? (imageFits s n))

/-- Map the pages of an image in T1. -/
def createImage (slot va : Nat) : List (Nat × List Byte) → Block → Option Block
  | [], s => some s
  | (cfmt, bs) :: rest, s =>
    match createPage 0xFFFF va true false false false slot cfmt bs s with
    | none => none
    | some s => createImage slot (va + 65536) rest s

/-- A version known by its host record is loaded into T1. -/
def loadRecord (f i : Nat) (b : Bool) (e : DirEntry) (s : Block) : Attempt :=
  let v := e.vs b
  match readRecordAt f v.hostAddr e.slot s with
  | (.error st, s) => .error (st, s)
  | (.ok r, s) =>
    let s := ensureWindows s
    match freeImageVa s v.pages with
    | none => .error (.busy, s)
    | some va =>
      match createImage e.slot va ((0, r.header) :: r.pages) (s.spent 1) with
      | none => .error (.busy, s)
      | some s => .ok (s.modEntry i fun e => e.setVs b { v with st := 2, home := 1, imageVa := va })

/-- The image of a version comes to T1, without making room. -/
def fetchT1 (f i : Nat) (b : Bool) (s : Block) : Attempt :=
  match s.dirEntry i with
  | none => .error (.internal, s)
  | some e =>
    let v := e.vs b
    if v.st = 2 && v.home = 1 then .ok s
    else if v.st = 2 then
      match moveImage v 1 s with
      | .ok s => .ok (s.modEntry i fun e => e.setVs b { v with home := 1 })
      | .error x => .error x
    else if v.st = 1 then loadRecord f i b e s
    else .error (.internal, s)

/-- The image of a version comes to T1, with room made (R645). -/
def bringT1 (f i : Nat) (b : Bool) (s : Block) : Attempt :=
  match s.dirEntry i with
  | none => .error (.internal, s)
  | some e =>
    let v := e.vs b
    if v.st = 2 && v.home = 1 then .ok s else withRoom (65536 * v.pages) (fetchT1 f i b) (roomFuel s) s

/-! ### Request records (R644) -/

def recAddr (i : Nat) : Nat := 0xC400_0000_0000 + 128 * i

/-- First page of a base slot's window (R661). -/
def baseVa (b : Nat) : Nat := 0xC800_0000_0000 + b * 0x0200_0000_0000

/-- Firmware writes a request's record, all but BOUNDARY. -/
def writeRequest (r : Request) (imageVa : Nat) (s : Block) : Block :=
  let a := recAddr r.idx
  let head := leBytes 8 r.reqId.toNat ++ leBytes 8 r.adapter.toNat ++ leBytes 4 r.version ++ leBytes 4 (r.entry.getD 0xFFFFFFFF)
    ++ leBytes 8 imageVa ++ leBytes 8 (baseVa r.baseSlot)
  let tail := leBytes 8 r.capVa ++ leBytes 2 r.capPages ++ leBytes 1 r.st ++ leBytes 1 r.endStatus.code ++ leBytes 4 r.kvPages
    ++ leBytes 8 r.kvVa ++ zeros 56
  fwWrite r.ctx (a + 0x30) tail (fwWrite r.ctx a head s)

/-- Write STATE and END_STATUS of a request's record. -/
def writeEnded (r : Request) (st : Status) (s : Block) : Block := fwWrite r.ctx (recAddr r.idx + 0x3A) [3#8, BitVec.ofNat 8 st.code] s

/-- A request's BOUNDARY word, as firmware sees it. -/
def boundary (r : Request) (s : Block) : Nat × Block :=
  let (bs, s) := fwSee r.ctx (recAddr r.idx + 0x28) 8 s
  (leNat (bs.getD []), s)

/-- Firmware's `amo.or` on a BOUNDARY word. -/
def orBoundary (r : Request) (bit : Nat) (s : Block) : Block :=
  let (w, s) := boundary r s
  fwWrite r.ctx (recAddr r.idx + 0x28) (leBytes 8 (w ||| 2 ^ bit)) s

/-- The same request. -/
def Request.same (a b : Request) : Bool := a.ctx == b.ctx && a.idx == b.idx

def dropRequest (r : Request) (s : Block) : Block := s.modAd fun a => { a with reqs := a.reqs.filter fun x => !x.same r }

/-- Requests that are admitted (ACTIVE), and admissions that wait. -/
def Block.activeReqs (s : Block) : List Request := s.adapters.reqs.filter fun r => decide (r.st = 2)
def Block.waitingReqs (s : Block) : List Request := s.adapters.reqs.filter fun r => decide (r.st = 1)

/-! ### The base slots (R659–R665, R1015) -/

/-- Every page of a base slot is released. -/
def dropBase (b : Nat) (s : Block) : Block :=
  (pageRun (baseVa b) (s.baseSlot b).pages).foldl (fun s va => unmapPage 0xFFFF va s) s

/-- A RETIRING slot with no admitted request becomes EMPTY (R664); its key slot, firmware's own, is free again
(assumption 45). -/
def settleBase (b : Nat) (s : Block) : Block :=
  let x := s.baseSlot b
  if x.st = 5 && !(s.activeReqs.any fun r => r.baseSlot == b) then
    ((dropBase b s).setSlot x.keySlot .init).modBase b fun _ => .init
  else s

/-- The context's read use of a base is withdrawn with its last request bound to it (R1015). -/
def withdrawBase (ctx b : Nat) (s : Block) : Block :=
  if s.activeReqs.any fun r => r.ctx == ctx && r.baseSlot == b then s
  else s.modContext ctx fun c => { c with baseRead := c.baseRead.filter fun k => k != (s.baseSlot b).keySlot }

/-! ### The end of a request (R650, R651) -/

/-- PINS of a version falls by one; at 0 its pages are unpinned, and a version that is not current is erased. -/
def unpin (i : Nat) (b : Bool) (s : Block) : Block :=
  match s.dirEntry i with
  | none => s
  | some e =>
    let v := { e.vs b with pins := (e.vs b).pins - 1 }
    let s := s.modEntry i fun e => e.setVs b v
    if v.pins ≠ 0 then s
    else
      let s := if e.static then s else pinImage v false s
      if e.cur = b then s else (eraseImage v s).modEntry i fun e => e.setVs b .init

/-- An ACTIVE request ends with a status. -/
def endRequest (r : Request) (st : Status) (s : Block) : Block :=
  let s := dropRequest r (writeEnded r st s)
  let s := (pageRun r.capVa r.capPages).foldl (fun s va => unmapPage r.ctx va s) s
  let s := match r.entry with
    | some i => unpin i r.second s
    | none => s
  settleBase r.baseSlot (withdrawBase r.ctx r.baseSlot s)

/-- A WAITING admission ends with a status. -/
def endWaiting (r : Request) (st : Status) (s : Block) : Block :=
  completeFor r.poster st 0 (dropRequest r (writeEnded r st s))

/-! ### Admission (R640–R646) -/

/-- What an admission comes to. -/
inductive Admit where
  | done (r : Request) (s : Block)
  | ends (st : Status) (s : Block)
  | waits
  deriving DecidableEq, Repr

/-- A run of capture pages that no other request of the context has, above its communication pages (assumption 36). -/
def freeCapVa (s : Block) (ctx n : Nat) : Nat :=
  let used := s.adapters.reqs.filter fun x => x.ctx == ctx && 0 < x.capPages
  let base := 0xC401_0000_0000
  let ok := fun (a : Nat) => decide (base ≤ a) && decide (a % 65536 = 0) && decide (a + 65536 * n ≤ 0xC800_0000_0000)
    && used.all fun x => !overlap a (65536 * n) x.capVa (65536 * x.capPages)
  (s.choice ok ((base :: used.map fun x => x.capVa + 65536 * x.capPages).find? ok)).getD base

/-- Steps 6 and 7: the pin, the counts, the read use of the base, the capture pages, the record and the wake. -/
def admitPinned (r : Request) (s : Block) : Admit :=
  let s0 := s
  let s := s.modAd fun a => { a with admitCount := a.admitCount + 1 }
  let (imageVa, version, s) := match r.entry.bind s.dirEntry with
    | some e =>
      let v := e.vs r.second
      let v' := { v with pins := v.pins + 1 }
      let s := s.modEntry (r.entry.getD 0) fun e => { e.setVs r.second v' with lastUse := s.adapters.admitCount.toNat }
      (v.imageVa, v.version, if v.pins = 0 then pinImage v true s else s)
    | none => (0, 0, s)
  let key := (s.baseSlot r.baseSlot).keySlot
  let s := s.modContext r.ctx fun c => { c with baseRead := if c.baseRead.contains key then c.baseRead else c.baseRead ++ [key] }
  let n := if r.trainable then r.capPages else 0
  let capVa := if n = 0 then 0 else freeCapVa s r.ctx n
  match createPages r.ctx true true false false r.keySlot ((pageRun capVa n).map (·, [])) (if n = 0 then s else s.spent 1) with
  | none => .ends .busy s0
  | some s =>
    let r := { r with st := 2, version := version, capVa := capVa, capPages := n, endStatus := .ok }
    let s := writeRequest r imageVa (s.modAd fun a => { a with reqs := a.reqs.filter (fun x => !x.same r) ++ [r] })
    let core := fun (w : Nat × Nat) => (s.context r.ctx).bind fun c => c.cores[w.1]?
    let s := match r.wake with
      | none => s
      | some w => match core w with
        | some c => wakeThread (c * 16 + w.2) s
        | none => s
    .done r s

/-- The request's record is FREE, and a trainable request's party has a reservoir (R641 step 3). -/
def recordFree (r : Request) (s : Block) : Bool × Block :=
  let (bs, s) := fwSee r.ctx (recAddr r.idx + 0x3A) 1 s
  (bs == some [0#8] && (!r.trainable || s.adapters.reservoirs.any fun x => x.keySlot == r.keySlot), s)

/-- Step 3 of an admission that did not wait. -/
def checkRecord (r : Request) (fresh : Bool) (s : Block) : Bool × Block := if fresh then recordFree r s else (true, s)

/-- The CURRENT base slot. -/
def currentBase (s : Block) : Option Nat := [0, 1].find? fun b => decide ((s.baseSlot b).st = 3)

/-- The entry of (KEY_SLOT, ADAPTER_ID). -/
def findAdapter (s : Block) (slot : Nat) (id : U64) : Option (Nat × DirEntry) :=
  s.adapters.dir.find? fun p => p.2.slot == slot && p.2.id == id

/-- Admission, steps 1 to 7; `fresh` when it is not one that waited. -/
def admitRequest (r : Request) (fresh : Bool) (s : Block) : Admit :=
  if r.adapter = 0 then
    match currentBase s with
    | none => .ends .baseMismatch s
    | some b =>
      match checkRecord r fresh s with
      | (false, s) => .ends .internal s
      | (true, s) => admitPinned { r with baseSlot := b, entry := none } s
  else
    let absent := Admit.ends .adapterAbsent (s.modAd fun a => { a with absent := a.absent + 1 })
    match findAdapter s r.keySlot r.adapter with
    | none => absent
    | some (i, e) =>
      if !s.adapters.mode && !e.static then absent
      else if e.st = stRevoking || e.st = stRevoked then .ends .adapterRevoked s
      else if e.st = stStranded || !baseAdmits (s.baseSlot e.baseSlot).st then .ends .baseMismatch s
      else
        match checkRecord r fresh s with
        | (false, s) => .ends .internal s
        | (true, s) =>
          let r := { r with entry := some i, second := e.cur, baseSlot := e.baseSlot }
          let v := e.vs e.cur
          if !s.adapters.mode && !(v.st = 2 && v.home = 1) then absent
          else
            match bringT1 ((s.context r.ctx).map (·.fn) |>.getD 0) i e.cur s with
            | .ok s => admitPinned r s
            | .error (.busy, _) => .waits
            | .error (st, s) => .ends st s

/-- Waiting admissions go on in order, up to the first that has to wait still (R646). -/
def resumeWaiting : List Request → Block → Block
  | [], s => s
  | r :: rest, s =>
    match admitRequest r false s with
    | .waits => s
    | .ends st s => resumeWaiting rest (endWaiting r st s)
    | .done r' s => resumeWaiting rest (completeFor r.poster .ok r'.version s)

/-! ### Revocation (R652–R655) -/

/-- Step 6: both images are erased, the entry is REVOKED, and its AD_REVOKE completes. -/
def finishRevoke (i : Nat) (s : Block) : Block :=
  match s.dirEntry i with
  | none => s
  | some e =>
    let s := eraseImage e.vs1 (eraseImage e.vs0 s)
    let s := s.modEntry i fun e => { e with st := stRevoked, vs0 := .init, vs1 := .init, grace := [], revoker := none }
    completeFor e.revoker .ok 0 s

/-- Entries whose revocation has no request left are REVOKED. -/
def settleRevokes (s : Block) : Block :=
  (s.adapters.dir.filter fun p => decide (p.2.st = stRevoking)).foldl (fun s p =>
    if s.activeReqs.any fun r => r.entry == some p.1 then s else finishRevoke p.1 s) s

/-- A page whose copy stands in its new home already goes there before firmware writes it (step 3 of R464). -/
def settleCopy (ctx va : Nat) (s : Block) : Block :=
  (List.range 8).foldl (fun s e =>
    match (s.tierEngine e).job with
    | some j => if j.stage = 2 && j.req.ctx = ctx && j.va ≤ va && va < j.va + pageSize j.big then moveStep e j s else s
    | none => s) s

/-- The bytes of a page below T1 with one unit of 64 KiB zero; all zero where it cannot be read (assumption 85). -/
def zeroedBytes (e ctx page off : Nat) (x : Leaf) (s : Block) : List Byte × Block :=
  if !x.big then (zeros 65536, s)
  else
    match readCompressed e ctx page x s with
    | (.error _, s) => (zeros (pageSize true), s)
    | (.ok c, s) =>
      match decodePage page true c with
      | .error _ => (zeros (pageSize true), s)
      | .ok bs => (bs.take off ++ zeros 65536 ++ bs.drop (off + 65536), s)

/-- Firmware zero-fills 64 KiB of a context's page in its home. Pages of another party, of the base and of the adapter window
are not the context's to name (R53, R60). -/
def zeroUnit (ctx va : Nat) (s : Block) : Block :=
  let a := va / 65536 * 65536
  let s := settleCopy ctx a s
  match leafOf s ctx a with
  | none => s
  | some x =>
    let page := pageBase x.big a
    if inWindow a || !ctxHolds s ctx (leafSlot x.l) then s
    else if leafHome x.l = 1 then
      let pa := leafFrame x.l + (a - page)
      t1Zero pa 65536 (landRange pa 65536 s)
    else
      let e := engineOf (some x) page 1
      let (bs, s) := zeroedBytes e ctx page (a - page) x s
      match placePage e ctx page x (leafHome x.l) (leafCfmt x.l) [] bs (releaseHome x s) with
      | (.ok l, s) => dropPage ctx page (putLeaf x l s)
      | (.error _, s) => forgetOld x.l (dropPage ctx page (putLeaf x 0 s))

/-- Zero a run of a context's pages, in their home. -/
def zeroPages (ctx va n : Nat) (s : Block) : Block := (pageRun va n).foldl (fun s a => zeroUnit ctx a s) s

/-- Step 5: a request of a revoked adapter ends, with its event record; `wipe` zero-fills its pages first. -/
def endRevoked (wipe : Bool) (r : Request) (s : Block) : Block :=
  let s := if wipe then zeroPages r.ctx r.capVa r.capPages (zeroPages r.ctx r.kvVa r.kvPages s) else s
  let f := match s.context r.ctx with
    | some c => s.fnOfPart c.part
    | none => 0
  postFirmware f .adapterRevoked r.ctx [] (endRequest r .adapterRevoked s)

/-- Steps 1 to 3: the entry is REVOKING, its waiting admissions end, its requests are told. -/
def startRevoke (i : Nat) (by_ : Option Poster) (s : Block) : Block :=
  let s := s.modEntry i fun e => { e with st := stRevoking, revoker := by_ }
  let waiting := s.waitingReqs.filter fun r => (findAdapter s r.keySlot r.adapter).map (·.1) == some i
  let s := waiting.foldl (fun s r => endWaiting r .adapterRevoked s) s
  let active := s.activeReqs.filter fun r => r.entry == some i
  let s := active.foldl (fun s r => orBoundary r 33 s) s
  s.modEntry i fun e => { e with grace := active.map fun r => r.ctx * 65536 + r.idx }

/-- The end of step 4 without END, and step 5: no page of the images can be read, every request ends. -/
def expireGrace (wipe : Bool) (i : Nat) (s : Block) : Block :=
  match s.dirEntry i with
  | none => s
  | some e =>
    if e.st ≠ stRevoking then s
    else
      let s := (e.vs0.addrs ++ e.vs1.addrs).foldl (fun s va => changeLeaf 0xFFFF va (fun l => setBits l 4 1 0) s) s
      let s := (s.activeReqs.filter fun r => r.entry == some i).foldl (fun s r => endRevoked wipe r s) s
      finishRevoke i s

/-- What pins released, revocations and bases bring about: REVOKED entries, and admissions that go on. -/
def settleService (s : Block) : Block :=
  let s := settleRevokes s
  resumeWaiting s.waitingReqs s

def execRevokeGraceExpiry (entry : Nat) (s : State) : Result := onBlock s fun s =>
  within (decide (entry < 16777216)) s fun s => settleService (expireGrace true entry s)

/-- END has been found in a request's BOUNDARY word. -/
def endFound (r : Request) (s : Block) : Block :=
  match r.entry.bind s.dirEntry with
  | some e => if e.st = stRevoking then endRevoked true r s else endRequest r .ok s
  | none => endRequest r .ok s

/-- BOUNDARY_POLL (R650): requests that set END end. -/
def boundaryPoll (s : Block) : Block :=
  settleService (s.activeReqs.foldl (fun s r =>
    let (w, s) := boundary r s
    if bitOf w 32 then endFound r s else s) s)

def execBoundaryPoll (s : State) : Result := onBlock s fun s => .next (boundaryPoll s)

/-! ### Operations on the directory -/

/-- The function that posted, for its host accesses; the context's for a program. -/
def posterFn (s : Block) (p : Poster) : Nat :=
  match p with
  | .ring f .. => f
  | .service c _ => ((s.context c).map (·.fn)).getD 0

/-- An operation ends with a status and nothing changed. -/
def fail (t : Taken) (st : Status) (s : Block) : Block := complete t.poster st 0 s

/-- The base slot an adapter's digest binds it to (R665). -/
def bindBase (s : Block) (digest : List Byte) : Option Nat :=
  [0, 1].find? fun b => baseAdmits (s.baseSlot b).st && (s.baseSlot b).digest == digest

/-- What stops a publication on an entry, and a load (R654; AD_LOAD is held to it too, DEDUCED, assumption 42). -/
def entryBar (e : DirEntry) : Option Status := if e.st = stRevoking || e.st = stRevoked then some .adapterRevoked else none

/-- A new version goes into the slot that is not current, and becomes current (R656–R658). -/
def flipTo (i : Nat) (v : VSlot) (s : Block) : Block :=
  match s.dirEntry i with
  | none => s
  | some e => (eraseImage (e.vs (!e.cur)) s).modEntry i fun e => { e.setVs (!e.cur) v with cur := !e.cur }

/-- AD_REGISTER on an adapter that has an entry: its host record's version is published. -/
def republish (t : Taken) (i : Nat) (e : DirEntry) (r : HostRecord) (s : Block) : Block :=
  match entryBar e with
  | some st => fail t st s
  | none =>
    if (e.vs (!e.cur)).pins ≠ 0 then fail t .adapterPinned s
    else if hdrVersion r.header ≤ (e.vs e.cur).version then fail t .internal s
    else
      let v : VSlot := { VSlot.init with version := hdrVersion r.header, st := 1, hostRec := true, hostAddr := t.arg 0,
                                         pages := hdrPages r.header + 1 }
      complete t.poster .ok i (flipTo i v s)

def adRegister (t : Taken) (s : Block) : Block :=
  let slot := t.arg 1 % 4096
  match readRecordAt (posterFn s t.poster) (t.arg 0) slot s with
  | (.error st, s) => fail t st s
  | (.ok r, s) =>
    match bindBase s (hdrDigest r.header) with
    | none => fail t .baseMismatch s
    | some b =>
      match findAdapter s slot (BitVec.ofNat 64 (hdrId r.header)) with
      | some (i, e) => if e.baseSlot = b then republish t i e r s else fail t .baseMismatch s
      | none =>
        let used := s.adapters.dir.map (·.1)
        let ok := fun (i : Nat) => !used.contains i && decide (i < 16777216)
        match s.choice ok ((List.range (used.length + 1)).find? ok) with
        | none => fail t .busy s
        | some i =>
          let v : VSlot := { VSlot.init with version := hdrVersion r.header, st := 1, hostRec := true, hostAddr := t.arg 0,
                                             pages := hdrPages r.header + 1 }
          let e : DirEntry := { id := BitVec.ofNat 64 (hdrId r.header), slot := slot, st := stReady, baseSlot := b, cur := false,
                                static := false, trainable := false, lastUse := 0, vs0 := v, vs1 := .init, grace := [],
                                revoker := none }
          complete t.poster .ok i ((s.spent 1).modAd fun a => { a with dir := SMap.set i e a.dir })

def execAdRegister (p : Poster) (s : State) : Result := onBlock s fun s => within (posterOk p) s (runOp p 0x01 adRegister)

/-- The form of an operation on an entry: a FREE entry ends it with INTERNAL (assumption 42). -/
def onEntry (t : Taken) (s : Block) (f : DirEntry → Block) : Block :=
  match s.dirEntry (t.arg 0) with
  | none => fail t .internal s
  | some e => f e

/-- The data pages of a publication: their leaves, where every condition of R656 holds. -/
def publishPages (s : Block) (ctx va n slot : Nat) : Option (List (Nat × Leaf)) :=
  if va % 65536 ≠ 0 then none
  else
    (pageRun va n).foldl (fun acc a =>
      match acc, leafOf s ctx a with
      | some l, some x =>
        if x.big || inWindow a || leafHome x.l ≠ 1 || leafSlot x.l ≠ slot || leafPinned x.l then none else some (l ++ [(a, x)])
      | _, _ => none) (some [])

/-- A page keeps its frame and goes from a context's table to the adapter window (R657 step 2, R798). -/
def adoptPage (ctx a dest : Nat) (x : Leaf) (pinned : Bool) (s : Block) : Block :=
  let s := dropPage ctx a (putLeaf x 0 s)
  let f := leafFrame x.l / 65536
  let s := { s with mem := { s.mem with frames := s.mem.frames.map fun h =>
    if h.first = f then { h with ctx := 0xFFFF, va := dest, part := none } else h } }
  let s := forgetOld x.l s
  let epoch := (s.slot (leafSlot x.l)).epoch.toNat
  mapLeaf s.mem.windowRoot dest false (mkLeaf 1 true false false pinned epoch (leafFrame x.l) (leafCfmt x.l) (leafSlot x.l)) s

/-- The header area of a version, as its image or host record holds it. -/
def headerOf (f : Nat) (e : DirEntry) (v : VSlot) (s : Block) : Except Status (List Byte) × Block :=
  if v.st = 2 then
    match leafOf s 0xFFFF v.imageVa with
    | some x => readPage 0 0xFFFF v.imageVa x s
    | none => (.error .internal, s)
  else
    match readRecordAt f v.hostAddr e.slot s with
    | (.ok r, s) => (.ok r.header, s)
    | (.error st, s) => (.error st, s)

/-- AD_PUBLISH, past its checks. -/
def publish (t : Taken) (ctx i : Nat) (e : DirEntry) (pages : List (Nat × Leaf)) (s : Block) : Block :=
  match headerOf (posterFn s t.poster) e (e.vs e.cur) s with
  | (.error st, s) => fail t st s
  | (.ok h, s) =>
    let version := t.arg 1 % 2 ^ 32
    let header := h.take 0x10 ++ leBytes 4 version ++ h.drop 0x14
    let target := e.vs (!e.cur)
    let move := fun (s : Block) =>
      match freeImageVa s (pages.length + 1) with
      | none => Except.error (Status.busy, s)
      | some va =>
        let s := ensureWindows (s.spent 1)
        match createPage 0xFFFF va true false false e.static e.slot 0 header s with
        | none => .error (.busy, s)
        | some s =>
          let s := pages.zipIdx.foldl (fun s (p : (Nat × Leaf) × Nat) => adoptPage ctx p.1.1 (va + 65536 * (p.2 + 1)) p.1.2 e.static s) s
          let v : VSlot := { VSlot.init with version := version, st := 2, home := 1, imageVa := va, pages := pages.length + 1 }
          .ok (flipTo i v s)
    let s := (eraseImage target s).modEntry i fun x => x.setVs (!e.cur) .init
    match withRoom (65536 * (pages.length + 1)) move (roomFuel s) s with
    | .error (st, s) => fail t st s
    | .ok s => complete t.poster .ok (b2n (!e.cur)) (settleService s)

def adPublish (t : Taken) (s : Block) : Block :=
  onEntry t s fun e =>
    match entryBar e with
    | some st => fail t st s
    | none =>
      if (e.vs (!e.cur)).pins ≠ 0 then fail t .adapterPinned s
      else
        match t.poster with
        | .ring .. => fail t .internal s
        | .service ctx _ =>
          match publishPages s ctx (t.arg 2) ((e.vs e.cur).pages - 1) e.slot with
          | some pages => if (e.vs e.cur).version < t.arg 1 % 2 ^ 32 then publish t ctx (t.arg 0) e pages s else fail t .internal s
          | none => fail t .internal s

def execAdPublish (p : Poster) (s : State) : Result := onBlock s fun s => within (posterOk p) s (runOp p 0x02 adPublish)

/-- AD_REVOKE: completes once the last request has ended (R652). -/
def adRevoke (t : Taken) (s : Block) : Block :=
  onEntry t s fun e =>
    if e.st = stRevoking || e.st = stRevoked then fail t .adapterRevoked s
    else settleService (startRevoke (t.arg 0) (some t.poster) (markStarted t.poster s))

def execAdRevoke (p : Poster) (s : State) : Result := onBlock s fun s => within (posterOk p) s (runOp p 0x03 adRevoke)

def adRemove (t : Taken) (s : Block) : Block :=
  onEntry t s fun e =>
    if e.vs0.pins ≠ 0 || e.vs1.pins ≠ 0 then fail t .adapterPinned s
    else
      let s := eraseImage e.vs1 (eraseImage e.vs0 s)
      let s := s.modAd fun a => { a with dir := SMap.del (t.arg 0) a.dir }
      settleService (complete t.poster .ok 0 (completeFor e.revoker .ok 0 s))

def execAdRemove (p : Poster) (s : State) : Result := onBlock s fun s => within (posterOk p) s (runOp p 0x04 adRemove)

/-- Entries with STATIC set. -/
def staticCount (s : Block) : Nat := (s.adapters.dir.filter fun p => p.2.static).length

/-- AD_LOAD to T1 in static-set mode (R635). -/
def loadStatic (t : Taken) (e : DirEntry) (s : Block) : Block :=
  let i := t.arg 0
  let v := e.vs e.cur
  let need := if v.st = 2 && v.home = 1 then 0 else 65536 * v.pages
  if (8192 ≤ staticCount s && !e.static) || cacheLimit s < cacheUsed s + need then fail t .busy s
  else
    match fetchT1 (posterFn s t.poster) i e.cur s with
    | .error (st, s) => fail t st s
    | .ok s =>
      let s := s.modEntry i fun e => { e with static := true }
      let s := match s.dirEntry i with
        | some e => pinImage (e.vs e.cur) true s
        | none => s
      complete t.poster .ok 1 s

/-- AD_LOAD to T2 in directory mode. -/
def loadT2 (t : Taken) (e : DirEntry) (s : Block) : Block :=
  let i := t.arg 0
  let v := e.vs e.cur
  if v.st = 2 && v.home = 2 then complete t.poster .ok 2 s
  else if v.pins ≠ 0 then fail t .adapterPinned s
  else
    match bringT1 (posterFn s t.poster) i e.cur s with
    | .error (st, s) => fail t st s
    | .ok s' =>
      match moveOut i e.cur (roomFuel s') s' with
      | some s => complete t.poster .ok 2 s
      | none => fail t .busy s

def adLoad (t : Taken) (s : Block) : Block :=
  onEntry t s fun e =>
    match entryBar e, t.arg 1 % 4 with
    | some st, _ => fail t st s
    | none, 1 =>
      if !s.adapters.mode then loadStatic t e s
      else
        match bringT1 (posterFn s t.poster) (t.arg 0) e.cur s with
        | .error (st, s) => fail t st s
        | .ok s => complete t.poster .ok 1 s
    | none, 2 => if s.adapters.mode then loadT2 t e s else fail t .busy s
    | none, _ => fail t .internal s

def execAdLoad (p : Poster) (s : State) : Result := onBlock s fun s => within (posterOk p) s (runOp p 0x05 adLoad)

/-- The header area and data pages of a version, with the pages' codec formats. -/
def versionPages (f : Nat) (e : DirEntry) (v : VSlot) (s : Block) : Except Status (List Byte × List (Nat × List Byte)) × Block :=
  if v.st = 2 then
    let step := fun (acc : Except Status (List (Nat × List Byte)) × Block) (va : Nat) =>
      match acc with
      | (.error st, s) => (Except.error st, s)
      | (.ok l, s) =>
        match leafOf s 0xFFFF va with
        | none => (.error Status.internal, s)
        | some x =>
          match readPage (engineOf (some x) va 3) 0xFFFF va x s with
          | (.error st, s) => (.error st, s)
          | (.ok bs, s) => (.ok (l ++ [(leafCfmt x.l, bs)]), s)
    match v.addrs.foldl step (.ok [], s) with
    | (.ok (h :: rest), s) => (.ok (h.2, rest), s)
    | (.ok [], s) => (.error .internal, s)
    | (.error st, s) => (.error st, s)
  else if v.st = 1 then
    match readRecordAt f v.hostAddr e.slot s with
    | (.ok r, s) => (.ok (r.header, r.pages), s)
    | (.error st, s) => (.error st, s)
  else (.error .internal, s)

def adExport (t : Taken) (s : Block) : Block :=
  onEntry t s fun e =>
    let b := bitOf (t.arg 1) 0
    let f := posterFn s t.poster
    match versionPages f e (e.vs b) s with
    | (.error st, s) => fail t st s
    | (.ok (h, pages), s) =>
      match writeRecordAt f (t.arg 2) e.slot h pages s with
      | (.error st, s) => fail t st s
      | (.ok n, s) =>
        complete t.poster .ok n (s.modEntry (t.arg 0) fun e => e.setVs b { e.vs b with hostRec := true, hostAddr := t.arg 2 })

def execAdExport (p : Poster) (s : State) : Result := onBlock s fun s => within (posterOk p) s (runOp p 0x06 adExport)

/-- A version slot's bytes (R621). -/
def vsBytes (v : VSlot) : List Byte :=
  leBytes 4 v.version ++ leBytes 4 v.pins ++ leBytes 8 (v.imageVa % 2 ^ 48 + v.home * 2 ^ 48 + v.st * 2 ^ 50 + b2n v.hostRec * 2 ^ 52)
    ++ leBytes 8 v.hostAddr

/-- A directory entry's bytes (R619); 64 zero bytes for a FREE one. -/
def entryBytes (e : Option DirEntry) : List Byte :=
  match e with
  | none => zeros 64
  | some e =>
    leBytes 8 e.id.toNat ++ leBytes 2 (e.slot % 4096 + e.st * 4096) ++ leBytes 1 e.baseSlot
      ++ leBytes 1 (b2n e.cur + 2 * b2n e.static + 4 * b2n e.trainable) ++ leBytes 4 e.lastUse ++ vsBytes e.vs0 ++ vsBytes e.vs1

/-- Bytes an image takes in its home tier. -/
def imageBytes (s : Block) (v : VSlot) : Nat :=
  if v.st ≠ 2 then 0
  else if v.home = 1 then 65536 * v.pages
  else 4096 * ((s.mem.granules.filter fun h => v.imageVa ≤ h.va && h.va < v.imageVa + 65536 * v.pages).map (·.n)).sum

/-- Admissions of an entry that wait. -/
def waitingOf (s : Block) (i : Nat) : Nat :=
  (s.waitingReqs.filter fun r => (findAdapter s r.keySlot r.adapter).map (·.1) == some i).length

/-- The query record (R634). -/
def queryRecord (s : Block) (i : Nat) : List Byte :=
  let e := s.dirEntry i
  let b := (e.map (·.baseSlot)).getD 0
  let img := (e.map fun e => imageBytes s (e.vs e.cur)).getD 0
  entryBytes e ++ leBytes 4 s.adapters.admitCount.toNat ++ leBytes 1 (b2n s.adapters.mode) ++ leBytes 1 (s.baseSlot b).st
    ++ leBytes 2 (min (waitingOf s i) 0xFFFF) ++ leBytes 8 img ++ ((s.baseSlot b).digest ++ zeros 48).take 48

/-- Where a program may not have its query record written (R634). -/
def queryBar (s : Block) (ctx va : Nat) : Option Status :=
  match leafOf s ctx va with
  | none => some .permFault
  | some x =>
    if pageBase x.big va ≠ pageBase x.big (va + 127) || !leafW x.l || !ctxHolds s ctx (leafSlot x.l) then some .permFault
    else if leafHome x.l ≠ 1 then some .notResident
    else none

def adQuery (t : Taken) (s : Block) : Block :=
  let rec_ := queryRecord s (t.arg 0)
  match t.poster with
  | .ring f .. =>
    match hostPut f (t.arg 1) rec_ s with
    | (.error st, s) => fail t st s
    | (.ok _, s) => complete t.poster .ok 0 s
  | .service ctx _ =>
    match queryBar s ctx (t.arg 1) with
    | some st => fail t st s
    | none => complete t.poster .ok 0 (fwWrite ctx (t.arg 1) rec_ s)

def execAdQuery (p : Poster) (s : State) : Result := onBlock s fun s => within (posterOk p) s (runOp p 0x07 adQuery)

/-- To directory mode (R637). -/
def toDirectory (s : Block) : Block :=
  let s := s.adapters.dir.foldl (fun s p =>
    let s := if p.2.vs0.pins = 0 then pinImage p.2.vs0 false s else s
    if p.2.vs1.pins = 0 then pinImage p.2.vs1 false s else s) s
  s.modAd fun a => { a with mode := true, dir := a.dir.map fun p => (p.1, { p.2 with static := false }) }

/-- The entries that AD_MODE to static-set mode sets STATIC, in ascending index (R638): count and bytes so far. -/
def chooseStatic (limit : Nat) : List (Nat × DirEntry) → Nat → Nat → List Nat
  | [], _, _ => []
  | (i, e) :: rest, n, used =>
    let v := e.vs e.cur
    if !(v.st = 2 && v.home = 1) then chooseStatic limit rest n used
    else if n = 8192 || limit < used + 65536 * v.pages then []
    else i :: chooseStatic limit rest (n + 1) (used + 65536 * v.pages)

def toStatic (s : Block) : Block :=
  let l := chooseStatic (cacheLimit s) s.adapters.dir 0 0
  let s := s.modAd fun a => { a with mode := false, dir := a.dir.map fun p => (p.1, { p.2 with static := p.2.static || l.contains p.1 }) }
  (s.adapters.dir.filter fun p => p.2.static).foldl (fun s p => pinImage (p.2.vs p.2.cur) true s) s

def adMode (t : Taken) (s : Block) : Block :=
  let old := b2n s.adapters.mode
  if bitOf (t.arg 0) 0 then complete t.poster .ok old (settleService (toDirectory s))
  else if s.adapters.dir.any fun p => p.2.vs0.pins != 0 || p.2.vs1.pins != 0 then fail t .busy s
  else complete t.poster .ok old (toStatic s)

def execAdMode (p : Poster) (s : State) : Result := onBlock s fun s => within (posterOk p) s (runOp p 0x08 adMode)

/-! ### Admission and its end, as operations -/

/-- The request an RQ_ADMIT asks for (R640). -/
def requestOf (t : Taken) : Request :=
  let a := t.arg 1
  { ctx := admitCtx t, idx := bitsOf a 32 16, reqId := BitVec.ofNat 64 (t.arg 2), adapter := BitVec.ofNat 64 (t.arg 0), entry := none,
    second := false, version := 0, keySlot := a % 4096, baseSlot := 0, trainable := bitOf a 12,
    wake := if bitOf a 13 then some (bitsOf a 18 12, bitsOf a 14 4) else none, capVa := 0, capPages := min (bitsOf a 48 16) 4096,
    kvVa := t.arg 3, kvPages := t.arg 4 % 2 ^ 32, st := 1, endStatus := .ok, poster := some t.poster }

def rqAdmit (t : Taken) (s : Block) : Block :=
  let r := requestOf t
  if (s.context r.ctx).isNone || 4096 < bitsOf (t.arg 1) 48 16 then fail t .internal s
  else
    match admitRequest r true s with
    | .ends st s => fail t st s
    | .done r' s => complete t.poster .ok r'.version s
    | .waits =>
      let s := s.modAd fun a => { a with admitWaits := a.admitWaits + 1, reqs := a.reqs ++ [r] }
      writeRequest r 0 (markStarted t.poster s)

def execRqAdmit (p : Poster) (s : State) : Result := onBlock s fun s => within (posterOk p) s (runOp p 0x10 rqAdmit)

/-- RQ_END: a waiting admission ends with OK, an ACTIVE request has END set and ends (R650). -/
def rqEnd (t : Taken) (s : Block) : Block :=
  match s.adapters.reqs.find? fun r => r.ctx == t.arg 0 % 65536 && r.idx == bitsOf (t.arg 0) 32 16 with
  | none => fail t .internal s
  | some r =>
    let s := if r.st = 1 then endWaiting r .ok s else endFound r (orBoundary r 32 s)
    complete t.poster .ok 0 (settleService s)

def execRqEnd (p : Poster) (s : State) : Result := onBlock s fun s => within (posterOk p) s (runOp p 0x11 rqEnd)

/-! ### The base slots, as operations -/

/-- The bytes of an unsealed image, or of a sealed one, in pages (R816). -/
def baseImage (f a n : Nat) (s : Block) : Except Status (List Byte × Option U128) × Block :=
  match hostRead f a n s with
  | (.error st, s) => (.error st, s)
  | (.ok bs, s) =>
    if bs.take 4 ≠ [0x48#8, 0x53#8, 0x42#8, 0x49#8] || n < 64 then (.ok (bs, none), s)
    else
      let id := BitVec.ofNat 128 (fld bs 8 16)
      match s.attest.sets.find? fun x => x.id == id with
      | none => (.error .permFault, s)
      | some x =>
        if fld bs 4 2 ≠ 1 || !allZero bs 6 2 || !allZero bs 0x28 24 then (.error .internal, s)
        else
          let key := sealKey x ((bs.drop 0x18).take 16)
          let body := bs.drop 64
          let m := ceilDiv body.length 65552
          let pages := (List.range m).map fun i => Config.gcmOpen key (sealIv i) [] ((body.drop (65552 * i)).take 65552)
          if pages.any (·.isNone) then (.error .permFault, s) else (.ok ((pages.filterMap id').flatten, some id), s)
where id' (x : Option (List Byte)) : Option (List Byte) := x

/-- A FREE key slot (R844's SLOT_RESERVE, and firmware's own; assumption 36). -/
def freeSlot (s : Block) : Option Nat :=
  let used := s.slots.map (·.1)
  let ok := fun (k : Nat) => decide (k < 4096) && decide ((s.slot k).st = .free)
  s.choice ok ((List.range (used.length + 1)).find? ok)

/-- A secret as KEY_INSTALL or KEY_ROTATE places it (R799). -/
def newSecret (s : Block) (key : BitVec 256) : Secret :=
  { key := key, ivPrefix := BitVec.ofNat 32 s.kreash.moduleId.toNat, counter := 0 }

/-- The next output of the tollhouse's random generator. -/
def drawSecret (s : Block) : BitVec 256 × Block :=
  (Config.drbg s.attest.drbgCtr, { s with attest := { s.attest with drbgCtr := s.attest.drbgCtr + 1 } })

/-- A slot becomes ACTIVE at epoch 0 under a secret. -/
def installSecret (k : Nat) (key : BitVec 256) (s : Block) : Block :=
  s.modSlot k fun x => { x with st := .active, epoch := 0, cur := some (newSecret s key), prev := none, zeroized := false }

/-- Pages of 64 KiB of a run of bytes, from an address. -/
def cutPages : Nat → Nat → List Byte → List (Nat × List Byte)
  | 0, _, _ => []
  | n + 1, va, bs => (va, bs.take 65536) :: cutPages n (va + 65536) (bs.drop 65536)

def baseLoad (t : Taken) (s : Block) : Block :=
  match [0, 1].find? fun b => decide ((s.baseSlot b).st = 0) with
  | none => fail t .busy s
  | some b =>
    if 2 ^ 41 < t.arg 1 then fail t .internal s
    else
      match baseImage (posterFn s t.poster) (t.arg 0) (t.arg 1) s with
      | (.error st, s) => fail t st s
      | (.ok (bs, set), s) =>
        match freeSlot s with
        | none => fail t .busy s
        | some k =>
          let (key, s') := drawSecret s
          let s' := (installSecret k key (s'.spent 1)).modSlot k fun x => { x with set := set }
          let n := ceilDiv bs.length 65536
          match createPages 0xFFFF true false false false k (cutPages n (baseVa b) bs) (ensureWindows s') with
          | none => fail t .busy s
          | some s =>
            complete t.poster .ok b (s.modBase b fun _ => { st := 2, digest := sha384 bs, keySlot := k, pages := n })

def execBaseLoad (p : Poster) (s : State) : Result := onBlock s fun s => within (posterOk p) s (runOp p 0x18 baseLoad)

def baseSwitch (t : Taken) (s : Block) : Block :=
  match [0, 1].find? fun b => decide ((s.baseSlot b).st = 2) with
  | none => fail t .busy s
  | some b =>
    let s := s.modAd fun a => { a with bases := a.bases.map fun x => if x.st = 3 then { x with st := 4 } else x }
    complete t.poster .ok b (s.modBase b fun x => { x with st := 3 })

def execBaseSwitch (p : Poster) (s : State) : Result := onBlock s fun s => within (posterOk p) s (runOp p 0x19 baseSwitch)

def baseRetire (t : Taken) (s : Block) : Block :=
  let b := t.arg 0
  if 2 ≤ b then fail t .internal s
  else if (s.baseSlot b).st ≠ 2 && (s.baseSlot b).st ≠ 4 then fail t .busy s
  else
    let s := s.modBase b fun x => { x with st := 5 }
    let bound := fun (e : DirEntry) => e.baseSlot == b && e.st == stReady
    let waiting := s.waitingReqs.filter fun r => match findAdapter s r.keySlot r.adapter with
      | some (_, e) => bound e
      | none => false
    let s := s.modAd fun a => { a with dir := a.dir.map fun p => (p.1, if bound p.2 then { p.2 with st := stStranded } else p.2) }
    let s := waiting.foldl (fun s r => endWaiting r .baseMismatch s) s
    complete t.poster .ok 0 (settleService (settleBase b s))

def execBaseRetire (p : Poster) (s : State) : Result := onBlock s fun s => within (posterOk p) s (runOp p 0x1A baseRetire)

/-! ### Reservoirs (R666–R673) -/

def Block.reservoir (s : Block) (k : Nat) : Option Reservoir := s.adapters.reservoirs.find? fun r => r.keySlot == k
def Block.setReservoir (s : Block) (x : Reservoir) : Block :=
  s.modAd fun a => { a with reservoirs := a.reservoirs.map fun r => if r.keySlot = x.keySlot then x else r }

def resCreate (t : Taken) (s : Block) : Block :=
  let k := t.arg 0 % 4096
  if t.arg 1 = 0 || 1048576 < t.arg 1 then fail t .internal s
  else if (s.reservoir k).isSome then fail t .busy s
  else
    complete t.poster .ok 0 (s.modAd fun a =>
      { a with reservoirs := a.reservoirs ++ [({ keySlot := k, fullPolicy := bitOf (t.arg 0) 12, limit := t.arg 1, serial := 0,
                                                 pages := [] } : Reservoir)] })

def execResCreate (p : Poster) (s : State) : Result := onBlock s fun s => within (posterOk p) s (runOp p 0x20 resCreate)

/-- The records of a capture page end exactly at `used` (R668, R669). -/
def captureRecords (bs : List Byte) (used : Nat) : Nat → Nat → Bool
  | 0, _ => false
  | n + 1, off =>
    if off = used then true
    else
      let len := fld bs (off + 4) 4
      let kind := fld bs off 1
      if used < off + 32 || kind = 0 || 4 < kind || len < 32 || len % 8 ≠ 0 || used < off + len then false
      else captureRecords bs used n (off + len)

/-- A capture page passes R667 and R669. -/
def captureOk (bs : List Byte) : Bool :=
  let used := fld bs 4 4
  bs.take 4 == [0x48#8, 0x52#8, 0x53#8, 0x56#8] && used % 8 == 0 && (32 ≤ used && used ≤ 65536) && allZero bs 0x14 12
    && captureRecords bs used 2050 32

/-- The capture pages of an append: their bytes and leaves, of one key slot the context holds, homed in T1. -/
def readCaptures (s : Block) (ctx va n : Nat) : Except Status (List (Leaf × List Byte)) :=
  (pageRun va n).foldl (fun acc a => acc.bind fun l =>
    match leafOf s ctx a with
    | none => .error .permFault
    | some x =>
      if x.big || inWindow a || !leafR x.l || !ctxHolds s ctx (leafSlot x.l)
          || l.any (fun p => leafSlot p.1.l != leafSlot x.l) then .error .permFault
      else if leafHome x.l ≠ 1 then .error .notResident
      else
        let bs := t1Data s (leafFrame x.l) 65536
        if (t1BadIn s (leafFrame x.l) 65536).isSome then .error .eccUncorrectable
        else if captureOk bs then .ok (l ++ [(x, bs)]) else .error .internal) (.ok [])

/-- Firmware reads the capture pages of an append; the stores to them are complete first (R668 takes the pages whole). -/
def capturePages (ctx va n : Nat) (s : Block) : Except Status (List (Leaf × List Byte)) × Block :=
  let s := (pageRun va n).foldl (fun s a =>
    match leafOf s ctx a with
    | some x => if leafHome x.l = 1 && !x.big then landRange (leafFrame x.l) 65536 s else s
    | none => s) s
  (readCaptures s ctx va n, s)

/-- A capture page's bytes with its serial. -/
def withSerial (bs : List Byte) (n : Nat) : Mem := Mem.write [] 0 (bs.take 12 ++ leBytes 8 n ++ bs.drop 20)

/-- Room in T2 for the reservoirs, images released until there is. -/
def roomT2 : Nat → Block → Option Block
  | 0, _ => none
  | n + 1, s => if serviceT2 s ≤ serviceT2Limit s then some s else (releaseT2 s).bind (roomT2 n)

/-- A fresh zero-filled page stands where a page was taken. -/
def freshPage (ctx va : Nat) (x : Leaf) (s : Block) : Block :=
  let s := forgetOld x.l (t1Zero (leafFrame x.l) 65536 (landRange (leafFrame x.l) 65536 s))
  let l := setBits (setBits x.l 9 1 0) 10 2 (s.slot (leafSlot x.l)).epoch.toNat
  dropPage ctx va (putLeaf x l s)

def appendTo (t : Taken) (ctx va : Nat) (pages : List (Leaf × List Byte)) (r : Reservoir) (s : Block) : Block :=
  let n := pages.length
  let excess := r.pages.length + n - r.limit
  if r.limit < n || (0 < excess && r.fullPolicy) then fail t .busy s
  else
    let new := pages.zipIdx.map fun p => (r.serial + p.2, withSerial p.1.2 (r.serial + p.2))
    let s' := s.setReservoir { r with serial := r.serial + n, pages := r.pages.drop excess ++ new }
    match roomT2 (roomFuel s') s' with
    | none => fail t .busy s
    | some s =>
      let s := pages.zipIdx.foldl (fun s (p : (Leaf × List Byte) × Nat) => freshPage ctx (va + 65536 * p.2) p.1.1 s) s
      complete t.poster .ok (r.serial % 2 ^ 32 + excess * 2 ^ 32) s

def resAppend (t : Taken) (s : Block) : Block :=
  match t.poster with
  | .ring .. => fail t .permFault s
  | .service ctx _ =>
    let va := t.arg 0
    if va % 65536 ≠ 0 || 2 ^ 48 ≤ va + 65536 * t.arg 1 || t.arg 1 = 0 then fail t .internal s
    else
      match capturePages ctx va (t.arg 1) s with
      | (.error st, s) => fail t st s
      | (.ok [], s) => fail t .internal s
      | (.ok (p :: rest), s) =>
        match s.reservoir (leafSlot p.1.l) with
        | none => fail t .internal s
        | some r => appendTo t ctx va (p :: rest) r s

def execResAppend (p : Poster) (s : State) : Result := onBlock s fun s => within (posterOk p) s (runOp p 0x21 resAppend)

/-- The reservoir a context takes from: that of its first key slot that has one (assumption 43). -/
def reservoirOf (s : Block) (ctx : Nat) : Option Reservoir :=
  (s.context ctx).bind fun c => c.slots.findSome? s.reservoir

/-- The pages at a destination are all unmapped and outside the windows. -/
def takeSpace (s : Block) (ctx va n : Nat) : Bool :=
  va % 65536 == 0 && decide (va + 65536 * n ≤ 2 ^ 48) && (pageRun va n).all fun a => !inWindow a && (leafOf s ctx a).isNone

def resTake (t : Taken) (s : Block) : Block :=
  match t.poster with
  | .ring .. => fail t .permFault s
  | .service ctx _ =>
    match reservoirOf s ctx with
    | none => fail t .internal s
    | some r =>
      let n := min (t.arg 1) r.pages.length
      let taken := r.pages.take n
      if n = 0 then complete t.poster .ok 0 s
      else if !takeSpace s ctx (t.arg 0) n then fail t .internal s
      else
        let pages := (pageRun (t.arg 0) n).zip (taken.map fun p => Mem.read p.2 0 65536)
        match createPages ctx true true false false r.keySlot pages (s.setReservoir { r with pages := r.pages.drop n }) with
        | none => fail t .busy s
        | some s => complete t.poster .ok n s

def execResTake (p : Poster) (s : State) : Result := onBlock s fun s => within (posterOk p) s (runOp p 0x22 resTake)

def resClear (t : Taken) (s : Block) : Block :=
  match s.reservoir (t.arg 0 % 4096) with
  | none => fail t .internal s
  | some r => complete t.poster .ok r.pages.length (s.setReservoir { r with pages := [] })

def execResClear (p : Poster) (s : State) : Result := onBlock s fun s => within (posterOk p) s (runOp p 0x23 resClear)

end Sys2Proof.Machine
end

