-- ==== Sys2Proof/Machine/Branch.lean ====
section
/-! DEFINITION. Branches, jumps, calls, and the trap of a reserved encoding (R109, R118–R122). -/

namespace Sys2Proof.Machine

/-- Jump, first writing the address of the next instruction (`n` bytes on) to g31 when linking. -/
def jumpLink (th : Nat) (link : Bool) (n : Nat) (target : BitVec 48) (s : Block) : Block :=
  let ret := ((s.thread th).pc + BitVec.ofNat 48 n).zeroExtend 64
  jumpTo th target (if link then s.modThread th fun t => t.setG 31 ret else s)

/-- `b` (R118): branches when the predicate equals the sense bit. -/
def execBranch (th : Nat) (sense : Bool) (p : Pred) (off : U16) (s : State) : Result := onBlock s fun s =>
  issueP th [p] s fun s =>
    let t := s.thread th
    if t.getP p = sense then jumpTo th (jumpTarget t.pc (off.signExtend 48)) s
    else s.modThread th fun t => t.next 4

/-- `j` (R119). -/
def execJump (th : Nat) (off : U16) (s : State) : Result := onBlock s fun s =>
  issue th false s fun s => jumpLink th false 4 (jumpTarget (s.thread th).pc (off.signExtend 48)) s

/-- `call` (R119). -/
def execCall (th : Nat) (off : U16) (s : State) : Result := onBlock s fun s =>
  issue th false s fun s => jumpLink th true 4 (jumpTarget (s.thread th).pc (off.signExtend 48)) s

/-- `jr` (R120): bits [1:0] of gA are ignored; the program counter takes its low 48 bits (assumption 14). With A = g31 and F = 1
the target is g31 as it was before the link is written (DESIGN CHOICE, assumption 96). -/
def execJr (th : Nat) (a : Reg) (link : Bool) (s : State) : Result := onBlock s fun s =>
  issue th false s fun s => jumpLink th link 4 ((s.g th a).truncate 48) s

/-- `jl` (R121). -/
def execJl (th : Nat) (link : Bool) (off : U32) (s : State) : Result := onBlock s fun s =>
  issue th true s fun s => jumpLink th link 8 (jumpTarget (s.thread th).pc (off.signExtend 48)) s

/-- A reserved encoding traps with ILLEGAL_OP and changes nothing else (R109). -/
def execIllegalOp (th : Nat) (s : State) : Result := onBlock s fun s =>
  issue th false s (takeTrap th .illegalOp .ok 0)

end Sys2Proof.Machine
end

