-- ==== Sys2Proof/Machine/Complete.lean ====
section
/-! DEFINITION. The life of a queued command: its dependency, its lock pass, its start, its stop points and its completion
(R173–R187, R224–R229, R428, R431, R536–R540, R899–R914), and `sy.fence` (R200–R206). An engine's work on a command is done
stop point by stop point, as ENGINE_STOP_POINT comes, and the rest of it as the command completes (assumption 37). -/

namespace Sys2Proof.Machine

/-! ### What a command touches (R427, R428) -/

/-- The tile-store ranges a command touches. -/
def cmdRanges (s : Block) (c : Cmd) : List (Nat × Nat) :=
  let k := s.core c.core
  let b := c.block
  match c.unit with
  | 1 => if c.code = 5 then (drainOf b).ranges else mxRanges k (mxParams b c.code)
  | 2 =>
    let p := cxOf b c.code
    let es := centries k.ts p.clist p.m
    if c.code = 3 then gradRanges p es else downRanges p es
  | 3 =>
    let p := mvParams b c.code
    mmRanges p (mvStrips p) (mmEntries k.ts p)
  | 4 =>
    if c.code = 3 then []
    else if c.code = 4 then (if fld b 0x18 4 = noAddr then [] else [(fld b 0x18 4, 4 * fld b 0x26 2)])
    else if c.code = 5 then combRanges b
    else (jobOf c k.ts).ranges ++ (if c.code = 1 then [((jobOf c k.ts).chain, 64 + 8 * (jobOf c k.ts).instrs.length)] else [])
  | 6 => if c.code = 0x12 then (mergeOf b).ranges else (atJobOf k.ts b (c.code == 0x11)).regions
  | 7 =>
    match c.code with
    | 2 => [(fld b 0x20 4, 8)]
    | 3 => [(fld b 0x30 4, 32)]
    | 4 => [(fld b 0x20 4, 32)]
    | _ => []
  | 8 =>
    match c.code with
    | 2 => [(fld b 0x34 4, 32), (fld b 0x30 4, 48 * fld b 0x38 2)]
    | 3 => [(fld b 0x28 4, 32)]
    | _ => []
  | _ => []

/-- A command of the core that entered before the flip started touches the compute chamber of pair `k` (R428). -/
def flipBusy (s : Block) (f : Cmd) (k : Nat) : Bool :=
  let p := (s.core f.core).pair k
  let mine := (allQueues s).filter fun e => e.2.core == f.core && decide (e.2.id < f.pos) && e.2.unit != 5
    && e.2.refuse.isNone && e.2.cancel.isNone
  mine.any fun e => (cmdRanges s e.2).any fun r => overlap r.1 r.2 (p.chamber p.upperCompute) p.half

/-! ### Readiness -/

/-- The checks and weight of a command that need its operands, as it starts: they could not be looked at as it entered when
its dependency was not satisfied or a stream chamber held its list (R427, R1019, assumption 17). None for a command that has
no such checks or has passed them. -/
def fullEntry (s : Block) (c : Cmd) : Option Entry :=
  let b := c.block
  if c.pos ≠ 0 || !c.carried.isEmpty then none
  else
    match c.unit with
    | 1 => if c.code = 5 then none else some (mxEntry (c.code == 2 || c.code == 4) (c.code == 3 || c.code == 4) true s c.core b)
    | 2 => some (cxEntry c.code true s c.core b)
    | 3 => some (mvEntry c.code true s c.core b)
    | 6 => some (atEntry c.code true s c.core b)
    | 7 => some (upEntry c.code true s c.core b)
    | _ => none

/-- The unit may start a command now: it is ON, or STOPPING with the command in it before (R924, R927). -/
def mayStart (s : Block) (q : QueueRef) (c : Cmd) : Bool :=
  match gateOf q with
  | none => true
  | some u => decide ((s.gate u).st = .on) || (decide ((s.gate u).st = .stopping) && !c.hold && !c.heavy)

/-- The vector engine of a core is held for another command: for an `at.` command from its start to its completion, or for a
vector command that an `at.` command finds running (R589). -/
def vxHeld (s : Block) (c : Cmd) : Bool :=
  let busy := fun (l : List Cmd) (u : Nat) => l.any fun x => x.unit == u && (x.phase == .running || x.phase == .stopped)
  (c.unit == 4 && busy (s.core c.core).q.mx 6) || (c.unit == 6 && busy (s.core c.core).q.vx 4)

/-- The unit of a basin queue works on another command. -/
def unitBusy (s : Block) (q : QueueRef) (c : Cmd) : Bool :=
  match q with
  | .mv _ | .up _ => (s.queue q).any fun x => x.id != c.id && (x.phase == .running || x.phase == .stopped)
  | _ => false

/-- What stands between a command and its work; `quiet` that it ends with no other effect. -/
inductive Ready where
  | wait
  | finish (st : Status) (quiet : Bool)
  | weigh (energy power : Nat)
  | go
  deriving DecidableEq, Repr

/-- A light command may start now. -/
def lightGo (s : Block) (q : QueueRef) (c : Cmd) : Ready :=
  if mayStart s q c && !queueStopped s q && !vxHeld s c && !unitBusy s q c then .go else .wait

/-- A light command that has not started, or one that the checks of its operands may make heavy. -/
def readyEntered (s : Block) (q : QueueRef) (c : Cmd) : Ready :=
  if !depMet c then .wait
  else
    match fullEntry s c with
    | some e =>
      match e.refuse with
      | some st => .finish st e.quiet
      | none => if e.heavy then .weigh e.energy e.power else lightGo s q c
    | none => if c.heavy then .weigh c.energy c.power else lightGo s q c

/-- The group that a member belongs to: closed, with every dependency satisfied, it is one command, its first member's
(R224, R229). -/
def readyGroup (s : Block) (q : QueueRef) (c : Cmd) (g : Nat) : Ready :=
  if ((s.core c.core).q.groups.any fun x => x.id == g) || !groupReady s c.core g then .wait
  else if c.heavy then .weigh c.energy c.power
  else lightGo s q c

/-- Where a command stands that is first of its core in its queue. -/
def readiness (s : Block) (q : QueueRef) (c : Cmd) : Ready :=
  match c.refuse, c.cancel with
  | some st, _ => .finish st c.quiet
  | none, some st => .finish st c.quiet
  | none, none =>
    if c.faultVa.isSome then .wait
    else
      match c.phase with
      | .entered =>
        match c.gather with
        | some g => readyGroup s q c g
        | none => readyEntered s q c
      | .running => if c.more = 0 || c.unit = 9 then .go else .wait
      | _ => .wait

/-! ### Ending commands -/

/-- A command looks up pages in its basin's TLB, so that its GRANT_TLB orders it (R89). -/
def usesTlbNumber (c : Cmd) : Bool := c.unit == 3 || c.unit == 7 || (c.unit == 6 && c.code != 0x12) || (c.unit == 8 && c.code == 1 && !isSystem c.core)

/-- Where bytes of a store or a transfer landed in a command's ranges while it ran, each is that byte or what the command
leaves (R420). -/
def settleClash (c : Cmd) (s : Block) : Block :=
  let l := cmdRanges s c
  (c.clash.filter fun x => l.any fun r => decide (r.1 ≤ x.1) && decide (x.1 < r.1 + r.2)).foldl (fun s x =>
    let (n, s) := s.freeBelow 2
    if n = 0 then s else s.modCore c.core fun k => { k with ts := Mem.setByte k.ts x.1 x.2 }) s

/-- What a command's unit does as the command ends. `worked` tells whether the unit did its work. A vector or `at.` command
that was cancelled leaves an empty summary (R216, R401, R402), and a `tw.arm` ended with no other effect keeps its predicate. -/
def endUnit (q : QueueRef) (c : Cmd) (st : Status) (worked : Bool) (s : Block) : Block :=
  let s := if c.unit = 8 && !worked then cancelSum c st s else s
  let s := if c.unit = 9 then retireReqs (.cmd q c.id) st s else s
  let s := if c.unit = 5 && c.code = 1 && c.pk ≠ 0 && !c.quiet then armPredicate c st s else s
  let s := if (c.unit = 4 || c.unit = 6) && !worked && st ≠ .internal && st ≠ .posLimit then
      leaveSummary c.core (noSummary c.unit c.index) s else s
  if !worked then s
  else
    let s := if usesTlbNumber c then tlbDone q [c.grantTlb] s else s
    let s := if c.unit = 7 && c.code = 3 then mixShard c s else s
    let s := settleClash c s
    if isSystem c.core then s
    else (cmdRanges s c).foldl (fun s r => s.modCore c.core fun x => x.markClash 4 r.1 r.2) s

/-- A command ends. A vector command's INTERNAL has no other effect (R364, R400). -/
def endCmd (q : QueueRef) (c : Cmd) (st : Status) (worked : Bool) (s : Block) : Block :=
  let now := ((s.queue q).find? fun x => x.id == c.id).getD c
  let c := { now with quiet := c.quiet || (c.unit == 4 && st == .internal) }
  let s := finishCmd q c st (endUnit q c st worked s)
  match q with
  | .tw core => startFlip core s
  | .tm _ | .sysTm _ => startTms q s
  | _ => s

/-- The position a stopped command shows in its unit's register. -/
def notePos (c : Cmd) (pos : Nat) (s : Block) : Block :=
  match c.unit with
  | 1 => s.modCore c.core fun x => { x with regs := { x.regs with mxPos := BitVec.ofNat 64 (mxPosWord (cmdProducts s c) pos) } }
  | 3 => s.modBasin (basinOf c.core) fun x => { x with mvPos := BitVec.ofNat 64 (mvPosWord (mvParams c.block c.code) pos) }
  | 6 =>
    let j := atJobOf (s.core c.core).ts c.block (c.code == 0x11)
    s.modCore c.core fun x => { x with regs := { x.regs with atPos := BitVec.ofNat 64 (j.posWord pos) } }
  | 7 => s.modBasin (basinOf c.core) fun x => { x with upPos := BitVec.ofNat 64 (upPosWord c pos) }
  | _ => s

/-- A command stops at a position: its running power is released (R912). -/
def stopCmd (q : QueueRef) (c : Cmd) (faultVa : Option Nat) (pos : Nat) (s : Block) : Block :=
  let s := if c.heavy && c.phase = .running then addPower c.passBasin (-(c.power : Int)) s else s
  let s := if c.unit = 8 && faultVa.isSome then
      modRdEngine (engineOfDie (dieOfBasin q.basin)) (fun r => { r with faultWait := true }) s else s
  notePos c pos (s.modCmd q c.id fun x => { x with phase := .stopped, faultVa := faultVa, pos := pos })

/-! ### Doing the work -/

/-- The unit of a command does its work, up to a limit of stop points; a unit without stop points of its own does all of it
or none. -/
def runCmd (q : QueueRef) (c : Cmd) (limit : Option Nat) (s : Block) : Work :=
  let whole := fun (w : Work) => if limit.isSome then .notYet s else w
  match c.unit with
  | 1 => if c.code = 5 then whole (runDrainCmd c s) else runProducts c.core (cmdProducts s c) c.pos limit s
  | 2 => runCx c limit s
  | 3 => runMv c limit s
  | 4 => runVector c limit s
  | 5 =>
    match c.code with
    | 1 => whole (runArm c s)
    | 2 => if c.phase = .running then whole (runFlip c (flipBusy s c) s) else .notYet s
    | _ => whole (runPair c s)
  | 6 => runAttention c limit s
  | 7 => runUpdate c limit s
  | 8 => whole (runReduction c s)
  | 9 => whole (runTm q c s)
  | _ => whole (runCk c s)

/-- What a command's TLB grant number lets it do: none to wait, else whether it repeats a number (R89, R90). -/
def tlbGate (s : Block) (q : QueueRef) (c : Cmd) : Option Bool := if usesTlbNumber c && c.unit != 8 then tlbTurn s q c.grantTlb else some false

/-- A command's unit is to stop and its work has stop points left, at the next of which it stops (R536, R540). -/
def mustStop (s : Block) (q : QueueRef) (c : Cmd) : Bool :=
  queueStopped s q && match runCmd q c (some 1) s with
    | .point _ _ _ => true
    | _ => false

/-- A command ends, or every member of its group does, in submission order: a member whose strict dependency failed with that
status (R227, R229). -/
def endAll (q : QueueRef) (c : Cmd) (st : Status) (worked : Bool) (s : Block) : Block :=
  match c.gather with
  | none => endCmd q c st worked s
  | some g => (groupCmds s c.core g).foldl (fun s x => endCmd q x (x.strict.getD st) (worked && x.strict.isNone) s) s

/-- A command is tried: true when it completed, stopped, or asked for its pass. -/
def tryComplete (q : QueueRef) (c : Cmd) (s : Block) : Bool × Block :=
  if !firstOfCore s q c then (false, s)
  else
    match readiness s q c with
    | .wait => (false, s)
    | .finish st quiet => (true, endAll q { c with quiet := quiet } st false s)
    | .weigh e p =>
      let c := { c with heavy := true, energy := e, power := p }
      (true, requestPass q c (s.modCmd q c.id fun _ => c))
    | .go =>
      match tlbGate s q c with
      | none => (false, s)
      | some true => (true, endAll q { c with quiet := true } .internal false s)
      | some false =>
        if mustStop s q c then (false, s)
        else
          match runCmd q c none s with
          | .done st s => (true, endAll q c st true s)
          | .fault va pos s => (true, stopCmd q c (some va) pos s)
          | .point _ _ s => (false, s)
          | .notYet s => (false, s)

/-- The commands of a queue are tried in order until one of them completes. -/
def completeFirst (q : QueueRef) : List Cmd → Block → Block
  | [], s => s
  | c :: cs, s =>
    match tryComplete q c s with
    | (true, s) => s
    | (false, s) => completeFirst q cs s

/-- COMMAND_COMPLETE: the oldest command of the queue that can complete does (R175, R176, R199). -/
def execCommandComplete (q : QueueRef) (s : State) : Result := onBlock s fun s => within q.ok s fun s => completeFirst q (s.queue q) s

/-- The head of a core's towpath command queue is tried, when it has command code `code`. -/
def tryHead (core code : Nat) (s : Block) : Block :=
  match (s.core core).q.tw with
  | [] => s
  | c :: _ => if c.code = code then (tryComplete (.tw core) c s).2 else s

def execFlipSwap (core : Nat) (s : State) : Result := onBlock s fun s => within (decide (core < 4096)) s (tryHead core 2)
def execPairSet (core : Nat) (s : State) : Result := onBlock s fun s => within (decide (core < 4096)) s (tryHead core 3)

/-! ### Dependencies (R180, R185, R907) -/

/-- The group of a submission whose dependencies are now satisfied asks for its pass. -/
def groupDep (q : QueueRef) (c : Cmd) (g : Nat) (s : Block) : Block :=
  match groupCmds s c.core g with
  | x :: _ => if x.id == c.id && c.heavy && readyGroup s q c g != .wait then requestPass q c s else s
  | [] => s

/-- A waiting command whose dependency is satisfied: refused by the checks of its operands, or asking for its pass. -/
def settleDep (q : QueueRef) (c : Cmd) (s : Block) : Block :=
  if c.refuse.isSome || c.cancel.isSome || c.phase ≠ .entered then s
  else
    match c.gather with
    | some g => groupDep q c g s
    | none =>
      match readyEntered s q c with
      | .finish st quiet => s.modCmd q c.id fun x => { x with cancel := some st, quiet := quiet }
      | .weigh e p =>
        let c := { c with heavy := true, energy := e, power := p }
        requestPass q c (s.modCmd q c.id fun _ => c)
      | _ => s

/-- The groups of reduction sums in a queue go on. -/
def runSums (q : QueueRef) (s : Block) : Block :=
  ((s.queue q).filter fun c => c.unit == 8 && c.code == 1 && c.refuse.isNone).foldl (fun s c => rdRun c.rdGroup s) s

/-- DEP_SATISFIED: every command of the queue whose dependency is satisfied moves on. -/
def depSatisfied (q : QueueRef) (s : Block) : Block :=
  let s := (s.queue q).foldl (fun s c => settleDep q c s) s
  match q with
  | .tw core => startFlip core s
  | .tm _ | .sysTm _ => startTms q s
  | .rd _ | .sysRd _ => runSums q s
  | _ => s

def execDepSatisfied (q : QueueRef) (s : State) : Result := onBlock s fun s => within q.ok s (depSatisfied q)

/-! ### Grant slots (R899, R900, R908–R910) -/

/-- The pool capacity of a share, in 1/32 nJ. -/
def poolCap (s : Block) (die p : Nat) : Nat := s.lock.poolMj.toNat * 1000000 * shareBasins s die p
/-- The energy of a pass of a class, in 1/32 nJ. -/
def passEnergy (cls : Nat) : Nat := 2 ^ (cls - 1) * 32000

/-- The pool of a share pays for a pass: it holds as much, or it is full. -/
def poolPays (s : Block) (die p cls : Nat) : Bool :=
  let low := SMap.get 0 (shareKey die p) s.lock.pools
  low == 0 || decide (low + passEnergy cls ≤ poolCap s die p)

/-- The command a request is for. -/
def reqCmd (s : Block) (r : PassReq) : Option Cmd := (s.queue r.q).find? fun c => c.id == r.id

/-- The grant numbers a request uses in ticket mode: those of its command, or of every member of its group (R229); none
for a schedule entry, a resumption and a further pass. -/
def grantNumbers (s : Block) (r : PassReq) : List Nat :=
  match reqCmd s r with
  | none => []
  | some c =>
    if c.resumePass || c.phase = .running then []
    else
      match c.gather with
      | some g => (groupCmds s c.core g).map Cmd.grantLk
      | none => [c.grantLk]

/-- The lowest of some numbers. -/
def lowest : List Nat → Nat
  | [] => 0
  | n :: l => l.foldl min n

/-- The number that a share grants next, and those above it granted already. -/
def granted (s : Block) (die p : Nat) : List Nat := SMap.get [] (shareKey die p) s.gl.grantLk

/-- Where a request stands in its share's sequence: none while its number is not next, else whether it repeats one. -/
def lkTurn (s : Block) (die : Nat) (r : PassReq) : Option Bool :=
  let ns := grantNumbers s r
  if !s.ticketMode r.part || ns.isEmpty then some false
  else
    grantTurn (granted s die r.part) (lowest ns)

/-- The share's sequence moves on past some numbers. -/
def takeNumbers (die p : Nat) (ns : List Nat) (s : Block) : Block :=
  if ns.isEmpty || !s.ticketMode p then s
  else
    { s with gl := { s.gl with grantLk := SMap.put [] (shareKey die p) (takeGrants ns (granted s die p)) s.gl.grantLk } }

/-- A granted pass reaches its command, or its schedule entry. -/
def passTo (r : PassReq) (s : Block) : Block :=
  match reqCmd s r with
  | none => grantRun r.id s
  | some c =>
    if c.phase = .running then
      let c' := { c with more := c.more - 1 }
      let s := s.modCmd r.q c.id fun _ => c'
      if c.unit = 9 then feedMove r.q c' s else s
    else s.modCmd r.q c.id fun x => { x with phase := .granted }

/-- A request is granted: its energy leaves the pool (R909). -/
def grantPass (b : Nat) (aged : Bool) (r : PassReq) (s : Block) : Block :=
  let die := dieOfBasin b
  let k := shareKey die r.part
  let s := takeNumbers die r.part (grantNumbers s r) s
  let s := s.modBasin b fun x => { x with passes := x.passes.filter (· != r) }
  let l := s.lock
  let s := { s with lock := { l with
      pools := SMap.put 0 k (SMap.get 0 k l.pools + passEnergy r.cls) l.pools
      grants := SMap.put 0 die (SMap.get 0 die l.grants + 1) l.grants
      aged := if aged then SMap.put 0 die (SMap.get 0 die l.aged + 1) l.aged else l.aged } }
  passTo r s

/-- Grant candidates one after another until one of them fails or the slot has given 8 (R909). -/
def grantAll (b : Nat) (aged : Bool) : Nat → List PassReq → Block → Block
  | 0, _, s => s
  | _, [], s => s
  | n + 1, r :: rs, s => if poolPays s (dieOfBasin b) r.part r.cls then grantAll b aged n rs (grantPass b aged r s) else s

/-- The heads of a basin's FIFOs, in ascending class; in ticket mode, of the requests whose turn it is. -/
def passHeads (s : Block) (b : Nat) : List PassReq :=
  let l := (s.basin b).passes.filter fun r => lkTurn s (dieOfBasin b) r == some false
  (List.range 20).filterMap fun i => l.find? fun r => r.cls == i + 1

/-- Requests that repeat a grant number complete with INTERNAL (R90). -/
def dropRepeats (b : Nat) (s : Block) : Block :=
  ((s.basin b).passes.filter fun r => lkTurn s (dieOfBasin b) r == some true).foldl (fun s r =>
    (s.modCmd r.q r.id fun c => { c with cancel := some .internal, phase := .entered, quiet := true }).modBasin b fun x =>
      { x with passes := x.passes.filter (· != r) }) s

/-- LOCK_GRANT_SLOT: the oldest aged head alone, else the heads in ascending class, each at most once (R909, its reading
DEDUCED, assumption 38). At level 3 and above nothing is granted (R913, R914). -/
def grantSlot (b : Nat) (s : Block) : Block :=
  if 3 ≤ s.lock.level then s
  else
    let s := dropRepeats b s
    let heads := passHeads s b
    let old := heads.filter fun r => decide (r.since + 100 * s.lock.ageUs.toNat ≤ s.gl.timebase.toNat)
    match old with
    | [] => grantAll b false 8 heads s
    | r :: rs => grantAll b true 8 [rs.foldl (fun (m x : PassReq) => if x.since < m.since then x else m) r] s

def execLockGrantSlot (basin : Nat) (s : State) : Result := onBlock s fun s => within (decide (basin < 256)) s (grantSlot basin)

/-! ### Starts (R911) -/

/-- A matrix command that has only its up terms left to add. -/
def upLeft (s : Block) (x : Cmd) : Bool :=
  x.unit == 1 && x.code != 5 && x.phase == .running && x.pos == mxPoints (cmdProducts s x) && (cmdProducts s x).any (·.carry)

/-- The commands of its core before `c` in a matrix queue have only their up terms left to add, so that the array starts `c`
beside them (R271). -/
def behindUp (s : Block) (q : QueueRef) (c : Cmd) : Bool :=
  match q with
  | .mx _ => ((s.queue q).takeWhile fun x => x.id != c.id).all (upLeft s)
  | _ => false

/-- A command's turn to start in its queue (R175). -/
def startTurn (s : Block) (q : QueueRef) (c : Cmd) : Bool := firstOfCore s q c || (c.gather.isNone && behindUp s q c)

/-- A granted command of a queue that may start. -/
def startable (s : Block) (q : QueueRef) (c : Cmd) : Bool :=
  c.phase == .granted && c.cancel.isNone && startTurn s q c && !queueStopped s q && !unitBusy s q c && !vxHeld s c
    && gateOpen s c.passBasin c.power
    && (match gateOf q with
        | none => true
        | some u => decide ((s.gate u).st = .on))

/-- The queues whose light commands start before they complete: those of the engines and of the basin units; towpath commands
and tier moves have starts of their own. -/
def startsLight : QueueRef → Bool
  | .tw _ | .tm _ | .sysTm _ => false
  | _ => true

/-- A light command of a queue that may start. -/
def startableLight (s : Block) (q : QueueRef) (c : Cmd) : Bool :=
  startsLight q && c.phase == .entered && startTurn s q c && readiness s q c == .go

/-- A command starts: the power of a heavy one counts as running. -/
def startCmd (q : QueueRef) (c : Cmd) (s : Block) : Block :=
  let s := s.modCmd q c.id fun x => { x with phase := .running }
  let s := if c.heavy then addPower c.passBasin c.power s else s
  let s := if c.unit = 1 then
      s.modCore c.core fun x => { x with regs := { x.regs with mxOrient := c.code == 2 || c.code == 4 } } else s
  if c.unit = 9 then startTms q s else s

/-- A granted schedule entry charged to a basin starts. -/
def startRuns (b : Nat) (s : Block) : Block :=
  match grantedRuns s b with
  | [] => s
  | r :: _ => startRun r.1 r.2 s

/-- PASS_START: the oldest command of the queue that may start does: one with a granted pass that the gate of R911 lets start,
or a light one. -/
def passStart (q : QueueRef) (s : Block) : Block :=
  match (s.queue q).find? fun c => startable s q c || startableLight s q c with
  | some c => startCmd q c s
  | none =>
    match q with
    | .tm b => startRuns b s
    | _ => s

def execPassStart (q : QueueRef) (s : State) : Result := onBlock s fun s => within q.ok s (passStart q)

/-! ### Stop points (R278, R404, R536–R540, R599, R728, R906, R912) -/

/-- The tier engines stop between pages at level 3: a schedule entry's power is released, and it asks for a new pass. -/
def stopRuns (b : Nat) (s : Block) : Block :=
  let l := s.contexts.flatMap fun c => (c.2.runs.filter fun r => r.running && r.basin == b).map fun r => (c.1, r)
  l.foldl (fun s x =>
    let r := x.2
    let pages := match (s.context x.1).bind fun c => c.sched[r.index]? with
      | some e => e.pages - r.fed + 1
      | none => 1
    addRequest { q := .tm b, id := r.id, cls := derivedClass (scaledEnergy s (dieOfBasin b) (600000 * pages)),
                 part := partOfShare s b, since := s.gl.timebase.toNat } b
      (addPower b (-4000) (modRun x.1 r.id (fun r => { r with running := false, waits := true }) s))) s

/-- A command has done more work since its last pass than one pass covers, and has further passes to take (R906). -/
def passDue (s : Block) (c : Cmd) (pos : Nat) : Bool :=
  let die := dieOfBasin c.passBasin
  let all := scaledEnergy s die c.energy
  c.more != 0 && c.unit != 9
    && decide ((ceilDiv all 524288000000 - c.more) * 524288000000 < all - scaledEnergy s die (workLeft s { c with pos := pos }))

/-- A command waits at its stop point for a further pass. -/
def passAsked (s : Block) (c : Cmd) : Bool := (s.basin c.passBasin).passes.any fun r => r.id == c.id

/-- A command asks for a further pass at a stop point, when one is due. -/
def askPass (q : QueueRef) (c : Cmd) (pos : Nat) (s : Block) : Block :=
  if passDue s c pos && !passAsked s c then
    addRequest { q := q, id := c.id, cls := 20, part := partOfShare s c.passBasin, since := s.gl.timebase.toNat } c.passBasin s
  else s

/-- A running command reaches a stop point with what its unit holds there: it stops when its unit is to stop, else goes on,
asking there for a further pass when it has used up the last (R906). -/
def reachPoint (q : QueueRef) (c : Cmd) (pos : Nat) (carried : List Nat) (s : Block) : Block :=
  let s := s.holdCmd q c.id carried
  if queueStopped s q then stopCmd q c none pos s
  else askPass q c pos (s.modCmd q c.id fun x => { x with pos := pos })

/-- A running command goes on to its next stop point, when it has one and does not wait. -/
def nextPoint (q : QueueRef) (c : Cmd) (s : Block) : Option Block :=
  if passAsked s c || c.unit = 9 || tlbGate s q c != some false then none
  else
    match runCmd q c (some 1) s with
    | .point pos carried s => some (reachPoint q c pos carried s)
    | .fault va pos s => some (stopCmd q c (some va) pos s)
    | _ => if passDue s c c.pos then some (askPass q c c.pos s) else none

/-- ENGINE_STOP_POINT of a unit or a towpath queue: the first running command that has a stop point left reaches it; the tier
engines stop between pages at level 3 (R481). -/
def engineStopPoint (u : StopRef) (s : Block) : Block :=
  match u with
  | .towpath core q => twStopPoint core q.toNat s
  | .unit q =>
    let s := match q with
      | .tm b => if queueStopped s q then stopRuns b s else s
      | _ => s
    let l := (s.queue q).filter fun c => c.phase == .running && c.cancel.isNone
    match l.findSome? fun c => nextPoint q c s, l.find? fun c => c.unit == 9 && c.heavy with
    | some s, _ => s
    | none, some c => if queueStopped s q then stopCmd q c none c.pos s else s
    | none, none => s

def StopRef.ok : StopRef → Bool
  | .unit q => q.ok
  | .towpath core _ => decide (core < 4096)

def execEngineStopPoint (u : StopRef) (s : State) : Result := onBlock s fun s => within (StopRef.ok u) s (engineStopPoint u)

/-- The stopped commands of a queue resume, unless they wait for a page (R538, R539). -/
def resumeAll (q : QueueRef) (s : Block) : Block :=
  (s.queue q).foldl (fun s c => if c.phase = .stopped && c.faultVa.isNone then resumeCmd q c s else s) s

/-- A core's engines go on, when nothing stops them any more (R538). -/
def resumeCore (core : Nat) (s : Block) : Block :=
  if coreStopped s core then s
  else startFlip core (twRestart core (resumeAll (.vx core) (resumeAll (.cx core) (resumeAll (.mx core) s))))

/-- A basin's MVU and update unit go on. -/
def resumeBasin (b : Nat) (s : Block) : Block :=
  if basinStopped s b then s else resumeAll (.up b) (resumeAll (.mv b) s)

/-- A write of `BS_CORE_CTRL_s` (R536–R538). -/
def execBsCoreCtrl (basin slot : Nat) (value : U64) (s : State) : Result := onBlock s fun s =>
  within (decide (basin < 256) && decide (slot < 16)) s fun s =>
    let core := basin * 16 + slot
    resumeCore core (s.modCore core fun x => { x with regs := { x.regs with stopReq := value.getLsbD 0 } })

/-- A write of `BS_BASIN_CTRL` (R540). -/
def execBsBasinCtrl (basin : Nat) (value : U64) (s : State) : Result := onBlock s fun s =>
  within (decide (basin < 256)) s fun s =>
    resumeBasin basin (s.modBasin basin fun x => { x with stopReq := value.getLsbD 0 })

/-- No engine of the core runs a command (`BS_CORE_CTRL_s`.STOPPED). -/
def coreAtRest (s : Block) (core : Nat) : Bool :=
  coreStopped s core
    && ((s.core core).q.mx ++ (s.core core).q.cx ++ (s.core core).q.vx).all (fun c => c.phase != .running)
    && [0, 1, 2, 3].all fun q => twStopped s core q

/-- Neither basin unit runs a command (`BS_BASIN_CTRL`.STOPPED). -/
def basinAtRest (s : Block) (b : Nat) : Bool :=
  basinStopped s b && ((s.basin b).mv ++ (s.basin b).up).all fun c => c.phase != .running

/-! ### Fences (R200–R206, R222) -/

/-- `sy.fence` (R200): the thread's stores are visible to all, and with the scope `.st` that is all; else the thread waits for
its own queued commands, whose open groups close. Its atomics have answered. -/
def fence (th : Nat) (scope : FenceScope) (s : Block) : Block :=
  let s := landOwn th s
  let mine := ((allQueues s).filter fun e => e.2.thread == th).map (·.2)
  if scope = .st || mine.isEmpty then s.modThread th (·.next 4)
  else
    let s := (mine.filterMap (·.gather)).foldl (fun s g => closeGroup (th / 16) g s) s
    s.modThread th fun t => { t with st := .parked, reason := .sywait, parkArg := 0, wait := .fence (mine.map (·.id)) }

def execSyFence (th : Nat) (scope : FenceScope) (s : State) : Result := onBlock s fun s => issue th false s (fence th scope)

end Sys2Proof.Machine
end

