-- ==== Sys2Proof/Machine/Contexts.lean ====
section
/-! DEFINITION. Partitions, bindings, reduction-group set-up and contexts as the host's operations make and end them
(R43–R53, R165–R172, R308, R392, R488, R624, R837, R845–R848). -/

namespace Sys2Proof.Machine

/-! ### Partitions and bindings (R43–R45, R837, R845, R900) -/

/-- Basins that belong to no partition and are not retired, in ascending number. -/
def freeBasins (s : Block) : List Nat := (List.range 256).filter fun b => (s.partOfBasin b).isNone && !(s.basin b).retired

/-- The value of `TE_PART_CTRL_p`. -/
def teCtrlOf (s : Block) (p : Nat) : Nat := SMap.get 0x102 p s.teCtrl

/-- Bit `p` of a 64-bit map. -/
def setBit64 (m : U64) (p : Nat) (v : Bool) : U64 := if v then m ||| (1#64 <<< p) else m &&& ~~~(1#64 <<< p)

/-- PART_CREATE: free basins and a free number, firmware's choice (assumption 36); the shares' pools start full (R900). -/
def partCreate (t : Taken) (s : Block) : Block :=
  let n := bitsOf (t.arg 0) 0 9
  let ok := fun (p : Nat) => decide (p < 64) && (SMap.find p s.parts).isNone
  match s.choice ok ((List.range 64).find? ok) with
  | none => fail t .busy s
  | some p =>
    if n = 0 || 256 < n then fail t .internal s
    else if (freeBasins s).length < n then fail t .busy s
    else
      let c := teCtrlOf s p
      let x : Partition := { basins := (s.spent 1).chooseMany n (freeBasins s), t1Quota := bitsOf (t.arg 1) 0 16, t2Quota := bitsOf (t.arg 1) 16 16,
                             lookahead := BitVec.ofNat 8 c, lookaheadAct := BitVec.ofNat 8 c, schedEn := bitOf c 8 }
      let s := { s with parts := SMap.set p x s.parts
                        lock := { s.lock with pools := s.lock.pools.filter fun e => e.1 % 64 != p }
                        gl := { s.gl with ticketReq := setBit64 s.gl.ticketReq p (bitOf (t.arg 0) 9) }
                        freeCtr := s.freeCtr + 1 + n }
      complete t.poster .ok p s

def execPartCreate (p : Poster) (s : State) : Result := onBlock s fun s => within (posterOk p) s (runOp p 0x38 partCreate)

def partDestroy (t : Taken) (s : Block) : Block :=
  let p := t.arg 0 % 64
  if (SMap.find p s.parts).isNone then fail t .internal s
  else if (s.host.fns.any fun f => f.2.bound == some p) || s.contexts.any (fun c => c.2.part == p) then fail t .busy s
  else complete t.poster .ok 0 { s with parts := SMap.del p s.parts }

def execPartDestroy (p : Poster) (s : State) : Result := onBlock s fun s => within (posterOk p) s (runOp p 0x39 partDestroy)

def fnBind (t : Taken) (s : Block) : Block :=
  let f := t.arg 0 % 64
  let p := bitsOf (t.arg 0) 8 6
  if s.contexts.any fun c => c.2.fn == f then fail t .busy s
  else
    match SMap.find p s.parts with
    | none => fail t .internal s
    | some x =>
      if f ≠ 0 && 240 < x.basins.length then fail t .internal s
      else complete t.poster .ok 0 (s.modFunc f fun y => { y with bound := some p })

def execFnBind (p : Poster) (s : State) : Result := onBlock s fun s => within (posterOk p) s (runOp p 0x3A fnBind)

/-- SLOT_RESERVE (R846): a FREE slot, firmware's choice. -/
def slotReserve (t : Taken) (s : Block) : Block :=
  if !s.attest.identityOk then fail t .internal s
  else
    match freeSlot s with
    | none => fail t .busy s
    | some k =>
      let party := BitVec.ofNat 128 (t.arg 0 + t.arg 1 * 2 ^ 64)
      let s := s.setSlot k { KeySlot.init with st := .reserved, party := party, holder := some (posterFn s t.poster) }
      let s := s.spent 1
      if bitOf (t.arg 2) 0 then
        let (key, s) := drawSecret s
        complete t.poster .ok k (installSecret k key s)
      else complete t.poster .ok k s

def execSlotReserve (p : Poster) (s : State) : Result := onBlock s fun s => within (posterOk p) s (runOp p 0x30 slotReserve)

/-- GRP_SET: a group's members, rank and rings change only with a higher epoch (R742). The member list is read as one
2-byte device identifier per rank (assumption 46). -/
def grpSet (t : Taken) (s : Block) : Block :=
  let a := t.arg 0
  let g := bitsOf a 0 4
  let rank := bitsOf a 4 12
  let members := bitsOf a 16 13
  let rings := bitsOf a 29 3
  let f := posterFn s t.poster
  let part := ((s.func f).bound).getD (s.group g).part
  let epoch := t.arg 1 % 2 ^ 32
  if f ≠ 0 && (s.group g).en && (s.group g).part ≠ part then fail t .permFault s
  else if members = 0 || 4096 < members || members ≤ rank || rings = 0 || 6 < rings || epoch ≤ (s.group g).epoch.toNat then
    fail t .internal s
  else
    match hostRead f (t.arg 2) (2 * members) s with
    | (.error st, s) => fail t st s
    | (.ok bs, s) =>
      let ids := (List.range members).map fun i => fld bs (2 * i) 2
      if ids.any (fun m => 4096 ≤ m) || ids[rank]? ≠ some s.kreash.moduleId.toNat || ids.eraseDups.length ≠ members then fail t .internal s
      else
        let s := s.modGroup g fun x => { x with en := true, rank := rank, members := members, rings := rings, part := part, devices := ids }
        complete t.poster .ok 0 (newEpoch g (BitVec.ofNat 32 epoch) s)

def execGrpSet (p : Poster) (s : State) : Result := onBlock s fun s => within (posterOk p) s (runOp p 0x3B grpSet)

/-! ### Creating a context (R47–R50, R308, R309, R624, R792) -/

/-- Cores of a partition that no context has and that can be scrubbed, in ascending number. -/
def freeCores (s : Block) (p : Partition) : List Nat :=
  (p.basins.flatMap fun b => (List.range 16).map fun k => b * 16 + k).filter fun c =>
    (s.core c).ctx.isNone && (s.core c).allFree && coreIdle s c && !(s.basin (basinOf c)).retired

/-- A free context number; 0 is firmware's and 0xFFFF none. -/
def freeContext (s : Block) : Option Nat :=
  let ok := fun (c : Nat) => (s.context c).isNone && decide (c ≠ 0) && decide (c < 0xFFFF)
  s.choice ok (((List.range (s.contexts.length + 1)).map (· + 1)).find? ok)

/-- Another party has a single-party context in the partition (R792). -/
def foreignParty (s : Block) (p : Nat) (party : U128) : Bool :=
  s.contexts.any fun c => c.2.part == p && !c.2.mixing && c.2.party != party

/-- Scrub and bind cores to a context. -/
def bindCores (ctx : Nat) : List Nat → Block → Block
  | [], s => s
  | c :: rest, s => bindCores ctx rest (((bindCore c ctx (s.modCore c Core.scrub))).getD s)

def ctxCreate (t : Taken) (s : Block) : Block :=
  let a := t.arg 0
  let slot := bitsOf a 0 12
  let mixing := bitOf a 12
  let n := bitsOf a 16 13
  let f := posterFn s t.poster
  let part := if f = 0 then t.arg 5 % 64 else ((s.func f).bound).getD 64
  let party := BitVec.ofNat 128 (t.arg 2 + t.arg 3 * 2 ^ 64)
  match SMap.find part s.parts with
  | none => fail t .internal s
  | some p =>
    if (s.slot slot).st ≠ .active || (s.slot slot).party ≠ party then fail t .permFault s
    else if n = 0 || 4096 < n then fail t .internal s
    else if !mixing && foreignParty s part party then fail t .permFault s
    else
      match freeContext s with
      | none => fail t .busy s
      | some ctx =>
        if (freeCores s p).length < n then fail t .busy s
        else
          let cores := (s.spent 1).chooseMany n (freeCores s p)
          let (root, s') := newRoot (s.spent (1 + n))
          let x : Context :=
            { mixing := mixing, part := part, fn := f, party := party, slots := [slot], baseRead := [], ptRoot := root, direct := false,
              seed := BitVec.ofNat 64 (t.arg 1), cores := cores, nextImage := 0x1000_0000, sched := [], runs := [], layer := 0,
              cursor := 0, round := 0, tickOffset := 0, svcIgnored := [] }
          let s' := { s' with contexts := SMap.set ctx x s'.contexts }
          let pages := (pageRun 0xC400_0000_0000 129).map fun va => (va, ([] : List Byte))
          match createPages ctx true true false true slot pages s' with
          | none => fail t .busy s
          | some s => complete t.poster .ok ctx (bindCores ctx cores s)

def execCtxCreate (p : Poster) (s : State) : Result := onBlock s fun s => within (posterOk p) s (runOp p 0x40 ctxCreate)

def ctxAddslot (t : Taken) (s : Block) : Block :=
  let k := t.arg 1 % 4096
  match s.context (t.arg 0) with
  | none => fail t .internal s
  | some c =>
    if !c.mixing || (s.slot k).st ≠ .active then fail t .permFault s
    else
      complete t.poster .ok 0 (s.modContext (t.arg 0) fun c => { c with slots := if c.slots.contains k then c.slots else c.slots ++ [k] })

def execCtxAddslot (p : Poster) (s : State) : Result := onBlock s fun s => within (posterOk p) s (runOp p 0x42 ctxAddslot)

/-! ### Loading a code object (R165–R172, R392, R484, R488, R847) -/

/-- A section-table entry. -/
structure Section where
  type : Nat
  align : Nat
  table : Nat
  size : Nat
  off : Nat
  fileSize : Nat
  va : Nat
  deriving DecidableEq, Repr

/-- An entry-table entry. -/
structure EntryPoint where
  va : Nat
  first : Nat
  count : Nat
  mask : Nat
  deriving DecidableEq, Repr

/-- The sections of an object; none where an entry's reserved field or type is refused. -/
def sectionOf (o : List Byte) (i : Nat) : Option Section :=
  let e := (o.drop (fld o 0x20 8 + 32 * i)).take 32
  let x : Section := { type := fld e 0 1, align := fld e 2 1, table := fld e 3 1, size := fld e 4 4, off := fld e 8 8,
                       fileSize := fld e 0x10 8, va := fld e 0x18 8 }
  if e.length = 32 && allZero e 1 1 && (1 ≤ x.type && x.type ≤ 8) && (x.type = 5 || x.table = 0) && x.table < 16
      && (2 ≤ x.align && x.align ≤ 21) && x.fileSize ≤ x.size && x.off + x.fileSize ≤ o.length
      && (x.type ≠ 4 || x.fileSize = 0) then some x else none

def entryPoint (o : List Byte) (i : Nat) : Option EntryPoint :=
  let e := (o.drop (fld o 0x28 8 + 16 * i)).take 16
  if e.length = 16 && allZero e 0xA 6 then some { va := fld e 0 4, first := fld e 4 2, count := fld e 6 2, mask := fld e 8 2 } else none

/-- A section of the image: TEXT, RODATA, DATA or ZERO. -/
def Section.inImage (x : Section) : Bool := x.type ≤ 4

/-- A section's contents, the rest of its size zero. -/
def Section.bytes (o : List Byte) (x : Section) : List Byte :=
  let b := (o.drop x.off).take x.fileSize
  b ++ zeros (x.size - b.length)

/-- The parts of an object that passes R169. -/
structure CodeObject where
  sections : List Section
  entries : List EntryPoint
  imageSize : Nat
  deriving DecidableEq, Repr

/-- The threads an entry starts: core index and thread. -/
def EntryPoint.threads (e : EntryPoint) : List (Nat × Nat) :=
  (List.range e.count).flatMap fun i => ((List.range 16).filter (bitOf e.mask)).map fun t => (e.first + i, t)

/-- Permissions of a section's pages: R, W, X. -/
def Section.perms (x : Section) : Bool × Bool × Bool := (true, x.type == 3 || x.type == 4, x.type == 1)

/-- An object read whole, checked under R169 for a context of `cores` cores. -/
def codeObject (o : List Byte) (mixing : Bool) (cores : Nat) : Option CodeObject :=
  let ns := fld o 8 2
  let ne := fld o 0xA 2
  let size := fld o 0x18 8
  let ss := (List.range ns).map (sectionOf o)
  let es := (List.range ne).map (entryPoint o)
  let xs := ss.filterMap id
  let ys := es.filterMap id
  let img := xs.filter Section.inImage
  let textOf := fun (e : EntryPoint) => xs.any fun x => x.type == 1 && decide (x.va ≤ e.va) && decide (e.va < x.va + x.size)
  let clash := fun (x y : Section) => overlap x.va x.size y.va y.size
  if o.take 4 = [0x4E#8, 0x56#8, 0x43#8, 0x4F#8] && fld o 4 2 = 1 && fld o 6 2 = b2n mixing && allZero o 0x30 16
      && (1 ≤ ns && ns ≤ 64) && (1 ≤ ne && ne ≤ 4096) && fld o 0xC 4 = cores && size % 65536 = 0
      && ss.all (·.isSome) && es.all (·.isSome)
      && img.all (fun x => x.va + x.size ≤ size && x.va % 2 ^ x.align = 0) && noneClash clash img
      && ((xs.filter fun x => x.type == 5).map (·.size)).sum ≤ 16384
      && xs.all (fun x => x.type ≠ 6 || x.size ≤ 0x80000)
      && ys.all (fun e => textOf e && e.va % 4 = 0 && 1 ≤ e.count && e.first + e.count ≤ cores)
      && noneClash (fun (a b : Nat × Nat) => a == b) (ys.flatMap EntryPoint.threads)
  then some { sections := xs, entries := ys, imageSize := size } else none

/-- The pages of an image with their permissions and contents; none where a page would be both writable and executable
(R170). -/
def imagePages (o : List Byte) (x : CodeObject) : List (Option (Nat × (Bool × Bool × Bool) × List Byte)) :=
  let img := x.sections.filter Section.inImage
  (List.range (x.imageSize / 65536)).filterMap fun i =>
    let lo := 65536 * i
    let mine := img.filter fun y => overlap y.va y.size lo 65536
    if mine.isEmpty then none
    else
      let w := mine.any (·.perms.2.1)
      let ex := mine.any (·.perms.2.2)
      let mem := mine.foldl (fun (m : Mem) y =>
        let from_ := max lo y.va
        let n := min (y.va + y.size) (lo + 65536) - from_
        Mem.write m (from_ - lo) (((y.bytes o).drop (from_ - y.va)).take n)) []
      some (if w && ex then none else some (lo, (true, w, ex), Mem.read mem 0 65536))

/-- Create the pages of an image at a base. -/
def createImagePages (ctx slot base : Nat) : List (Option (Nat × (Bool × Bool × Bool) × List Byte)) → Block → Except Status Block
  | [], s => .ok s
  | none :: _, _ => .error .internal
  | some (off, (r, w, x), bs) :: rest, s =>
    match createPage ctx (base + off) r w x false slot 0 bs s with
    | none => .error .busy
    | some s => createImagePages ctx slot base rest s

/-- A tier schedule (R487), its addresses made absolute; none where R488 refuses it. -/
def parseSchedule (s : Block) (ctx part base : Nat) (bs : List Byte) : Option (List SchedEntry) :=
  let n := fld bs 0 4
  let es := (List.range n).map fun i =>
    let e := (bs.drop (16 + 32 * i)).take 32
    let va := fld e 8 8
    let x : SchedEntry := { layer := fld e 0 4, dest := fld e 4 1, flags := fld e 5 1, cfmt := fld e 6 1, charge := fld e 7 1,
                            va := va % 2 ^ 48 + (if bitOf va 63 then base else 0), pages := fld e 0x10 4 }
    if e.length = 32 && allZero e 0x14 12 && bitsOf va 48 15 = 0 && x.flags < 4 && moveFieldsOk x.va x.pages x.dest x.cfmt
        && (chargedBasin s none (some part) (bitOf x.flags 1) x.charge).isSome && !cutsBig s ctx x.va x.pages then some x else none
  let xs := es.filterMap id
  let rising := noneClash (fun (a b : SchedEntry) => decide (b.layer < a.layer)) xs
  if 1 ≤ n && n ≤ 1048576 && allZero bs 4 12 && es.all (·.isSome) && rising then some xs else none

/-- The schedule of an object: `some none` where it has none; none where R488 refuses one. -/
def objectSchedule (s : Block) (ctx part base : Nat) (o : List Byte) (x : CodeObject) : Option (Option (List SchedEntry)) :=
  match x.sections.find? fun y => y.type == 7 with
  | none => some none
  | some y => (parseSchedule s ctx part base (y.bytes o)).map some

/-- Table sections in ascending TABLE_ID (R392): entries from entry 0 on. -/
def placeTables (o : List Byte) : List Section → Nat → VectorStore → VectorStore
  | [], _, v => v
  | x :: rest, at_, v =>
    let n := x.size / 4
    placeTables o rest (at_ + n)
      { v with tableMem := Mem.write v.tableMem (4 * at_) ((x.bytes o).take (4 * n))
               tables := SMap.set x.table { base := at_, entries := n, a := 0x3F800000, b := 0 } v.tables }

/-- Sections of TABLE type by TABLE_ID. -/
def tableSections (x : CodeObject) : List Section :=
  (List.range 16).flatMap fun i => x.sections.filter fun y => y.type == 5 && y.table == i

/-- What an object puts into every core of its context. -/
def initCore (o : List Byte) (x : CodeObject) (c : Core) : Core :=
  let c := { c with vec := placeTables o (tableSections x) 0 c.vec }
  match x.sections.find? fun y => y.type == 6 with
  | some y => c.tsWrite 0 (y.bytes o)
  | none => c

/-- The threads of an object start (R172). -/
def startThreads (base arg : Nat) (cores : List Nat) (x : CodeObject) (s : Block) : Block :=
  x.entries.foldl (fun s e => e.threads.foldl (fun s (p : Nat × Nat) =>
    match cores[p.1]? with
    | none => s
    | some c =>
      let t := (((Thread.init).setG 1 (BitVec.ofNat 64 base)).setG 2 (BitVec.ofNat 64 p.1)).setG 3 (BitVec.ofNat 64 arg)
      s.setThread (c * 16 + p.2) { t with pc := BitVec.ofNat 48 (base + e.va), st := .ready }) s) s

/-- Measurement index 6 takes in a mixing object (R823). -/
def extendMeas6 (o : List Byte) (s : Block) : Block :=
  let m := if s.attest.meas6.isEmpty then zeros 48 else s.attest.meas6
  { s with attest := { s.attest with meas6 := sha384 (m ++ sha384 o) } }

/-- Every thread an object starts is FREE. -/
def threadsFree (s : Block) (cores : List Nat) (x : CodeObject) : Bool :=
  x.entries.all fun e => e.threads.all fun p => match cores[p.1]? with
    | some c => decide ((s.thread (c * 16 + p.2)).st = .free)
    | none => false

/-- The base of an image: a free choice of firmware among the bases aligned to 2 MiB whose image and argument page meet no
page of the context; for want of another, above every earlier image (assumption 36). -/
def imageBase (s : Block) (ctx : Nat) (c : Context) (size : Nat) : Nat :=
  let ok := fun (a : Nat) => decide (a ≠ 0) && decide (a % 0x20_0000 = 0) && decide (a + size + 65536 ≤ 2 ^ 46)
    && (ownLeaves s ctx).all fun p => !overlap a (size + 65536) p.1 (pageSize p.2.big)
  (s.choice ok (some c.nextImage)).getD c.nextImage

/-- An object may run in a context of a class: in a mixing context only one whose measurement is the attested one (R49,
R171; assumption 85). -/
def mayRun (mixing : Bool) (o : List Byte) : Bool := !mixing || Config.attested (sha384 o)

/-- CTX_LOAD once its object and argument block are read. -/
def loadObject (t : Taken) (ctx : Nat) (c : Context) (o args : List Byte) (s : Block) : Block :=
  match (if mayRun c.mixing o then codeObject o c.mixing c.cores.length else none) with
  | none => fail t .internal s
  | some x =>
    let base := imageBase s ctx c x.imageSize
    match objectSchedule s ctx c.part base o x with
    | none => fail t .internal s
    | some sched =>
      if !threadsFree s c.cores x then fail t .busy s
      else
        let slot := c.slots.headD 0
        match createImagePages ctx slot base (imagePages o x) (s.spent 1) with
        | .error st => fail t st s
        | .ok s' =>
          let argVa := if args.isEmpty then 0 else base + x.imageSize
          let s'' := if args.isEmpty then some s' else createPage ctx argVa true false false false slot 0 args s'
          match s'' with
          | none => fail t .busy s
          | some s =>
            let next := ceilDiv (base + x.imageSize + 65536) 0x20_0000 * 0x20_0000
            let s := s.modContext ctx fun c =>
              { c with nextImage := max c.nextImage next, sched := sched.getD c.sched, cursor := if sched.isSome then 0 else c.cursor
                       layer := if sched.isSome then 0 else c.layer, round := if sched.isSome then c.round + 1 else c.round }
            let s := if c.mixing then extendMeas6 o s else s
            let s := c.cores.foldl (fun s k => s.modCore k (initCore o x)) s
            complete t.poster .ok base (startThreads base argVa c.cores x s)

def ctxLoad (t : Taken) (s : Block) : Block :=
  let ctx := t.arg 0 % 65536
  let f := posterFn s t.poster
  let n := bitsOf (t.arg 3) 0 17
  match s.context ctx with
  | none => fail t .internal s
  | some c =>
    if 65536 < n then fail t .internal s
    else
      match hostRead f (t.arg 1) 64 s with
      | (.error st, s) => fail t st s
      | (.ok h, s) =>
        if fld h 0x10 8 < 64 || 2 ^ 40 < fld h 0x10 8 then fail t .internal s
        else
          match hostRead f (t.arg 1) (fld h 0x10 8) s with
          | (.error st, s) => fail t st s
          | (.ok o, s) =>
            match (if n = 0 then (.ok [], s) else hostRead f (t.arg 2) n s) with
            | (.error st, s) => fail t st s
            | (.ok args, s) => loadObject t ctx c o args s

def execCtxLoad (p : Poster) (s : State) : Result := onBlock s fun s => within (posterOk p) s (runOp p 0x41 ctxLoad)

/-! ### Ending a context (R848) -/

/-- A command is ended without its work. -/
def abortCmd (st : Status) (s : Block) (e : QueueRef × Cmd) : Block := endNow e.1 e.2.id st (cancelSum e.2 st s)

/-- Every queued and running command of some cores ends with a status. -/
def abortCmds (cores : List Nat) (st : Status) (s : Block) : Block :=
  ((allQueues s).filter fun e => cores.contains e.2.core).foldl (abortCmd st) s

/-- Every thread of a core becomes FREE. -/
def freeThreads (c : Core) : Core :=
  let free := fun (t : Thread) =>
    { t with st := .free, reason := .none, wait := .none, stopAsked := false, weirSaved := none, pagerDue := false }
  let keep := fun (e : Nat × Thread) => if free e.2 = Thread.init then none else some (e.1, free e.2)
  { c with threads := c.threads.filterMap keep }

/-- An access of a thread that will take its data no more has landed, and the stores of the cores' threads are in memory
(R131). -/
def landThreads (cores : List Nat) (s : Block) : Block :=
  let s := landWhere (fun x => cores.contains (x.th / 16)) s
  cores.foldl (fun s c => (s.core c).threads.foldl (fun s e =>
    match e.2.wait with
    | .load _ _ _ _ _ prev slot | .amo _ _ _ _ _ _ _ prev slot _ => if e.2.st = .waiting then landed slot prev s else s
    | _ => s) s) s

/-- The schedule runs and tier requests of a context end. -/
def abortRuns (ctx : Nat) (st : Status) (s : Block) : Block :=
  match s.context ctx with
  | none => s
  | some c =>
    let ids := c.runs.map (·.id)
    let s := (c.runs.filter fun r => r.done.isNone).foldl (fun s r => endRun ctx r st s) s
    { s with basins := s.basins.map fun b => (b.1, { b.2 with passes := b.2.passes.filter fun p => !ids.contains p.id }) }

/-- Every program of a towpath queue ends with a status, and its transfers are gone. -/
def TwQueue.abort (x : TwQueue) (st : Status) : TwQueue :=
  let n := b2n x.active.isSome + b2n x.pending.isSome + x.ended.length
  { TwQueue.init with serials := x.serials, nextId := x.nextId, completed := (x.completed + n) % 2 ^ 32
                      lastStatus := if n = 0 then x.lastStatus else st }

/-- A context's threads are FREE; its commands, programs and requests of the tiers are gone. -/
def quiesce (ctx : Nat) (st : Status) (s : Block) : Block :=
  match s.context ctx with
  | none => s
  | some c =>
    let s := landThreads c.cores s
    let s := c.cores.foldl (fun s k => s.modCore k freeThreads) s
    let s := abortRuns ctx st (abortCmds c.cores st s)
    c.cores.foldl (fun s k => s.modCore k fun x => { x with tw := x.tw.map fun e => (e.1, e.2.abort st) }) s

/-- A context's cores are scrubbed, which unbinds them. -/
def scrubCores (ctx : Nat) (s : Block) : Block :=
  match s.context ctx with
  | none => s
  | some c => c.cores.foldl (fun s k => s.modCore k Core.scrub) s

/-- Requests of a context end. -/
def endRequests (ctx : Nat) (st : Status) (s : Block) : Block :=
  (s.adapters.reqs.filter fun r => r.ctx == ctx).foldl (fun s r =>
    if r.st = 1 then endWaiting r st s else endRequest r st s) s

/-- The context is no more: its pages are released, its service entries are dropped. -/
def removeContext (ctx : Nat) (s : Block) : Block :=
  let s := (ownLeaves s ctx).foldl (fun s p => unmapPage ctx p.1 s) s
  let s := tlbInvalidate ctx none s
  forgetTaken (fun t => sameQueue t.poster (.service ctx 0)) { s with contexts := SMap.del ctx s.contexts }

/-- CTX_END's effect. -/
def endContext (ctx : Nat) (s : Block) : Block :=
  settleService (removeContext ctx (scrubCores ctx (endRequests ctx .ok (quiesce ctx .keyRevoked s))))

def ctxEnd (t : Taken) (s : Block) : Block :=
  if (s.context (t.arg 0)).isNone then fail t .internal s else complete t.poster .ok 0 (endContext (t.arg 0) s)

def execCtxEnd (p : Poster) (s : State) : Result := onBlock s fun s => within (posterOk p) s (runOp p 0x43 ctxEnd)

end Sys2Proof.Machine
end

