-- ==== Sys2Proof/Machine/Integer.lean ====
section
/-! DEFINITION. The integer group, immediates and 64-bit forms (R108, R110–R112). -/

namespace Sys2Proof.Machine

/-- Signed quotient rounded toward zero, with the fixed results of R111. -/
def divS (x y : U64) : U64 := if y = 0 then BitVec.allOnes 64 else x.sdiv y
/-- Unsigned quotient; all ones for divisor 0 (R111). -/
def divU (x y : U64) : U64 := if y = 0 then BitVec.allOnes 64 else x / y
/-- Signed remainder with the sign of the dividend; the dividend for divisor 0 (R111). -/
def remS (x y : U64) : U64 := if y = 0 then x else x.srem y
/-- Unsigned remainder; the dividend for divisor 0 (R111). -/
def remU (x y : U64) : U64 := if y = 0 then x else x % y
/-- High 64 bits of the signed 128-bit product. -/
def mulHigh (x y : U64) : U64 := ((x.signExtend 128 * y.signExtend 128) >>> 64).truncate 64
/-- High 64 bits of the unsigned 128-bit product. -/
def mulHighU (x y : U64) : U64 := ((x.zeroExtend 128 * y.zeroExtend 128) >>> 64).truncate 64
/-- Ones in the low `n` bits. -/
def onesIn (x : U64) : Nat → Nat
  | 0 => 0
  | n + 1 => onesIn x n + b2n (x.getLsbD n)
/-- Zeros below bit `i` counted upward until a one, at most `n` of them. -/
def zerosFrom (x : U64) : Nat → Nat → Nat
  | _, 0 => 0
  | i, n + 1 => if x.getLsbD i then 0 else 1 + zerosFrom x (i + 1) n
/-- Zeros counted downward from bit n − 1 until a one. -/
def zerosDown (x : U64) : Nat → Nat
  | 0 => 0
  | n + 1 => if x.getLsbD n then 0 else 1 + zerosDown x n
/-- The shift amount gB[5:0]. -/
def shamt (y : U64) : Nat := y.toNat % 64

def execAdd (th : Nat) (d a b : Reg) (s : State) : Result := onBlock s fun s => issue th false s (regReg th d a b (· + ·))
def execSub (th : Nat) (d a b : Reg) (s : State) : Result := onBlock s fun s => issue th false s (regReg th d a b (· - ·))
def execMul (th : Nat) (d a b : Reg) (s : State) : Result := onBlock s fun s => issue th false s (regReg th d a b (· * ·))
def execMulh (th : Nat) (d a b : Reg) (s : State) : Result := onBlock s fun s => issue th false s (regReg th d a b mulHigh)
def execMulhu (th : Nat) (d a b : Reg) (s : State) : Result := onBlock s fun s => issue th false s (regReg th d a b mulHighU)
def execDiv (th : Nat) (d a b : Reg) (s : State) : Result := onBlock s fun s => issue th false s (regReg th d a b divS)
def execDivu (th : Nat) (d a b : Reg) (s : State) : Result := onBlock s fun s => issue th false s (regReg th d a b divU)
def execRem (th : Nat) (d a b : Reg) (s : State) : Result := onBlock s fun s => issue th false s (regReg th d a b remS)
def execRemu (th : Nat) (d a b : Reg) (s : State) : Result := onBlock s fun s => issue th false s (regReg th d a b remU)
def execAndd (th : Nat) (d a b : Reg) (s : State) : Result := onBlock s fun s => issue th false s (regReg th d a b (· &&& ·))
def execOrr (th : Nat) (d a b : Reg) (s : State) : Result := onBlock s fun s => issue th false s (regReg th d a b (· ||| ·))
def execXor (th : Nat) (d a b : Reg) (s : State) : Result := onBlock s fun s => issue th false s (regReg th d a b (· ^^^ ·))
def execAndn (th : Nat) (d a b : Reg) (s : State) : Result := onBlock s fun s => issue th false s (regReg th d a b fun x y => x &&& ~~~y)
def execSll (th : Nat) (d a b : Reg) (s : State) : Result := onBlock s fun s => issue th false s (regReg th d a b fun x y => x <<< shamt y)
def execSrl (th : Nat) (d a b : Reg) (s : State) : Result := onBlock s fun s => issue th false s (regReg th d a b fun x y => x >>> shamt y)
def execSra (th : Nat) (d a b : Reg) (s : State) : Result := onBlock s fun s =>
  issue th false s (regReg th d a b fun x y => x.sshiftRight (shamt y))
def execMinS (th : Nat) (d a b : Reg) (s : State) : Result := onBlock s fun s =>
  issue th false s (regReg th d a b fun x y => if y.slt x then y else x)
def execMaxS (th : Nat) (d a b : Reg) (s : State) : Result := onBlock s fun s =>
  issue th false s (regReg th d a b fun x y => if x.slt y then y else x)
def execMinu (th : Nat) (d a b : Reg) (s : State) : Result := onBlock s fun s =>
  issue th false s (regReg th d a b fun x y => if y.ult x then y else x)
def execMaxu (th : Nat) (d a b : Reg) (s : State) : Result := onBlock s fun s =>
  issue th false s (regReg th d a b fun x y => if x.ult y then y else x)
def execClz (th : Nat) (d a : Reg) (s : State) : Result := onBlock s fun s =>
  issue th false s (regOne th d a fun x => BitVec.ofNat 64 (zerosDown x 64))
def execCtz (th : Nat) (d a : Reg) (s : State) : Result := onBlock s fun s =>
  issue th false s (regOne th d a fun x => BitVec.ofNat 64 (zerosFrom x 0 64))
def execPopc (th : Nat) (d a : Reg) (s : State) : Result := onBlock s fun s =>
  issue th false s (regOne th d a fun x => BitVec.ofNat 64 (onesIn x 64))
def execSextB (th : Nat) (d a : Reg) (s : State) : Result := onBlock s fun s =>
  issue th false s (regOne th d a fun x => (x.truncate 8).signExtend 64)
def execSextH (th : Nat) (d a : Reg) (s : State) : Result := onBlock s fun s =>
  issue th false s (regOne th d a fun x => (x.truncate 16).signExtend 64)
def execSextW (th : Nat) (d a : Reg) (s : State) : Result := onBlock s fun s =>
  issue th false s (regOne th d a fun x => (x.truncate 32).signExtend 64)
def execZextW (th : Nat) (d a : Reg) (s : State) : Result := onBlock s fun s =>
  issue th false s (regOne th d a fun x => (x.truncate 32).zeroExtend 64)
def execAddi (th : Nat) (d a : Reg) (imm : U16) (s : State) : Result := onBlock s fun s =>
  issue th false s (regOne th d a fun x => x + imm.signExtend 64)
def execAndi (th : Nat) (d a : Reg) (imm : U16) (s : State) : Result := onBlock s fun s =>
  issue th false s (regOne th d a fun x => x &&& imm.zeroExtend 64)
def execOri (th : Nat) (d a : Reg) (imm : U16) (s : State) : Result := onBlock s fun s =>
  issue th false s (regOne th d a fun x => x ||| imm.zeroExtend 64)
def execXori (th : Nat) (d a : Reg) (imm : U16) (s : State) : Result := onBlock s fun s =>
  issue th false s (regOne th d a fun x => x ^^^ imm.zeroExtend 64)
def execShiLeft (th : Nat) (d a : Reg) (amount : BitVec 6) (s : State) : Result := onBlock s fun s =>
  issue th false s (regOne th d a fun x => x <<< amount.toNat)
def execShiLogicalRight (th : Nat) (d a : Reg) (amount : BitVec 6) (s : State) : Result := onBlock s fun s =>
  issue th false s (regOne th d a fun x => x >>> amount.toNat)
def execShiArithRight (th : Nat) (d a : Reg) (amount : BitVec 6) (s : State) : Result := onBlock s fun s =>
  issue th false s (regOne th d a fun x => x.sshiftRight amount.toNat)
def execLui (th : Nat) (d : Reg) (imm : U16) (s : State) : Result := onBlock s fun s =>
  issue th false s (finishG th d (imm.signExtend 64 * 65536))
def execLi (th : Nat) (d : Reg) (imm : BitVec 48) (s : State) : Result := onBlock s fun s =>
  issue th true s (finishLong th d (imm.signExtend 64))
def execLih (th : Nat) (d : Reg) (imm : U32) (s : State) : Result := onBlock s fun s =>
  issue th true s fun s => finishLong th d ((imm.zeroExtend 64 <<< 32) ||| ((s.g th d).truncate 32).zeroExtend 64) s
def execAddil (th : Nat) (d a : Reg) (imm : U32) (s : State) : Result := onBlock s fun s =>
  issue th true s fun s => finishLong th d (s.g th a + imm.signExtend 64) s
/-- `sel` (R117). -/
def execSel (th : Nat) (d a b : Reg) (p : Pred) (s : State) : Result := onBlock s fun s =>
  issueP th [p] s fun s => finishG th d (if (s.thread th).getP p then s.g th a else s.g th b) s

end Sys2Proof.Machine
end

