-- ==== Sys2Proof/Machine/Keys.lean ====
section
/-! DEFINITION. Key commands, rotation, device sets, and the teardown of a party with its revocation records (R793–R813,
R817). -/

namespace Sys2Proof.Machine

/-- DEVICE_ID (R817). -/
def deviceId : List Byte := sha384 (Config.idRsa Config.deviceSecret ++ Config.idSlh Config.deviceSecret)

/-! ### Key commands (R801, R819) -/

/-- A key command completes. -/
def keyDone (r : Status × Block) : Block := { r.2 with attest := { r.2.attest with keyStatus := r.1 } }

/-- A party reaches only the slot of its own PARTY_ID. -/
def mayName (by_ : KeyIssuer) (k : Nat) (s : Block) : Bool :=
  match by_ with
  | .fw _ => true
  | .party p => (s.slot k).party == p

/-- The form of every key command: no identity, no command (R819); a party's only on its own slot. -/
def keyForm (by_ : KeyIssuer) (k : Nat) (f : Block → Status × Block) (s : Block) : Status × Block :=
  if !s.attest.identityOk then (.internal, s) else if !mayName by_ k s then (.permFault, s) else f s

def keyReserve (k : Nat) (party : U128) : Block → Status × Block :=
  keyForm (.fw false) k fun s =>
    if (s.slot k).st ≠ .free then (.busy, s) else (.ok, s.setSlot k { KeySlot.init with st := .reserved, party := party })

def execKeyReserve (slot : Nat) (party : U128) (s : State) : Result := onBlock s fun s =>
  within (decide (slot < 4096)) s fun s => keyDone (keyReserve slot party s)

/-- The secret a command places: the party's, or the tollhouse's own for firmware. -/
def secretFor (by_ : KeyIssuer) (given : BitVec 256) (s : Block) : BitVec 256 × Block :=
  match by_ with
  | .party _ => (given, s)
  | .fw _ => drawSecret s

def keyInstall (by_ : KeyIssuer) (k : Nat) (secret : BitVec 256) : Block → Status × Block :=
  keyForm by_ k fun s =>
    if (s.slot k).st ≠ .reserved || by_ = .fw false then (.busy, s)
    else
      let (key, s) := secretFor by_ secret s
      (.ok, installSecret k key s)

def execKeyInstall (by_ : KeyIssuer) (slot : Nat) (secret : BitVec 256) (s : State) : Result := onBlock s fun s =>
  within (decide (slot < 4096)) s fun s => keyDone (keyInstall by_ slot secret s)

/-- Accesses in flight under a slot are at the previous epoch from here on; how many there are (R801, R804). -/
def agePending (k : Nat) (w : WaitOp) : WaitOp :=
  match w with
  | .load d va pa size sx _ slot => if slot = k then .load d va pa size sx true slot else w
  | .amo op d va pa wide operand expected _ slot order =>
    if slot = k then .amo op d va pa wide operand expected true slot order else w
  | w => w
def pendingUnder (k : Nat) (w : WaitOp) : Bool :=
  match w with
  | .load _ _ _ _ _ _ slot | .amo _ _ _ _ _ _ _ _ slot _ => slot == k
  | _ => false

/-- KEY_ROTATE (R802). -/
def rotate (k : Nat) (key : BitVec 256) (s : Block) : Block :=
  let pages := ((everyLeaf s).filter fun p => leafSlot p.2.2.l == k).length
  let waiting := fun (t : Nat × Thread) => decide (t.2.st = .waiting) && pendingUnder k t.2.wait
  let inflight := (s.cores.map fun c => (c.2.threads.filter waiting).length).sum + (s.stores.filter fun x => x.slot == k).length
  let age := fun (t : Nat × Thread) => if waiting t then (t.1, { t.2 with wait := agePending k t.2.wait }) else t
  let s := { s with cores := s.cores.map fun (c : Nat × Core) => (c.1, { c.2 with threads := c.2.threads.map age })
                    stores := s.stores.map fun (x : Store) => if x.slot = k then { x with prev := true } else x }
  s.modSlot k fun x =>
    KeySlot.retire { x with st := .rotating, epoch := x.epoch + 1, prev := x.cur, cur := some (newSecret s key), oldPages := pages
                            oldInflight := inflight }

def keyRotate (by_ : KeyIssuer) (k : Nat) (secret : BitVec 256) : Block → Status × Block :=
  keyForm by_ k fun s =>
    if (s.slot k).st ≠ .active then (.busy, s)
    else
      let (key, s) := secretFor by_ secret s
      (.ok, rotate k key s)

def execKeyRotate (by_ : KeyIssuer) (slot : Nat) (secret : BitVec 256) (s : State) : Result := onBlock s fun s =>
  within (decide (slot < 4096)) s fun s => keyDone (keyRotate by_ slot secret s)

/-- Both secrets of a slot are overwritten. -/
def zeroize (k : Nat) (s : Block) : Block := s.modSlot k fun x => { x with cur := none, prev := none, zeroized := true }

/-- Firmware issues the command. -/
def isFw (by_ : KeyIssuer) : Bool := match by_ with
  | .fw _ => true
  | .party _ => false

def keyZeroize (by_ : KeyIssuer) (k : Nat) : Block → Status × Block :=
  keyForm by_ k fun s => if (s.slot k).st ≠ .revoked || !isFw by_ then (.busy, s) else (.ok, zeroize k s)

def execKeyZeroize (by_ : KeyIssuer) (slot : Nat) (s : State) : Result := onBlock s fun s =>
  within (decide (slot < 4096)) s fun s => keyDone (keyZeroize by_ slot s)

/-- A page of the slot is mapped. -/
def slotMapped (s : Block) (k : Nat) : Bool := (everyLeaf s).any fun p => leafSlot p.2.2.l == k

def keyFree (by_ : KeyIssuer) (k : Nat) : Block → Status × Block :=
  keyForm by_ k fun s =>
    if (s.slot k).st ≠ .revoked || !(s.slot k).zeroized || slotMapped s k || !isFw by_ then (.busy, s) else (.ok, s.setSlot k .init)

def execKeyFree (by_ : KeyIssuer) (slot : Nat) (s : State) : Result := onBlock s fun s =>
  within (decide (slot < 4096)) s fun s => keyDone (keyFree by_ slot s)

/-! ### Device sets (R812, R813) -/

/-- The member entry of this device in a set record. -/
def memberEntry (r : List Byte) : Option (List Byte) :=
  ((List.range (fld r 6 2)).map fun i => (r.drop (0x200 + 1664 * i)).take 1664).find? fun e => e.take 48 == deviceId

/-- A set record passes R812. -/
def setRecordOk (s : Block) (r : List Byte) : Bool :=
  let m := fld r 6 2
  let body := 0x200 + 1664 * m
  let signed := r.take body
  let rsa := (r.drop 0x20).take 388
  let slh := (r.drop 0x1A4).take 48
  let held := s.attest.sets.find? fun x => x.id == BitVec.ofNat 128 (fld r 0x10 16)
  r.length == body + 384 + 16224 && r.take 4 == [0x48#8, 0x44#8, 0x53#8, 0x54#8] && fld r 4 2 == 1 && (1 ≤ m && m ≤ 1024)
    && allZero r 0xC 4 && allZero r 0x1D4 44 && (List.range m).all (fun i => allZero r (0x200 + 1664 * i + 1656) 8)
    && Config.rsaVerify rsa signed ((r.drop body).take 384) && Config.slhVerify slh signed (r.drop (body + 384))
    && held.all fun x => x.ownerRsa == rsa && x.ownerSlh == slh && decide (x.version < fld r 8 4)

/-- The set key that a member entry holds for this device (R813). -/
def setKeyOf (id : List Byte) (e : List Byte) : Option (List Byte) :=
  let z := Config.kemDecaps Config.deviceSecret ((e.drop 48).take 1568)
  Config.keyUnwrap (hkdf id z (ascii "hts set" ++ deviceId) 32) ((e.drop 1616).take 40)

def bindSet (k : Nat) (r : List Byte) (s : Block) : Status × Block :=
  if !setRecordOk s r then (.permFault, s)
  else
    match (memberEntry r).bind (setKeyOf ((r.drop 0x10).take 16)) with
    | none => (.permFault, s)
    | some key =>
      let id := BitVec.ofNat 128 (fld r 0x10 16)
      let x : DeviceSet := { id := id, version := fld r 8 4, ownerRsa := (r.drop 0x20).take 388, ownerSlh := (r.drop 0x1A4).take 48, key := key }
      let s := { s with attest := { s.attest with sets := s.attest.sets.filter (fun (y : DeviceSet) => y.id != id) ++ [x] } }
      (.ok, s.modSlot k fun y => { y with set := some id })

def setBind (by_ : KeyIssuer) (k : Nat) (r : List Byte) : Block → Status × Block :=
  keyForm by_ k fun s =>
    if s.teardowns.any fun t => t.slot == k then (.busy, s)
    else if !(s.slot k).usable then (.permFault, s)
    else bindSet k r s

def execSetBind (by_ : KeyIssuer) (slot : Nat) (record : List Byte) (s : State) : Result := onBlock s fun s =>
  within (decide (slot < 4096)) s fun s => keyDone (setBind by_ slot record s)

/-! ### Teardown (R805–R810) -/

/-- The tag of a slot's current secret. -/
def KeySlot.tag (k : KeySlot) : Option (List Byte) := k.cur.map fun x => keyTag x.key
def KeySlot.prevTag (k : KeySlot) : Option (List Byte) := k.prev.map fun x => keyTag x.key

/-- The magic of revocation records, with a TYPE. -/
def revokeMagic (type : Nat) : List Byte := [0x48#8, 0x52#8, 0x56#8, 0x4B#8, BitVec.ofNat 8 type]

/-- A revocation record (R808). -/
def revokeRecord (type epoch : Nat) (party : U128) (tag : List Byte) : List Byte :=
  revokeMagic type ++ leBytes 1 epoch ++ zeros 2 ++ leBytes 16 party.toNat ++ tag ++ deviceId.take 16 ++ zeros 8

/-- Groups of a party: those whose stream is sealed under its slot, and those of the partitions of its own contexts. -/
def groupsOf (s : Block) (k : Nat) : List Nat :=
  let parts := (s.contexts.filter fun c => !c.2.mixing && c.2.slots.contains k).map fun c => c.2.part
  (List.range 16).filter fun g =>
    (s.group g).en && (((s.vsCfg (16 + g)).en && (s.vsCfg (16 + g)).keySlot.toNat == k) || parts.contains (s.group g).part)

/-- The peers that hold the party's secret, as firmware knows them: the ends of the streams under its slot and the members
of its groups (DEDUCED, assumption 47). -/
def peersOf (s : Block) (k : Nat) : List Nat :=
  let ends := (s.kreash.vs.filter fun v => 32 ≤ v.1 && v.2.en && v.2.keySlot.toNat == k).map fun v => v.2.peer.toNat
  let members := (groupsOf s k).flatMap fun g => (s.group g).devices
  ((ends ++ members).filter fun m => m != s.kreash.moduleId.toNat).eraseDups

/-- Single-party contexts of a slot. -/
def ownContexts (s : Block) (k : Nat) : List Nat :=
  (s.contexts.filter fun c => !c.2.mixing && c.2.slots.contains k).map (·.1)

/-- A group of a party ends its open step with REPEAT, and is disabled (R787). -/
def stopGroup (g : Nat) (s : Block) : Block :=
  (newEpoch g (s.group g).epoch s).modGroup g fun x => { x with en := false, st := .disabled }

/-- Steps 4 to 6 of R805. -/
def finishTeardown (t : Teardown) (s : Block) : Block :=
  let k := t.slot
  let under := fun (r : TxRecord) => (s.vsCfg r.vs).keySlot.toNat == k && 16 ≤ r.vs
  let dropped := (s.kreash.outbox.filter under).length
  let s := s.modKreash fun x => { x with outbox := x.outbox.filter fun r => !under r }
  let s := zeroize k { s with revokedDrops := s.revokedDrops + BitVec.ofNat 32 dropped }
  let s := (ownContexts s k).foldl (fun s c => removeContext c (scrubCores c (endRequests c .keyRevoked s))) s
  let s := ((everyLeaf s).filter fun p => leafSlot p.2.2.l == k).foldl (fun s p => unmapPage p.1 p.2.1 s) s
  let s := s.modAd fun a => { a with dir := a.dir.filter (fun e => e.2.slot != k), reservoirs := a.reservoirs.filter fun r => r.keySlot != k }
  let s := { s with contexts := s.contexts.map fun (c : Nat × Context) => (c.1, { c.2 with slots := c.2.slots.filter fun x => x != k }) }
  let s := { s with rekeys := s.rekeys.filter fun r => r.1 != k }.setSlot k .init
  let detail := leBytes 1 0xFF ++ zeros 1 ++ leBytes 2 k ++ zeros 4 ++ leBytes 8 (s.revokedDrops - t.drops).toNat
  let s := t.fns.foldl (fun s f => postEvent f .keyRevoked 0x09 k 0xFFFF 0xFF detail s) s
  let s := { s with teardowns := s.teardowns.filter fun x => x.slot != k, lastTeardown := { slot := k, step := 6 } }
  let s := completeFor t.poster .ok 0 s
  let s := match t.tdi with
    | some f => if s.teardowns.any fun x => x.tdi == some f then s else s.modFunc f fun x => { x with tdi := .unlocked }
    | none => s
  settleService s

/-- Step 1 of R805: the slot is revoked at one moment, and the peers learn of it. -/
def revokeSlot (k : Nat) (peers : List Nat) (s : Block) : Block :=
  let x := s.slot k
  let s := s.modSlot k fun x => { x with st := .revoked }
  match x.tag with
  | none => s
  | some tag =>
    peers.foldl (fun s p => sendRecord { dst := p, vs := 0, link := none, bytes := revokeRecord 1 x.epoch.toNat x.party tag } s) s

/-- Steps 1 and 2, and what follows when no peer has to acknowledge. -/
def startTeardown (k : Nat) (poster : Option Poster) (tdi : Option Nat) (s : Block) : Block :=
  let peers := peersOf s k
  let holders := (s.contexts.filter fun c => c.2.slots.contains k).map fun c => s.fnOfPart c.2.part
  let groups := groupsOf s k
  let t : Teardown := { slot := k, peers := peers, fns := (0 :: holders).eraseDups, drops := s.revokedDrops, poster := poster, tdi := tdi }
  let s := revokeSlot k peers s
  let entries := (s.adapters.dir.filter fun e => e.2.slot == k).map (·.1)
  let s := entries.foldl (fun s i => expireGrace false i (startRevoke i none s)) s
  let s := (ownContexts s k).foldl (fun s c => quiesce c .keyRevoked s) s
  let s := groups.foldl (fun s g => stopGroup g s) s
  let s := { s with teardowns := s.teardowns ++ [t], lastTeardown := { slot := k, step := 3 } }
  if peers.isEmpty then finishTeardown t s else s

/-- KEY_REVOKE may start. -/
def revocable (s : Block) (k : Nat) : Bool :=
  match (s.slot k).st with
  | .reserved | .active | .rotating => true
  | _ => false

def keyRevoke (by_ : KeyIssuer) (k : Nat) : Block → Status × Block :=
  keyForm by_ k fun s => if !revocable s k || !isFw by_ then (.busy, s) else (.ok, startTeardown k none none s)

def execKeyRevoke (by_ : KeyIssuer) (slot : Nat) (s : State) : Result := onBlock s fun s =>
  within (decide (slot < 4096)) s fun s => keyDone (keyRevoke by_ slot s)

/-- SLOT_TEARDOWN: completes when the teardown has. -/
def slotTeardown (t : Taken) (s : Block) : Block :=
  let k := t.arg 0 % 4096
  if !s.attest.identityOk then fail t .internal s
  else if !s.teardowns.isEmpty || !revocable s k then fail t .busy s
  else startTeardown k (some t.poster) none (markStarted t.poster s)

def execSlotTeardown (p : Poster) (s : State) : Result := onBlock s fun s => within (posterOk p) s (runOp p 0x31 slotTeardown)

/-- The first management record of a source, when it is a revocation record of a TYPE. -/
def takeRevocation (src type : Nat) (s : Block) : Option (List Byte) × Block :=
  match firstAssembled s src 0 with
  | none => (none, s)
  | some r => if r.bytes.take 5 = revokeMagic type then takeManagement src (r.bytes.take 4) s else (none, s)

/-- The slots that hold a tag. -/
def slotsWithTag (s : Block) (tag : List Byte) : List Nat :=
  (s.slots.filter fun k => k.2.tag == some tag || k.2.prevTag == some tag).map (·.1)

/-- A revoke record is carried out and acknowledged (R809). -/
def revokeRx (src : Nat) (s : Block) : Block :=
  match takeRevocation src 1 s with
  | (none, s) => s
  | (some b, s) =>
    let tag := (b.drop 0x18).take 16
    let ks := slotsWithTag s tag
    let epoch := match ks with
      | k :: _ => (s.slot k).epoch.toNat
      | [] => fld b 5 1 % 4
    let ack := revokeRecord 2 epoch (BitVec.ofNat 128 (fld b 8 16)) tag
    let s := ks.foldl (fun s k => if revocable s k then startTeardown k none none s else s) s
    sendRecord { dst := src, vs := 0, link := none, bytes := ack } s

def execRevokeRecordRx (src : Nat) (s : State) : Result := onBlock s fun s => within (decide (src < 4096)) s (revokeRx src)

/-- A teardown waits no more for a peer. -/
def peerDone (k peer : Nat) (s : Block) : Block :=
  match s.teardowns.find? fun t => t.slot == k with
  | none => s
  | some t =>
    if !t.peers.contains peer then s
    else
      let t := { t with peers := t.peers.filter fun p => p != peer }
      let s := { s with teardowns := s.teardowns.map fun x => if x.slot = k then t else x }
      if t.peers.isEmpty then finishTeardown t s else s

/-- An acknowledgement arrives (R810). -/
def revokeAckRx (src : Nat) (s : Block) : Block :=
  match takeRevocation src 2 s with
  | (none, s) => s
  | (some b, s) => (slotsWithTag s ((b.drop 0x18).take 16)).foldl (fun s k => peerDone k src s) s

def execRevokeAckRx (src : Nat) (s : State) : Result := onBlock s fun s => within (decide (src < 4096)) s (revokeAckRx src)

/-- A peer leaves a group with a new epoch (R742, R810). -/
def removeMember (g peer : Nat) (s : Block) : Block :=
  let x := s.group g
  if !x.en || !x.devices.contains peer then s
  else
    let ids := x.devices.filter fun m => m != peer
    let rank := (ids.findIdx? fun m => m == s.kreash.moduleId.toNat).getD 0
    let s := s.modGroup g fun x => { x with devices := ids, members := ids.length, rank := rank }
    newEpoch g (x.epoch + 1) s

/-- A peer has not acknowledged within the limit of step 3 (R810). -/
def ackTimeout (k peer : Nat) (s : Block) : Block :=
  if s.teardowns.any fun t => t.slot == k && t.peers.contains peer then
    peerDone k peer ((List.range 16).foldl (fun s g => removeMember g peer s) s)
  else s

def execTeardownAckTimeout (slot peer : Nat) (s : State) : Result := onBlock s fun s =>
  within (decide (slot < 4096) && decide (peer < 4096)) s (ackTimeout slot peer)

end Sys2Proof.Machine
end

