-- ==== Sys2Proof/Machine/Patrol.lean ====
section
/-! DEFINITION. Patrol reads of the memories and the SRAM (R544–R553, R988, R1018). What stands wrong in a word is the
environment's to say; the commands carry it. -/

namespace Sys2Proof.Machine

/-- An address of a memory. -/
def inSpace : MemSpace → Nat → Bool
  | .t1, a => decide (a < 0xD8_0000_0000)
  | .t2, a => decide (a < 2 ^ 41)

/-- Insert an address into a rising list. -/
def insertAddr (a : Nat) : List Nat → List Nat
  | [] => [a]
  | b :: l => if a < b then a :: b :: l else if a = b then b :: l else b :: insertAddr a l

/-- Symbols of the codeword at `a` have gone wrong since it was last looked at: values of one byte, by symbol. -/
def addErrors (m : MemSpace) (a : Nat) (errs : SymErrs) (s : Block) : Block :=
  let f := errs.filter fun e => decide (e.1 < 36) && decide (e.2 < 256)
  match m with
  | .t1 => { s with mem := { s.mem with t1Bad := SMap.put [] a (addSyms (SMap.get [] a s.mem.t1Bad) f) s.mem.t1Bad } }
  | .t2 => { s with mem := { s.mem with t2Bad := SMap.put [] a (addSyms (SMap.get [] a s.mem.t2Bad) f) s.mem.t2Bad } }

/-- The wrong symbols that stand in a codeword. -/
def errorsAt (s : Block) : MemSpace → Nat → SymErrs
  | .t1, a => SMap.get [] a s.mem.t1Bad
  | .t2, a => SMap.get [] a s.mem.t2Bad

/-- A corrected codeword is written back (R551). -/
def scrubWord (m : MemSpace) (a : Nat) (s : Block) : Block :=
  match m with
  | .t1 => t1Write a (t1Data s a 32) s
  | .t2 => t2Write a (t2Data s a 32) s

/-- A correction that patrol makes is counted and reported. -/
def countCorrected (m : MemSpace) (a : Nat) (s : Block) : Block :=
  match m with
  | .t1 => corrT1 a true s
  | .t2 => corrT2 a true s

/-- An uncorrectable codeword is left as it is, counted and reported (R553). -/
def patrolBad (m : MemSpace) (a : Nat) (s : Block) : Block :=
  let (core, s) := s.freeBelow 8
  match m with
  | .t1 => eccT1 a true 0x00 core 0xFF s
  | .t2 => eccT2 a true 0x00 core 0xFF s

/-- A patrol read of a codeword (R545, R546, R551). -/
def patrolRead (m : MemSpace) (a : Nat) (s : Block) : Block :=
  match rsRead (errorsAt s m a) with
  | none => patrolBad m a s
  | some (_, true) => countCorrected m a (scrubWord m a s)
  | some (_, false) => s

/-- PATROL_MEM: symbols of the codeword at `addr` have gone wrong, as the row says; patrol, where it is enabled, reads the
codeword. With PATROL_EN 0 the errors stand until a read meets them (assumption 39). -/
def patrolMem (m : MemSpace) (addr : Nat) (errs : SymErrs) (s : Block) : Block :=
  let a := addr / 32 * 32
  let s := addErrors m a errs s
  if s.gl.patrolEn then patrolRead m a s else s

def execPatrolMem (space : MemSpace) (addr : Nat) (symbolErrors : List (Nat × Nat)) (s : State) : Result := onBlock s fun s =>
  within (inSpace space addr) s (patrolMem space addr symbolErrors)

/-- The core that holds a physical slot; none when no logical slot names it. -/
def coreAt (s : Block) (basin pslot : Nat) : Option Nat :=
  ((List.range 16).map (basin * 16 + ·)).find? fun c => s.pslot c == pslot

/-- A patrol read of an SRAM word that finds `n` wrong bits (R550, R552, R553). More than one is taken as an error that
cannot be located (assumption 39). -/
def patrolSram (basin pslot off n : Nat) (s : Block) : Block :=
  let w := off / 8 * 8
  let addr := w + pslot * 2 ^ 20 + basin * 2 ^ 25
  match coreAt s basin pslot with
  | none =>
    if n = 0 then s
    else if n = 1 then postEvent 0 .eccCorrected 0x10 basin 0xFFFF 0xFF (eccDetail addr 2 true) s
    else eccLast addr 2 true 0x10 basin 0xFF s
  | some c =>
    if (s.core c).bad.contains w then eccSram c w true s
    else if n = 0 then s
    else if n = 1 then
      postEvent 0 .eccCorrected 0x10 basin 0xFFFF (c % 16) (eccDetail addr 2 true)
        (s.modCore c fun x => { x with regs := { x.regs with sramCorrected := x.regs.sramCorrected + 1 } })
    else eccSram c w true (s.modCore c fun x => { x with bad := insertAddr w x.bad })

def execPatrolSram (basin pslot off bitErrors : Nat) (s : State) : Result := onBlock s fun s =>
  within (decide (basin < 256) && decide (pslot < 17) && decide (off < 0xC0000)) s (patrolSram basin pslot off bitErrors)

end Sys2Proof.Machine
end

