-- ==== Sys2Proof/Machine/Spdm.lean ====
section
/-! DEFINITION. The SPDM responder with Hokutik's vendor-defined messages (R818–R825), IDE key management and TDISP (R826,
R832). What the model keeps of a response is what the manual says it carries; the numbers of error codes and measurement
types are DMTF's and TDISP's (PRESUMED, assumption 48). -/

namespace Sys2Proof.Machine

/-! ### Connections and responses -/

def Block.modAttest (s : Block) (f : Attest → Attest) : Block := { s with attest := f s.attest }
def Block.conn (s : Block) (c : Conn) : SpdmConn := match c with
  | .doe => s.attest.doe
  | .mctp => s.attest.mctp
def Block.modConn (s : Block) (c : Conn) (f : SpdmConn → SpdmConn) : Block := s.modAttest fun a => match c with
  | .doe => { a with doe := f a.doe }
  | .mctp => { a with mctp := f a.mctp }

def errInvalid : Nat := 0x01
def errBusy : Nat := 0x03
def errUnexpected : Nat := 0x04
def errUnspecified : Nat := 0x05
def errDecrypt : Nat := 0x06
def errUnsupported : Nat := 0x07

/-- An unsigned response. -/
def respond (c : Conn) (r : SpdmResponse) (s : Block) : Block := s.modConn c fun x => { x with last := r, lastWasSigned := false }
/-- A response whose RSA signature covers `msg`. -/
def respondSigned (c : Conn) (r : SpdmResponse) (msg : List Byte) (s : Block) : Block :=
  s.modConn c fun x => { x with last := r, lastWasSigned := true, lastSigned := some msg }
/-- A Hokutik vendor-defined response, which carries the vendor ID (R821, R833) and which CHUNK_GET can return in pieces. -/
def respondVendor (c : Conn) (bs : List Byte) (s : Block) : Block :=
  s.modConn c fun x => { x with last := .hokutik vendorId bs, lastWasSigned := false, large := bs }

/-- The form of every request: the tollhouse is powered; without an identity every request receives ERROR Unspecified
(R819), and one of a version that is not supported ERROR UnsupportedRequest (R820). -/
def spdm (c : Conn) (versionOk : Bool) (f : Block → Block) (s : Block) : Block :=
  if !s.th.railUp then s
  else if !s.attest.identityOk then respond c (.error errUnspecified) s
  else if !versionOk then respond c (.error errUnsupported) s
  else f s

/-- SPDM 1.3. -/
def is13 (v : Byte) : Bool := v == 0x13

def rsaSig (msg : List Byte) : List Byte := Config.rsaSign Config.deviceSecret msg
def slhSig (msg : List Byte) : List Byte := Config.slhSign Config.deviceSecret msg

/-! ### Requests of R820 -/

/-- GET_VERSION carries version 1.0 in its own header, as DMTF has it. -/
def execGetVersion (c : Conn) (version : Byte) (s : State) : Result := onBlock s fun s =>
  .next (spdm c (is13 version || version == 0x10) (respond c .version) s)
def execGetCapabilities (c : Conn) (version : Byte) (s : State) : Result := onBlock s fun s =>
  .next (spdm c (is13 version) (respond c .capabilities) s)

/-- The algorithms agreed are those of R820; an offer without one of them receives ERROR UnsupportedRequest. -/
def execNegotiateAlgorithms (c : Conn) (version : Byte) (offer : AlgoOffer) (s : State) : Result := onBlock s fun s =>
  .next (spdm c (is13 version && offer.asymRsaPss3072 && offer.hashSha384 && offer.dheP384 && offer.aeadAes256Gcm && offer.dmtf)
    (respond c .algorithms) s)

def execGetDigests (c : Conn) (version : Byte) (s : State) : Result := onBlock s fun s =>
  .next (spdm c (is13 version) (respond c (.digests [sha384 (Config.certChain 0), sha384 (Config.certChain 1)])) s)

/-- GET_CERTIFICATE: a portion of the chain of slot 0 or 1 (R818), and how much remains. -/
def getCertificate (c : Conn) (slot off len : Nat) (s : Block) : Block :=
  let chain := Config.certChain slot
  if 2 ≤ slot || chain.length ≤ off then respond c (.error errInvalid) s
  else
    let part := (chain.drop off).take len
    respond c (.certificate part (chain.length - off - part.length)) s
def execGetCertificate (c : Conn) (version : Byte) (slot off len : Nat) (s : State) : Result := onBlock s fun s =>
  .next (spdm c (is13 version) (getCertificate c slot off len) s)

/-- CHALLENGE: the message its signature covers is kept as the model writes it (assumption 48). -/
def challenge (c : Conn) (slot : Nat) (nonce : List Byte) (s : Block) : Block :=
  if 2 ≤ slot || nonce.length ≠ 32 then respond c (.error errInvalid) s
  else
    let msg := leBytes 1 0x03 ++ leBytes 1 slot ++ nonce ++ sha384 (Config.certChain slot)
    respondSigned c (.challengeAuth msg (rsaSig msg)) msg s
def execChallenge (c : Conn) (version : Byte) (slot : Nat) (nonce : List Byte) (s : State) : Result := onBlock s fun s =>
  .next (spdm c (is13 version) (challenge c slot nonce) s)

/-- The value of a measurement index and its DMTF type (R823). -/
def measurement (s : Block) (i : Nat) : Option (Nat × List Byte) :=
  let a := s.attest
  let m := fun (x : List Byte) => if x.isEmpty then zeros 48 else x
  match i with
  | 1 => some (0x00, Config.romDigest)
  | 2 => some (0x01, m a.meas2)
  | 3 => some (0x86, leBytes 4 a.fwVersion.toNat)
  | 4 => some (0x87, leBytes 4 a.fwSvn.toNat)
  | 5 => some (0x02, m a.meas5)
  | 6 => some (0x03, m a.meas6)
  | _ => none

/-- A measurement block in DMTF format. -/
def measBlock (s : Block) (i : Nat) : List Byte :=
  match measurement s i with
  | none => []
  | some (type, v) => leBytes 1 i ++ leBytes 1 1 ++ leBytes 2 (v.length + 3) ++ leBytes 1 type ++ leBytes 2 v.length ++ v

/-- GET_MEASUREMENTS: the count of indices, one block, or all. -/
def getMeasurements (c : Conn) (index : Byte) (sign : Bool) (nonce : List Byte) (s : Block) : Block :=
  let i := index.toNat
  if (i ≠ 0 && i ≠ 255 && (measurement s i).isNone) || (sign && nonce.length ≠ 32) then respond c (.error errInvalid) s
  else
    let blocks := if i = 0 then leBytes 1 6 else if i = 255 then [1, 2, 3, 4, 5, 6].flatMap (measBlock s) else measBlock s i
    if sign then
      let msg := leBytes 1 0x60 ++ index :: nonce ++ blocks
      respondSigned c (.measurements blocks (some (rsaSig msg))) msg s
    else respond c (.measurements blocks none) s
def execGetMeasurements (c : Conn) (version index : Byte) (sign : Bool) (nonce : List Byte) (s : State) : Result := onBlock s fun s =>
  .next (spdm c (is13 version) (getMeasurements c index sign nonce) s)

/-! ### Secure sessions (R820, R825) -/

/-- A session of a connection, by its number. -/
def Block.session (s : Block) (c : Conn) (id : Nat) : Option Session :=
  s.attest.sessions.find? fun x => x.id == id && x.conn == c

/-- A session whose handshake has finished. -/
def Block.secured (s : Block) (c : Conn) (id : Nat) : Bool := (s.session c id).any (·.finished)

/-- KEY_EXCHANGE (R825): the secret that enters the key schedule is the P-384 secret, then the ML-KEM secret. -/
def keyExchange (c : Conn) (exchange : List Byte) (kemDigest : Option (List Byte)) (s : Block) : Block :=
  match (s.conn c).kemKey with
  | none => respond c (.error errInvalid) s
  | some key =>
    if kemDigest ≠ some (sha384 key) then respond c (.error errInvalid) s
    else if 8 ≤ s.attest.sessions.length then respond c (.error errBusy) s
    else
      match Config.dhe exchange s.attest.drbgCtr with
      | none => respond c (.error errInvalid) s
      | some (answer, z) =>
        let (ct, k) := Config.kemEncaps key (s.attest.drbgCtr + 1)
        let id := s.attest.sessionNext
        let x : Session := { id := id, conn := c, secret := z ++ k, kemCt := ct, finished := false }
        let msg := leBytes 1 0x64 ++ leBytes 4 id ++ exchange ++ answer ++ sha384 ct
        respondSigned c (.keyExchange id answer (sha384 ct)) msg
          (s.modAttest fun a => { a with sessions := a.sessions ++ [x], sessionNext := id + 1, drbgCtr := a.drbgCtr + 2 })
def execKeyExchange (c : Conn) (version : Byte) (exchange : List Byte) (kemDigest : Option (List Byte)) (s : State) : Result := onBlock s fun s =>
  .next (spdm c (is13 version) (keyExchange c exchange kemDigest) s)

def modSession (id : Nat) (f : Session → Session) (s : Block) : Block :=
  s.modAttest fun a => { a with sessions := a.sessions.map fun x => if x.id = id then f x else x }

/-- FINISH: the handshake ends when what the requester sends verifies. -/
def finishMsg (c : Conn) (session : Nat) (verify : List Byte) (s : Block) : Block :=
  match s.session c session with
  | none => respond c (.error errUnexpected) s
  | some x =>
    if x.finished then respond c (.error errUnexpected) s
    else if verify ≠ Config.finishVerify x.secret x.id then respond c (.error errDecrypt) s
    else respond c .finish (modSession session (fun x => { x with finished := true }) s)
def execFinishMsg (c : Conn) (version : Byte) (session : Nat) (verify : List Byte) (s : State) : Result := onBlock s fun s =>
  .next (spdm c (is13 version) (finishMsg c session verify) s)

/-- A message that a secure session carries. -/
def inSession (c : Conn) (session : Nat) (f : Block → Block) (s : Block) : Block :=
  if s.secured c session then f s else respond c (.error errUnexpected) s

def execHeartbeat (c : Conn) (version : Byte) (session : Nat) (s : State) : Result := onBlock s fun s =>
  .next (spdm c (is13 version) (inSession c session (respond c .heartbeat)) s)

/-- KEY_UPDATE: update one key, update all, or verify the new key; the keys themselves are DMTF's business. -/
def execKeyUpdate (c : Conn) (version : Byte) (session : Nat) (op : Byte) (s : State) : Result := onBlock s fun s =>
  .next (spdm c (is13 version) (inSession c session fun s =>
    if 1 ≤ op.toNat && op.toNat ≤ 3 then respond c .keyUpdate s else respond c (.error errInvalid) s) s)

def execEndSession (c : Conn) (version : Byte) (session : Nat) (s : State) : Result := onBlock s fun s =>
  .next (spdm c (is13 version) (inSession c session fun s =>
    respond c .endSession (s.modAttest fun a => { a with sessions := a.sessions.filter fun x => x.id != session })) s)

/-! ### Chunks -/

/-- CHUNK_SEND: chunks of one request in order. The request they make up arrives as its own command (assumption 48). -/
def chunkSend (c : Conn) (handle seq : Nat) (last : Bool) (chunk : List Byte) (s : Block) : Block :=
  let x := s.conn c
  let key := if seq = 0 then handle * 65536 else x.chunkSeq
  if 65536 ≤ seq || key ≠ handle * 65536 + seq then
    respond c (.error errInvalid) (s.modConn c fun x => { x with chunkIn := [], chunkSeq := 0 })
  else
    let bs := (if seq = 0 then [] else x.chunkIn) ++ chunk
    respond c .chunkAck (s.modConn c fun x => { x with chunkIn := bs, chunkSeq := if last then 0 else handle * 65536 + seq + 1 })
def execChunkSend (c : Conn) (version : Byte) (handle seq : Nat) (last : Bool) (chunk : List Byte) (s : State) : Result := onBlock s fun s =>
  .next (spdm c (is13 version) (chunkSend c handle seq last chunk) s)

/-- CHUNK_GET: chunk `seq` of the last large response, 1,024 bytes each (assumption 48). -/
def chunkGet (c : Conn) (seq : Nat) (s : Block) : Block :=
  let bs := (s.conn c).large.drop (1024 * seq)
  if bs.isEmpty then respond c (.error errUnexpected) s else respond c (.chunk (bs.take 1024) (decide (bs.length ≤ 1024))) s
def execChunkGet (c : Conn) (version : Byte) (_handle seq : Nat) (s : State) : Result := onBlock s fun s =>
  .next (spdm c (is13 version) (chunkGet c seq) s)

/-! ### Vendor-defined messages (R818, R821, R822, R825) -/

def hkPqsig (c : Conn) (s : Block) : Block :=
  match (s.conn c).lastWasSigned, (s.conn c).lastSigned with
  | true, some msg => respondVendor c (slhSig msg) s
  | _, _ => respond c (.error errUnexpected) s
def execHkPqsig (c : Conn) (s : State) : Result := onBlock s fun s => .next (spdm c true (hkPqsig c) s)

/-- The coarse tick (R140). -/
def coarseTick (s : Block) : Nat := s.gl.timebase.toNat / 2 ^ 17

/-- The signed part of a Hokutik report (R822): the indices whose mask bits are set. -/
def reportBody (s : Block) (nonce : List Byte) (mask : U32) : List Byte :=
  let idx := [1, 2, 3, 4, 5, 6].filter fun i => bitOf mask.toNat i
  let blocks := idx.flatMap (measBlock s)
  [0x48#8, 0x41#8, 0x54#8, 0x52#8] ++ leBytes 2 1 ++ leBytes 2 idx.length ++ leBytes 4 blocks.length
    ++ leBytes 4 s.attest.fwVersion.toNat ++ leBytes 4 s.attest.fwSvn.toNat ++ zeros 4 ++ leBytes 8 (coarseTick s)
    ++ (nonce ++ zeros 32).take 32 ++ deviceId ++ zeros 16 ++ blocks

/-- A report with both its signatures. -/
def fullReport (s : Block) (nonce : List Byte) (mask : U32) : List Byte :=
  let b := reportBody s nonce mask
  b ++ rsaSig b ++ slhSig b

def execHkReport (c : Conn) (nonce : List Byte) (mask : U32) (s : State) : Result := onBlock s fun s =>
  .next (spdm c true (fun s =>
    if nonce.length ≠ 32 then respond c (.error errInvalid) s else respondVendor c (fullReport s nonce mask) s) s)

/-- The key statement (R818). -/
def keyStatement : List Byte :=
  let b := deviceId ++ Config.idKem Config.deviceSecret
  b ++ rsaSig b ++ slhSig b
def execHkKemkey (c : Conn) (s : State) : Result := onBlock s fun s => .next (spdm c true (respondVendor c keyStatement) s)

/-- A handshake of the connection is open. -/
def handshakeOpen (s : Block) (c : Conn) : Bool := s.attest.sessions.any fun x => x.conn == c && !x.finished

def hkKemek (c : Conn) (key : List Byte) (s : Block) : Block :=
  if handshakeOpen s c then respond c (.error errUnexpected) s
  else if key.length ≠ 1568 then respond c (.error errInvalid) s
  else respondVendor c [] (s.modConn c fun x => { x with kemKey := some key })
def execHkKemek (c : Conn) (key : List Byte) (s : State) : Result := onBlock s fun s => .next (spdm c true (hkKemek c key) s)

def hkKemct (c : Conn) (session : Nat) (s : Block) : Block :=
  match s.session c session with
  | some x => if x.finished then respond c (.error errUnexpected) s else respondVendor c x.kemCt s
  | none => respond c (.error errUnexpected) s
def execHkKemct (c : Conn) (session : Nat) (s : State) : Result := onBlock s fun s => .next (spdm c true (hkKemct c session) s)

/-- A party's key command by its code (R801). -/
def partyCommand (party : U128) (op slot : Nat) (payload : List Byte) (s : Block) : Status × Block :=
  let by_ := KeyIssuer.party party
  let secret := BitVec.ofNat 256 (beNat payload)
  if !s.attest.identityOk || 4096 ≤ slot then (.internal, s)
  else
    match op with
    | 1 | 4 | 5 | 6 => (if mayName by_ slot s then .busy else .permFault, s)
    | 2 => if payload.length = 32 then keyInstall by_ slot secret s else (.internal, s)
    | 3 => if payload.length = 32 then keyRotate by_ slot secret s else (.internal, s)
    | 7 => setBind by_ slot payload s
    | _ => (.internal, s)

def hkKeyop (c : Conn) (session : Option Nat) (party : U128) (op slot : Nat) (payload : List Byte) (s : Block) : Block :=
  match session with
  | none => respond c (.error errUnexpected) s
  | some id => inSession c id (fun s =>
      let r := partyCommand party op slot payload s
      respondVendor c (leBytes 1 r.1.code) (keyDone r)) s
def execHkKeyop (c : Conn) (session : Option Nat) (party : U128) (op : Byte) (slot : Nat) (payload : List Byte) (s : State) : Result := onBlock s fun s =>
  .next (spdm c true (hkKeyop c session party op.toNat slot payload) s)

/-! ### IDE (R832, IDE and TDISP) -/

/-- An IDE_KM message inside a secure session on the physical function's DOE: one of the 8 selective streams. -/
def ideKm (session : Option Nat) (stream : Nat) (op : IdeOp) (s : Block) : Block :=
  match session with
  | none => respond .doe (.error errUnexpected) s
  | some id => inSession .doe id (fun s =>
      if 8 ≤ stream then respond .doe (.error errInvalid) s
      else
        let x := SMap.get IdeStream.init stream s.attest.ide
        let x := match op with
          | .program key => { x with key := some key }
          | .activate => { x with active := x.key.isSome }
          | .stop => { x with active := false }
        respond .doe (.vendor []) (s.modAttest fun a => { a with ide := SMap.put .init stream x a.ide })) s
def execIdeKm (session : Option Nat) (stream : Nat) (op : IdeOp) (s : State) : Result := onBlock s fun s => .next (spdm .doe true (ideKm session stream op) s)

/-! ### TDISP (R826) -/

def tdispBadState : Nat := 0x0004
def tdispBadInterface : Nat := 0x0101

/-- The form of a TDISP message to function `f`: the physical function is no TDI. -/
def tdisp (f : Nat) (g : Block → Block) (s : Block) : BlockResult :=
  within (decide (f < 64)) s (spdm .doe true fun s => if f = 0 then respond .doe (.error tdispBadInterface) s else g s)

def execGetTdispVersion (fn : Nat) (s : State) : Result := onBlock s fun s => tdisp fn (respond .doe (.vendor [0x10#8])) s
def execGetTdispCapabilities (fn : Nat) (s : State) : Result := onBlock s fun s => tdisp fn (respond .doe .capabilities) s

/-- A change of a TDI's state from one state, else INVALID_INTERFACE_STATE. -/
def tdiMove (f : Nat) (from_ dest : TdiState) (s : Block) : Block :=
  if (s.func f).tdi = from_ then respond .doe (.status .ok) (s.modFunc f fun x => { x with tdi := dest })
  else respond .doe (.error tdispBadState) s

def execLockInterface (fn : Nat) (s : State) : Result := onBlock s fun s => tdisp fn (tdiMove fn .unlocked .locked) s
def execStartInterfaceRequest (fn : Nat) (s : State) : Result := onBlock s fun s => tdisp fn (tdiMove fn .locked .run) s

/-- The interface report: the VF's BAR0 range and its partition. -/
def tdiReport (s : Block) (f : Nat) : List Byte :=
  leBytes 8 (s.func f).vfBar0 ++ leBytes 8 0x100_0000 ++ leBytes 2 (((s.func f).bound).getD 0xFFFF)
def execGetDeviceInterfaceReport (fn : Nat) (s : State) : Result := onBlock s fun s =>
  tdisp fn (fun s => match (s.func fn).tdi with
    | .locked | .run => respond .doe (.vendor (tdiReport s fn)) s
    | _ => respond .doe (.error tdispBadState) s) s

def TdiState.code : TdiState → Byte
  | .unlocked => 0 | .locked => 1 | .run => 2 | .error => 3
def execGetDeviceInterfaceState (fn : Nat) (s : State) : Result := onBlock s fun s =>
  tdisp fn (fun s => respond .doe (.vendor [(s.func fn).tdi.code]) s) s

/-- STOP_INTERFACE_REQUEST: the parties of the TDI's partition are torn down, then the TDI is unlocked. -/
def stopInterface (f : Nat) (s : Block) : Block :=
  let slots := match (s.func f).bound with
    | none => []
    | some p => ((s.contexts.filter fun (c : Nat × Context) => c.2.part == p).flatMap fun (c : Nat × Context) => c.2.slots).eraseDups
  let s := slots.foldl (fun s k => if revocable s k then startTeardown k none (some f) s else s) s
  let s := { s with teardowns := s.teardowns.map fun (t : Teardown) => if slots.contains t.slot then { t with tdi := some f } else t }
  let s := if s.teardowns.any fun t => t.tdi == some f then s else s.modFunc f fun x => { x with tdi := .unlocked }
  respond .doe (.status .ok) s
def execStopInterfaceRequest (fn : Nat) (s : State) : Result := onBlock s fun s => tdisp fn (stopInterface fn) s

end Sys2Proof.Machine
end

