-- ==== Sys2Proof/Machine/Reset.lean ====
section
/-! DEFINITION. Resets: of a function (R859–R861), and the warm reset, module reset and entry to standby of the whole module
(R956, R962–R968). -/

namespace Sys2Proof.Machine

/-- A map's values changed, keeping its canonical form. -/
def SMap.mapVal {α : Type} [DecidableEq α] (d : α) (f : Nat → α → α) (m : SMap α) : SMap α :=
  m.filterMap fun e => if f e.1 e.2 = d then none else some (e.1, f e.1 e.2)

/-! ### Function Level Reset -/

/-- Firmware forgets the entries of a function's rings (R859). -/
def discardEntries (f : Nat) (s : Block) : Block :=
  forgetTaken (fun t => match t.poster with
    | .ring g _ _ => g == f
    | .service _ _ => false) s

/-- The STOP_REQ bits that a freeze of a function set are clear again. -/
def dropFreeze (f : Nat) (s : Block) : Block :=
  (s.func f).frozenUnits.foldl (fun s u =>
    if u < 4096 then s.modCore u fun c => { c with regs := { c.regs with stopReq := false } }
    else s.modBasin (u - 4096) fun b => { b with stopReq := false }) s

/-- Contexts created through a function. -/
def contextsOf (s : Block) (f : Nat) : List Nat := (s.contexts.filter fun c => c.2.fn == f).map (·.1)

/-- R859 for one function. Interrupts it raised and what is no part of its function page stay. -/
def resetFunction (f : Nat) (s : Block) : Block :=
  let s := (contextsOf s f).foldl (fun s c => endContext c s) (discardEntries f s)
  (dropFreeze f s).modFunc f fun x =>
    { Func.init with bound := x.bound, irqs := x.irqs, tdi := x.tdi, offerSeed := x.offerSeed, cfgRetry := x.cfgRetry, cfgReply := x.cfgReply, vfBar0 := x.vfBar0, aer := x.aer }

/-- A Function Level Reset; of the PF, of every function (R860), and it ends the state a fatal error left (R858,
assumption 42). -/
def flr (f : Nat) (s : Block) : Block :=
  if f = 0 then
    let s := (List.range 64).foldl (fun s g => resetFunction g s) s
    { s with host := { s.host with fatal := false } }
  else resetFunction f s

def execFunctionLevelReset (fn : Nat) (s : State) : Result := onBlock s fun s => within (decide (fn < 64)) s (whenUp (flr fn))

/-! ### Key slots -/

/-- The key slots and what hangs on them are gone: every slot is zeroized, then FREE, and no record is sent (R967). -/
def freeAllSlots (s : Block) : Block := { s with slots := [], teardowns := [] }

/-! ### Warm reset (R963–R966) -/

/-- Every running `up.apply` is cut off, and its shard stays in APPLYING (R965). -/
def cutApplies (s : Block) : Block :=
  (s.basins.flatMap fun b => b.2.up.filter fun c => c.code == 3 && c.phase == .running).foldl (fun s c => cutApply c s) s

/-- An admission of a ring that waits ends; that of a service queue, which is taken anew, leaves its record FREE. -/
def refuseWaitingReq (s : Block) (r : Request) : Block :=
  match r.poster with
  | some (.service _ _) => dropRequest r (fwWrite r.ctx (recAddr r.idx + 0x3A) [0#8] s)
  | _ => endWaiting r .refusedSag s

/-- Entries taken and not complete: those of rings complete with REFUSED_SAG, and firmware will take those of service queues
anew (R965). -/
def refuseTaken (s : Block) : Block :=
  let s := s.waitingReqs.foldl refuseWaitingReq s
  let s := forgetTaken (fun t => match t.poster with
    | .ring _ _ _ => false
    | .service _ _ => true) s
  let s := s.host.taken.foldl (fun s t => complete t.poster .refusedSag 0 s) s
  { s with host := { s.host with taken := [] } }

/-- A core after a warm reset: scrubbed, its context, SEED and STEP kept. -/
def warmCore (c : Core) : Core := { Core.init with ctx := c.ctx, seed := c.seed, step := c.step, scrubbed := c.ctx.isNone }

/-- A basin after a reset: its registers at their reset values, its substitution and fences kept (R960). -/
def warmBasin (b : Basin) : Basin :=
  { Basin.init with fencedSlots := b.fencedSlots, retired := b.retired, spare := b.spare, phys := b.phys }

/-- A page move in hand is gone: before step 3 the page keeps its home, from it on it has the new one. -/
def dropMove (s : Block) (e : Nat) : Block :=
  match (s.tierEngine e).job with
  | none => s
  | some j =>
    if j.stage = 3 then releaseHome { l := j.old, addr := j.addr, big := j.big } s
    else
      let s := if j.stage = 2 then dropDest j s else s
      match stillMoving s j with
      | some x => markMoving false j.req.ctx j.va x s
      | none => s

/-- A rekey in hand is gone: its page stays at the previous epoch. -/
def dropRekey (s : Block) (r : Nat × Nat × Nat) : Block :=
  match leafOf s r.2.1 r.2.2 with
  | some x => if leafMoving x.l then markMoving false r.2.1 r.2.2 x s else s
  | none => s

/-- What was on its way to the memories is over: a store is in memory or is not, which is not stated, and no access holds a
previous epoch. -/
def dropAccesses (s : Block) : Block :=
  let s := s.rekeys.foldl dropRekey ((List.range 8).foldl dropMove (landSeen (fun _ => true) s))
  { s with stores := [], rekeys := [], rooms := [], deferred := [], lastIssued := []
           slots := SMap.mapVal .init (fun _ (k : KeySlot) => KeySlot.retire { k with oldInflight := 0 }) s.slots }

/-- The engines' work in progress is gone. -/
def dropWork (s : Block) : Block :=
  { s with
    cores := SMap.mapVal .init (fun _ c => warmCore c) s.cores
    basins := SMap.mapVal .init (fun _ b => warmBasin b) s.basins
    contexts := s.contexts.map fun (c : Nat × Context) => (c.1, { c.2 with runs := [], svcIgnored := [] })
    tier := SMap.mapVal .init (fun _ (e : TierEngine) => { e with reqs := [], job := none }) s.tier
    groups := SMap.mapVal .init (fun _ (g : RdGroup) =>
      { g with sums := [], closes := [], parts := [], closing := false, sumsOk := g.sumsOk && g.sums.isEmpty }) s.groups
    faults := []
    mem := { s.mem with walkCache := [] }
    gl := { s.gl with grantQ := [], grantLk := [], grantTlb := [] } }

/-- The LK_ block at its reset values; what the tollhouse measures and the pin SAG_N shows stay. The weir level is then the
one SAG_N holds (R917). -/
def resetLock (x : LockKeeper) : LockKeeper :=
  { LockKeeper.init with sagLow := x.sagLow, vinDv := x.vinDv, vinHist := x.vinHist, droop := x.droop
                         level := if x.sagLow then 2 else 0 }

/-- `LK_POOL_d_p` has its reset value after a warm reset: the pools that partitions have hold 0 (R964; R962 fills them only
at a cold start and a module reset). -/
def emptyPools (s : Block) : Block :=
  let keys := (List.range 8).flatMap fun d => s.parts.map fun p => (d, p.1)
  { s with lock := { s.lock with
      pools := keys.foldl (fun m (k : Nat × Nat) => SMap.put 0 (shareKey k.1 k.2) (poolCap s k.1 k.2) m) [] } }

/-- A teardown in progress has its KEY_ZEROIZE done before the reset proceeds; firmware has only steps 5 and 6 left
(R966). -/
def zeroizeTeardowns (s : Block) : Block :=
  let s := s.teardowns.foldl (fun s t => zeroize t.slot s) s
  { s with teardowns := s.teardowns.map fun (t : Teardown) => { t with peers := [], poster := none } }

/-- A REPORT or CFG_WRITE of the mailbox that a reset finds in progress ends with INTERNAL (R972). -/
def endOps (s : Block) : Block :=
  if s.th.cmdGo && (s.th.cmdRun = 2 || s.th.cmdRun = 7) then { s with th := { s.th with cmdGo := false, cmdResult := .internal } } else s

/-- The result a mailbox operation that resets the module itself leaves. -/
def resetResult (t : Tollhouse) : Status := if t.cmdGo && (t.cmdRun = 2 || t.cmdRun = 7) then .internal else .ok

/-- THE WARM RESET, with its value of LAST_RESET: stages 4 to 8 follow, from the bundle copy of R956. -/
def warmReset (cause : Nat) (s : Block) : Block :=
  let s := dropWork (dropAccesses (refuseTaken (cutApplies (zeroizeTeardowns (endOps s)))))
  emptyPools { s with
    lock := resetLock s.lock
    host := { s.host with fns := SMap.mapVal .init (fun _ (x : Func) => { x with resetting := false }) s.host.fns }
    th := { s.th with stage := .verify, lastReset := cause, fail := 0, readyN := true, bundle := s.th.accepted } }

/-! ### Module reset and standby (R962, R963, R967) -/

/-- What both keep: the tollhouse with its identity, pins, flash and sideband, the timebase, and the host's memory. What the
memories hold stays until stage 7. -/
def mainReset (cause : Nat) (s : Block) : Block :=
  let r := Block.reset
  let t := s.th
  { r with
    freeCtr := s.freeCtr, nextId := s.nextId
    mem := { r.mem with t1 := s.mem.t1, t2 := s.mem.t2, host := s.mem.host, hostBad := s.mem.hostBad, t1Bad := s.mem.t1Bad, t2Bad := s.mem.t2Bad }
    gl := { r.gl with timebase := s.gl.timebase }
    lock := resetLock s.lock
    lm := { r.lm with log := s.lm.log, delay := s.lm.delay }
    attest := { s.attest with ide := [], meas2 := [], meas6 := [] }
    th := { t with stage := .link, lastReset := cause, fail := 0, bundleLen := 0, bootGo := false, cmdOp := 0, cmdGo := false, cmdRun := 0
                   cmdResult := resetResult t
                   arg := 0, readyN := true, perstAt := s.gl.timebase.toNat, cfgUp := false, bar2 := [], bundle := [], accepted := [] } }

/-- Link training, once the main rails are up and PERST_N is released (R950). -/
def linkUp (s : Block) : Block :=
  if s.th.stage = .link && s.th.mainUp && s.th.perstN then
    { s with th := { s.th with stage := .waitBundle, perstAt := s.gl.timebase.toNat, cfgUp := false } }
  else s

/-- THE MODULE RESET: stages 2 to 8 follow. -/
def moduleReset (cause : Nat) (s : Block) : Block :=
  if s.th.mainUp then linkUp (mainReset cause (freeAllSlots s)) else s

/-- ENTRY TO STANDBY: the keys zeroized, the main rails off, T1 and T2 lost (R943, R963). The module leaves standby when
PWR_EN rises again (R968, assumption 49). -/
def standby (cause : Nat) (s : Block) : Block :=
  let s := mainReset cause (freeAllSlots s)
  { s with mem := { s.mem with t1 := [], t2 := [], t1Bad := [], t2Bad := [] }
           th := { s.th with mainUp := false, armed := false } }

/-- The main rails come up: PWR_EN is high, the device secret and the identity, or its failure, are there, VIN averages at
least 47 V, and the in-rush is complete (R945, R998). -/
def tryPowerUp (s : Block) : Block :=
  let t := s.th
  if t.railUp && s.attest.secretUp && t.pwrEn && t.armed && t.inrush && !t.mainUp && decide (470 ≤ s.lock.vinDv) then
    linkUp { s with th := { t with mainUp := true } }
  else s

end Sys2Proof.Machine
end

