-- ==== Sys2Proof/Machine/Power.lean ====
section
/-! DEFINITION. Supply sag, unit power states, the lengthsman, spares and fencing (R913–R939), and the rates, the VCORE target
and ticket mode (R69–R81, R901, R1014). -/

namespace Sys2Proof.Machine

def Block.modLock (s : Block) (f : LockKeeper → LockKeeper) : Block := { s with lock := f s.lock }

/-! ### Weir levels (R913–R918) -/

/-- VIN averages below `dv` tenths of a volt. -/
def vinBelow (x : LockKeeper) (dv : Nat) : Bool := !x.vinHist.isEmpty && decide (x.vinHist.sum < dv * x.vinHist.length)

/-- The threshold of a level, in tenths of a volt. -/
def weirDv (n : Nat) : Nat := (([0, 460, 440, 420, 400, 360] : List Nat)[n]?).getD 0

/-- The level whose trigger holds (R915). -/
def triggered (x : LockKeeper) : Nat :=
  if vinBelow x 360 then 5 else if vinBelow x 400 then 4 else if vinBelow x 420 then 3 else if vinBelow x 440 then 2
  else if vinBelow x 460 || x.droop then 1 else 0

/-- A waiting request is new, and the present level refuses it (R913, R914): a command's that has not started, or a schedule
entry's. -/
def refuseRequest (b : Nat) (r : PassReq) (s : Block) : Block :=
  let drop := fun (s : Block) => countRefused (dieOfBasin b) (s.modBasin b fun x => { x with passes := x.passes.filter fun p => p.id != r.id })
  match reqCmd s r with
  | some c =>
    if c.resumePass || c.phase = .running || !weirRefuses s c.unit then s
    else drop (s.modCmd r.q c.id fun x => { x with cancel := some .refusedSag })
  | none =>
    if s.lock.level < 3 then s
    else
      match s.contexts.findSome? fun (c : Nat × Context) => (c.2.runs.find? fun x => x.id == r.id && x.fed == 0).map fun x => (c.1, x) with
      | some (ctx, x) => endRun ctx x .refusedSag (drop s)
      | none => s

def refuseWaiting (s : Block) : Block :=
  (s.basins.flatMap fun b => b.2.passes.map fun r => (b.1, r)).foldl (fun s p => refuseRequest p.1 p.2 s) s

/-- Threads of the compute-die cores by number. -/
def partyThreads (s : Block) : List Nat :=
  (s.cores.filter fun c => !isSystem c.1).flatMap fun c => c.2.threads.map fun t => 16 * c.1 + t.1

/-- A thread stops as `sys.tstop` stops it (R918). -/
def weirStop (s : Block) (n : Nat) : Block :=
  let t := s.thread n
  match t.st with
  | .ready | .waiting | .parked => (stopThread n (s.modThread n fun t => { t with weirSaved := some t.st })).2
  | _ => s

/-- Firmware waits for the thread to stop. -/
def stopAwaited (s : Block) (n : Nat) : Bool :=
  s.cores.any fun c => c.2.threads.any fun t => match t.2.wait with
    | .tstop m _ => m == n
    | _ => false

/-- A thread the weir had stopped goes on. -/
def weirGo (s : Block) (n : Nat) : Block :=
  let t := s.thread n
  if t.weirSaved.isNone then s
  else if t.st = .stopped then goThread n s
  else s.setThread n { t with weirSaved := none, stopAsked := t.stopAsked && stopAwaited s n }

/-- An entry to a level counts (`LK_WEIR_CNT`). -/
def countWeir (n : Nat) (x : LockKeeper) : LockKeeper :=
  match n with
  | 1 => { x with cntL1 := x.cntL1 + 1 }
  | 2 => { x with cntL2 := x.cntL2 + 1 }
  | 3 => { x with cntL3 := x.cntL3 + 1 }
  | _ => x

/-- A platform event waits for the bus owner, and ALERT_N is low (R978). -/
def platformEvent (e : Nat) (s : Block) : Block := { s with th := { s.th with events := s.th.events ++ [e], alertN := false } }

/-- The level rises (R913, R918, R978). -/
def weirRise (n : Nat) (s : Block) : Block :=
  let old := s.lock.level
  if n ≤ old then s
  else
    let s := refuseWaiting (s.modLock fun x => countWeir n { x with level := n })
    if n = 3 then platformEvent 2 (sendWeirNotice 3 ((partyThreads s).foldl weirStop s)) else s

/-- Everything that level 3 stopped goes on, but for what firmware stopped (R918). -/
def undoLevel3 (s : Block) : Block :=
  let s := (partyThreads s).foldl weirGo s
  let s := (s.cores.filter fun c => !isSystem c.1).foldl (fun s c => resumeCore c.1 s) s
  let s := s.basins.foldl (fun s b => resumeAll (.tm b.1) (resumeBasin b.1 s)) s
  (List.range 8).foldl (fun s k => resumeAll (.sysTm k) s) s

/-- The level falls to `n`. -/
def weirDrop (n : Nat) (s : Block) : Block :=
  let old := s.lock.level
  let s := s.modLock fun x => countWeir n { x with level := n }
  if old = 3 then sendWeirNotice n (undoLevel3 s) else s

/-- The lowest level SAG_N allows (R917). -/
def sagFloor (x : LockKeeper) : Nat := if x.sagLow then max x.sagLevel.toNat 1 else 0

/-- Weir levels are acted on while the main rails are up; level 4 is entered from level 3 (R919). -/
def applyWeir (s : Block) : Block :=
  let n := triggered s.lock
  if !s.th.mainUp then s
  else if n = 5 then platformEvent 2 (standby 5 s)
  else if s.lock.level = 4 then s
  else weirRise (max (min n 3) (sagFloor s.lock)) s

/-- VIN_SAMPLE: the last four samples are averaged; a tollhouse rail below its limit is level 5 (R915). -/
def vinSample (dv : Nat) (droop railLow : Bool) (s : Block) : Block :=
  if !s.th.railUp then s
  else
    let s := s.modLock fun x =>
      let h := (dv :: x.vinHist).take 4
      { x with vinHist := h, vinDv := h.sum / h.length, droop := droop }
    let s := s.modLock fun x => { x with trigger := triggered x }
    if railLow then (if s.th.mainUp then platformEvent 2 (standby 5 s) else s) else tryPowerUp (applyWeir s)

def execVinSample (vinDv : Nat) (droop railLow : Bool) (s : State) : Result := onBlock s fun s => .next (vinSample vinDv droop railLow s)

/-- The trigger of a level is absent: VIN at or above its threshold plus 1 V, and no droop for level 1 (R916). -/
def triggerGone (x : LockKeeper) (n : Nat) : Bool := !vinBelow x (weirDv n + 10) && (n != 1 || !x.droop)

/-- WEIR_FALL: the level's trigger has been absent, and the level unchanged, for 1 ms (R916). -/
def weirFall (s : Block) : Block :=
  let n := s.lock.level
  if n = 0 || n = 4 || !s.th.mainUp || !triggerGone s.lock n || n - 1 < sagFloor s.lock then s else weirDrop (n - 1) s

def execWeirFall (s : State) : Result := onBlock s fun s => .next (weirFall s)

/-- SAG_N_EDGE (R917). -/
def sagEdge (high : Bool) (s : Block) : Block :=
  if !s.th.railUp then s else applyWeir (s.modLock fun x => { x with sagLow := !high })

def execSagNEdge (high : Bool) (s : State) : Result := onBlock s fun s => .next (sagEdge high s)

/-- Level 4: HBM3E refreshes itself, the compute dies and the system cores are gated (R919); level 3 is left, of which the peers
are told (R922). -/
def weirLevel4 (s : Block) : Block :=
  if s.lock.level = 3 && s.th.mainUp && vinBelow s.lock 400 then
    let s := sendWeirNotice 4 (s.modLock fun x => { x with level := 4 })
    let stop := fun (t : Thread) => match t.st with
      | .ready | .waiting | .parked => { t with st := .stopped }
      | _ => t
    let gate := fun (n : Nat) (c : Core) => if isSystem n then { c with threads := c.threads.map fun (t : Nat × Thread) => (t.1, stop t.2) } else c
    let s := { s with cores := s.cores.map fun (c : Nat × Core) => (c.1, gate c.1 c.2) }
    platformEvent 2 { s with th := { s.th with stage := .degraded } }
  else s

def execWeirLevel4Entry (s : State) : Result := onBlock s fun s => .next (weirLevel4 s)

/-- Firmware tells each partition's function that its work is lost (R920). -/
def postLost (s : Block) : Block :=
  s.contexts.foldl (fun s c => if c.1 = 0 then s else postFirmware (s.fnOfPart c.2.part) .refusedSag c.1 [] s) s

/-- WEIR_LEVEL4_EXIT: level 4's trigger has been absent for 1 ms, and the device resets warm (R920). -/
def weirLevel4Exit (s : Block) : Block :=
  if s.lock.level = 4 && !vinBelow s.lock 410 then postLost (warmReset 3 s) else s

def execWeirLevel4Exit (s : State) : Result := onBlock s fun s => .next (weirLevel4Exit s)

/-- The weir level as the tollhouse reports it: level 5 while it holds the module in reset (R916, R921). -/
def weirNow (s : Block) : Nat := if !s.th.mainUp && s.th.lastReset == 5 then 5 else s.lock.level

/-! ### Unit power states (R924–R928) -/

def GateRef.ok : GateRef → Bool
  | .core c _ => decide (c < 4096)
  | .basin b _ => decide (b < 256)

/-- The queues of a gateable unit. -/
def gateQueues : GateRef → List QueueRef
  | .core c false => [.mx c, .cx c]
  | .core c true => [.vx c]
  | .basin b false => [.mv b]
  | .basin b true => [.up b]

/-- A write of U0_EN or U1_EN to 0. A unit that is starting stops (assumption 50). -/
def unitStop (u : GateRef) (s : Block) : Block :=
  let g := s.gate u
  let held := (gateQueues u).any fun q => (s.queue q).any (·.hold)
  s.setGate u { g with en := false, pendingEn := g.pendingEn && held
                       st := match g.st with
                         | .on | .starting => .stopping
                         | st => st }

def execUnitStop (u : GateRef) (s : State) : Result := onBlock s fun s => within (GateRef.ok u) s (unitStop u)

/-- A write to 1 (R926). -/
def unitEnable (u : GateRef) (s : Block) : Block :=
  let g := s.gate u
  s.setGate u (match g.st with
    | .off => { g with en := true, st := .starting }
    | .stopping => { g with en := true, pendingEn := true }
    | _ => { g with en := true })

def execUnitEnable (u : GateRef) (s : State) : Result := onBlock s fun s => within (GateRef.ok u) s (unitEnable u)

/-- A STOPPING unit whose running command has completed is OFF, or starts again at once for a pending enable (R926). -/
def unitGated (u : GateRef) (s : Block) : Block :=
  let g := s.gate u
  let busy := (gateQueues u).any fun q => (s.queue q).any fun c => c.phase == .running
  if g.st ≠ .stopping || busy then s
  else s.setGate u { g with st := if g.pendingEn then .starting else .off, pendingEn := false }

def execUnitGated (u : GateRef) (s : State) : Result := onBlock s fun s => within (GateRef.ok u) s (unitGated u)

def unitStarted (u : GateRef) (s : Block) : Block :=
  let g := s.gate u
  if g.st = .starting then s.setGate u { g with st := .on } else s

def execUnitStarted (u : GateRef) (s : State) : Result := onBlock s fun s => within (GateRef.ok u) s (unitStarted u)

/-! ### Rates, VCORE and ticket mode (R69, R74, R75, R78–R81, R901, R1014) -/

def Block.lmDie (s : Block) (d : Nat) : LmDie := SMap.get LmDie.init d s.lm.dies
def Block.modLmDie (s : Block) (d : Nat) (f : LmDie → LmDie) : Block :=
  { s with lm := { s.lm with dies := SMap.put LmDie.init d (f (s.lmDie d)) s.lm.dies } }
def Block.lmBasin (s : Block) (b : Nat) : LmBasin := SMap.get LmBasin.init b s.lm.basins
def Block.modLmBasin (s : Block) (b : Nat) (f : LmBasin → LmBasin) : Block :=
  { s with lm := { s.lm with basins := SMap.put LmBasin.init b (f (s.lmBasin b)) s.lm.basins } }

/-- The effective target of a die (R75). -/
def dieVcore (s : Block) (d : Nat) : Nat := min 800 (s.gl.vcoreTarget.toNat + (s.lmDie d).offsetMv.toNat)

/-- VCORE_EFFECTIVE_MV: one field for eight offsets shows the greatest (DESIGN CHOICE, assumption 51). -/
def vcoreEffective (s : Block) : Nat := (List.range 8).foldl (fun a d => max a (dieVcore s d)) 0

/-- A fraction in whole steps; which way it is rounded is not stated. -/
def roundEither (a d : Nat) (s : Block) : Nat × Block :=
  if a % d = 0 then (a / d, s)
  else
    let (k, s) := s.freeBelow 2
    (a / d + k, s)

/-- SCALE of a die from a window (R901): (V ÷ 700 mV)² × (R ÷ 1.60 G/s) with 12 fraction bits; how it is rounded is not
stated. -/
def windowScale (mv waves : Nat) (s : Block) : Nat × Block :=
  let n := mv * mv * waves * 4096
  let (k, s) := roundEither n (490000 * 1600000) s
  (min k 65535, s)

/-- One die's rate window ends. -/
def dieWindow (w : RateSample) (s : Block) (d : Nat) : Block :=
  let waves := w.waves.getD d 0 % 2 ^ 32
  let mv := w.vcoreMv.getD d 0 % 1024
  let r : DieRate := { waves := BitVec.ofNat 32 waves, vcoreMv := BitVec.ofNat 10 mv, tjC := BitVec.ofNat 8 (min (w.tjC.getD d 0) 255)
                       capped := w.capped.getD d false }
  let (k, s) := windowScale mv waves s
  { s with gl := { s.gl with dieRate := SMap.put .init d r s.gl.dieRate }
           lock := { s.lock with scale := SMap.put 0x1000 d (BitVec.ofNat 16 k) s.lock.scale } }

/-- RATE_WINDOW. -/
def rateWindow (w : RateSample) (s : Block) : Block :=
  if !s.th.mainUp then s
  else
    let s := (List.range 8).foldl (dieWindow w) s
    let off := fun (d : Nat) =>
      let mv := w.vcoreMv.getD d 0 % 1024
      decide (mv + 5 < dieVcore s d) || decide (dieVcore s d + 5 < mv)
    { s with gl := { s.gl with slewing := (List.range 8).any off
                               ioC := [0, 1].map fun i => BitVec.ofNat 8 (min (w.ioC.getD i 0) 255) } }

def execRateWindow (sample : RateSample) (s : State) : Result := onBlock s fun s => .next (rateWindow sample s)

/-- A write of `GL_VCORE_CTRL`: firmware's is clamped and takes effect without a stop; a host's has no effect (R69, R77). -/
def writeVcore (w : Nat) (s : Block) : Block :=
  let v := bitsOf w 0 10
  let mv := if v < 600 then 600 else if 800 < v then 800 else v
  let s' := { s with gl := { s.gl with vcoreTarget := BitVec.ofNat 10 mv } }
  { s' with gl := { s'.gl with slewing := s.gl.slewing || vcoreEffective s' != vcoreEffective s } }

def execGlVcoreCtrl (actor : Actor) (value : U64) (s : State) : Result := onBlock s fun s =>
  within true s fun s => match actor with
    | .fw => writeVcore value.toNat s
    | .host _ => s

/-- Every thread of the partition is parked, or runs no program, every queue empty, every towpath queue idle (R80). That
FREE, STOPPED and HALTED threads count as parked is a DESIGN CHOICE (assumption 96). -/
def partQuiet (s : Block) (x : Partition) : Bool :=
  let cores := x.basins.flatMap fun b => (List.range 16).map fun k => b * 16 + k
  cores.all (fun c => coreIdle s c && (s.core c).threads.all fun t => t.2.st != .ready && t.2.st != .waiting)
    && x.basins.all fun b => (s.basin b).rd.isEmpty && (s.basin b).tm.isEmpty && (s.basin b).mv.isEmpty && (s.basin b).up.isEmpty

/-- The keys of a partition's queues. -/
def partQueueKeys (x : Partition) : List Nat :=
  x.basins.flatMap fun b =>
    [QueueRef.mv b, .up b, .rd b, .tm b].map QueueRef.key
      ++ ((List.range 16).map fun k => b * 16 + k).flatMap fun c => [QueueRef.mx c, .cx c, .vx c, .tw c].map QueueRef.key

/-- TICKET_MODE_CHANGE: the requested mode takes effect, and every grant sequence of the partition restarts at 0 (R80, R208). -/
def ticketModeChange (p : Nat) (s : Block) : Block :=
  match SMap.find p s.parts with
  | none => s
  | some x =>
    let want := bitOf s.gl.ticketReq.toNat p
    if want = bitOf s.gl.ticketAct.toNat p || !partQuiet s x then s
    else
      { s with gl := { s.gl with ticketAct := setBit64 s.gl.ticketAct p want
                                 grantQ := s.gl.grantQ.filter (fun e => !(partQueueKeys x).contains e.1)
                                 grantLk := s.gl.grantLk.filter (fun e => e.1 % 64 != p)
                                 grantTlb := s.gl.grantTlb.filter (fun e => !x.basins.contains e.1) } }

def execTicketModeChange (part : Nat) (s : State) : Result := onBlock s fun s => within (decide (part < 64)) s (ticketModeChange part)

/-! ### Fencing and spares (R933–R939) -/

/-- A retirement or reinstatement is written to the log (R938). -/
def logAct (b : Nat) (a : LogAct) (s : Block) : Block :=
  let bytes := match a with
    | .bind l p k => [b, 1, l, p, k]
    | .fence p => [b, 2, p]
    | .retire => [b, 3]
    | .reinstate p => [b, 4, p]
  let mac := Config.logMac Config.deviceSecret (bytes.map fun n => BitVec.ofNat 8 n)
  { s with lm := { s.lm with log := s.lm.log ++ [{ basin := b, act := a, mac := mac }] } }

/-- Firmware tells the function of each partition that had threads on a core (R935). -/
def postFenced (c : Nat) (s : Block) : Block :=
  if (s.core c).ctx.isNone || (s.core c).allFree then s
  else postEvent (s.fnOfBasin (basinOf c)) .fenced 0x10 (basinOf c) ((s.ctxOf c).getD 0xFFFF) (c % 16) [] s

/-- A core's threads and work are lost; it is as scrubbed, and bound to no context. -/
def loseCore (c : Nat) (s : Block) : Block :=
  let s := abortCmds [c] .fenced (landThreads [c] (postFenced c s))
  let s := s.setCore c (Core.scrub (s.core c))
  { s with contexts := s.contexts.map fun (x : Nat × Context) => (x.1, { x.2 with cores := x.2.cores.filter fun k => k != c }) }

/-- Firmware removes a basin from its partition; a TDI of it that is locked or runs enters ERROR (R826, R937). -/
def removeBasin (b : Nat) (s : Block) : Block :=
  match s.partOfBasin b with
  | none => s
  | some p =>
    let s := s.modPart p fun x => { x with basins := x.basins.filter fun k => k != b }
    { s with host := { s.host with fns := s.host.fns.map fun (f : Nat × Func) =>
      (f.1, if f.2.bound = some p && (f.2.tdi = .locked || f.2.tdi = .run) then { f.2 with tdi := .error } else f.2) } }

/-- A basin is retired (R937). -/
def retireBasin (b : Nat) (s : Block) : Block :=
  let s := ((List.range 16).map fun k => b * 16 + k).foldl (fun s c => loseCore c s) s
  removeBasin b (s.modBasin b fun x => { x with retired := true, tested := 0 })

/-- A logical slot is bound to the spare, and its old core is fenced. -/
def bindSpare (b l p : Nat) (s : Block) : Block :=
  s.modBasin b fun x =>
    { x with phys := SMap.set l x.spare x.phys, fencedSlots := x.fencedSlots ||| (1#17 <<< p), spare := 0x1F }

/-- An operation of `BS_SPARE_CTRL` completes; PSLOT and OP read as they were last written (R14). -/
def spareDone (b : Nat) (st : Status) (s : Block) : Block := s.modBasin b fun x => { x with spareGo := false, spareResult := st }

/-- A write of `BS_SPARE_CTRL` asks for an operation: PSLOT and OP are stored, and the operation starts unless one runs. -/
def askSpare (b p op : Nat) (start : Block → Block) (s : Block) : Block :=
  let busy := (s.basin b).spareGo
  let s := s.modBasin b fun x => { x with sparePslot := p, spareOp := op }
  if busy then s else start s

/-- COPY: the core is stopped and every thread STOPPED or FREE (R933). A slot that holds no logical slot's core has nothing to
copy (assumption 52). -/
def copyCore (b p : Nat) (s : Block) : Block :=
  if (s.basin b).spare = 0x1F then spareDone b .fenced s
  else
    match coreAt s b p with
    | none => spareDone b .internal s
    | some c =>
      let still := (s.core c).threads.all fun t => t.2.st == .stopped || t.2.st == .free
      if !(s.core c).regs.stopReq || !coreAtRest s c || !still then spareDone b .busy s
      else spareDone b .ok (logAct b (.bind (c % 16) (s.basin b).spare p) (bindSpare b (c % 16) p s))

def execCopyCore (basin pslot : Nat) (s : State) : Result := onBlock s fun s =>
  within (decide (basin < 256) && decide (pslot < 17)) s (askSpare basin pslot 1 (copyCore basin pslot))

/-- DEAD (R933, R935). With no spare left the operation changes nothing; the core is then the second that is retired, and so
is its basin (R937; assumption 52). -/
def deadCore (b p : Nat) (s : Block) : Block :=
  match coreAt s b p with
  | none => spareDone b (if (s.basin b).spare = 0x1F then .fenced else .internal) s
  | some c =>
    if (s.basin b).spare = 0x1F then
      let s := spareDone b .fenced s
      if (s.basin b).retired then s else logAct b .retire (retireBasin b s)
    else spareDone b .ok (logAct b (.bind (c % 16) (s.basin b).spare p) (bindSpare b (c % 16) p (loseCore c s)))

def execDeadCore (basin pslot : Nat) (s : State) : Result := onBlock s fun s =>
  within (decide (basin < 256) && decide (pslot < 17)) s (askSpare basin pslot 2 (deadCore basin pslot))

/-- TEST (R933). A pass counts toward reinstatement (R939). -/
def testCore (b p : Nat) (pass : Bool) (s : Block) : Block :=
  if (s.partOfBasin b).isSome then spareDone b .busy s
  else
    let s := s.modBasin b fun x =>
      { x with tested := if pass then x.tested ||| (1#17 <<< p) else x.tested &&& ~~~(1#17 <<< p) }
    spareDone b (if pass then .ok else .internal) s

/-- The row of TEST: the end of one that a register write started, or a write that starts it and its end. -/
def runTest (b p : Nat) (pass : Bool) (s : Block) : Block :=
  if (s.basin b).spareGo then testCore b p pass s else askSpare b p 3 (testCore b p pass) s

def execTestCore (basin pslot : Nat) (pass : Bool) (s : State) : Result := onBlock s fun s =>
  within (decide (basin < 256) && decide (pslot < 17)) s (runTest basin pslot pass)

/-! ### The lengthsman (R929–R932, R939) -/

/-- A margin after its delay line has been lengthened (R930, R931 step 1). -/
def lengthen (target : Nat) (m : Margin) : Margin × Nat :=
  if target ≤ m.ps || m.longest then (m, 0)
  else
    let k := ceilDiv (target - m.ps) 2
    ({ m with ps := m.ps + 2 * k }, k)

/-- The worst margin of some. -/
def worstOf : List Margin → Option Margin
  | [] => none
  | m :: l => match worstOf l with
    | some w => some (if w.ps < m.ps then w else m)
    | none => some m

/-- Ticks of the timebase in a tenth of a year of 365.25 days (assumption 53). -/
def tenthYear : Nat := 315576000000000

/-- Remaining life in tenths of a year, as a fraction: (margin − 24 ps) over the drift, the slope of the least-squares line
through the margins (R932). A margin that does not fall has the longest life. -/
def lifeOf (ps : Nat) (h : List (Nat × Nat)) : Nat × Nat :=
  let n := h.length
  let st := (h.map (·.1)).sum
  let sm := (h.map (·.2)).sum
  let stm := (h.map fun p => p.1 * p.2).sum
  let stt := (h.map fun p => p.1 * p.1).sum
  if st * sm ≤ n * stm then (254, 1) else ((ps - 24) * (n * stt - st * st), (st * sm - n * stm) * tenthYear)

/-- The register fields of a basin after a calibration. -/
def basinMargins (ms : List Margin) (s : Block) (b : Nat) : Block :=
  match worstOf (ms.filter fun m => m.basin == b) with
  | none => s
  | some w =>
    let hist := ((s.gl.timebase.toNat, w.ps) :: (s.lmBasin b).hist).take 64
    let f := lifeOf w.ps hist
    let (life, s) := if s.lm.cals < 8 then (0xFF, s) else roundEither f.1 f.2 s
    let rul := if s.lm.cals < 8 then 0xFF else min life 254
    s.modLmBasin b fun x =>
      { x with minMargin := BitVec.ofNat 8 (min w.ps 255), worst := BitVec.ofNat 5 w.path, rulDy := BitVec.ofNat 8 rul, hist := hist }

/-- The register fields of a die. -/
def dieMargins (ms : List Margin) (s : Block) (d : Nat) : Block :=
  match worstOf (ms.filter fun m => dieOfBasin m.basin == d) with
  | none => s
  | some w =>
    let rul := ((List.range 32).map fun k => (s.lmBasin (32 * d + k)).rulDy.toNat).foldl min 0xFF
    s.modLmDie d fun x => { x with minMargin := BitVec.ofNat 8 (min w.ps 255), rulDy := BitVec.ofNat 8 rul }

/-- The least and the most that a new part's rate at 65 °C can be at a VCORE, in units of 10 M/s: the entries of R70's table, and
between two of them a rate that R71 leaves open. -/
def rate65 (mv : Nat) : Nat × Nat :=
  let l : List Nat := [112, 125, 138, 149, 160, 170, 180, 188, 196]
  let i := min ((mv - 600) / 25) 8
  let lo := l.getD i 196
  if (mv - 600) % 25 = 0 then (lo, lo) else (lo, l.getD (i + 1) 196)

/-- A rate cap stays at or above RATE_FLOOR_PCT of the rate of R70 at the die's VCORE (R931 step 2); `told` where that rate is left
open. -/
def capFloor (s : Block) (d cap : Nat) (told : Bool) : Bool :=
  let r := rate65 (dieVcore s d)
  let pct := s.lm.floorPct.toNat
  if pct * r.2 ≤ 100 * cap then true else if 100 * cap < pct * r.1 then false else told

/-- Steps 2 to 4 of R931, for a die with a margin that no delay line restores: the cap falls by 10 M/s, or the offset rises by
5 mV, or the basin is to be retired. -/
def replan (capOk : Bool) (d : Nat) (m : Margin) (s : Block) : Block :=
  let x := s.lmDie d
  let cap := if x.rateCap = 0x3FF then (SMap.get DieRate.init d s.gl.dieRate).waves.toNat / 10000 else x.rateCap.toNat
  if 0 < cap && capFloor s d (cap - 1) capOk then s.modLmDie d fun x => { x with rateCap := BitVec.ofNat 10 (min (cap - 1) 0x3FE) }
  else if s.gl.vcoreTarget.toNat + x.offsetMv.toNat + 5 ≤ 800 && x.offsetMv.toNat + 5 < 256 then
    s.modLmDie d fun x => { x with rateCap := 0x3FF, offsetMv := x.offsetMv + 5 }
  else
    let s := s.modLmBasin m.basin fun x => { x with retireReq := true, worst := BitVec.ofNat 5 m.path }
    postEvent 0 .fenced 0x03 m.basin 0xFFFF 0xFF [] s

/-- Reinstatement (R939): a basin in no partition whose 17 slots have all passed TEST and whose margins all meet the target
has its fences cleared; the core that no logical slot names becomes its spare. -/
def reinstate (target : Nat) (ms : List Margin) (s : Block) (b : Nat) : Block :=
  let x := s.basin b
  let mine := ms.filter fun m => m.basin == b
  if (s.partOfBasin b).isSome || (x.fencedSlots = 0 && !x.retired) || x.tested ≠ 0x1FFFF || mine.isEmpty
      || mine.any (fun m => m.ps < target) then s
  else
    match (List.range 17).find? fun p => (coreAt s b p).isNone with
    | none => s
    | some p => logAct b (.reinstate p) (s.modBasin b fun x => { x with fencedSlots := 0, retired := false, spare := p, tested := 0 })

/-- A calibration from what it measures. -/
def calibrate (x : CalSample) (s0 : Block) : Block :=
  let s := s0
  let target := s.lm.targetPs.toNat
  let ok := x.margins.filter fun m => m.basin < 256 && m.path < 32
  let steps := ok.map fun m => (m, lengthen target m)
  let ms := steps.map fun p => p.2.1
  let s := steps.foldl (fun s p =>
    let k := p.1.basin * 32 + p.1.path
    { s with lm := { s.lm with delay := SMap.put 0 k (SMap.get 0 k s.lm.delay + p.2.2) s.lm.delay } }) s
  let s := { s with lm := { s.lm with cals := s.lm.cals + 1, busy := false } }
  let s := (List.range 256).foldl (basinMargins ms) s
  let s := (List.range 8).foldl (dieMargins ms) s
  let short := ms.filter fun m => m.ps < target
  let s := (List.range 8).foldl (fun s d =>
    match worstOf (short.filter fun m => dieOfBasin m.basin == d) with
    | some m => replan (x.capFloorOk.getD d false) d m s
    | none => s) s
  let s := (List.range 256).foldl (reinstate target ms) s
  let behind := (List.range 8).any fun d => dieVcore s d != dieVcore s0 d
  { s with gl := { s.gl with slewing := s.gl.slewing || behind } }

/-- Start-up's calibration sets each delay line to the shortest setting that meets the target (R930). -/
def startCalibrate (x : CalSample) (s : Block) : Block := calibrate x { s with lm := { s.lm with delay := [] } }

def execCalibrationPeriod (sample : CalSample) (s : State) : Result := onBlock s fun s =>
  .next (if s.th.mainUp then calibrate sample s else s)
def execCalNow (sample : CalSample) (s : State) : Result := onBlock s fun s => .next (if s.th.mainUp then calibrate sample s else s)

end Sys2Proof.Machine
end

