-- ==== Sys2Proof/Machine/Startup.lean ====
section
/-! DEFINITION. Power-up, the stages of start-up, the tollhouse's operations and the sideband (R941–R979, R827–R829, R997,
R998). Platform events: 0 READY, 1 FAILED, 2 a weir level of 3 or above, 3 a junction at 105 °C, 4 a thermal trip. -/

namespace Sys2Proof.Machine

def Block.modTh (s : Block) (f : Tollhouse → Tollhouse) : Block := { s with th := f s.th }

/-! ### Rails and pins (R941–R949, R963, R968, R997, R998) -/

/-- TOLLHOUSE_RAIL_UP: a cold start; the device secret and the identity, or the failure of R819, and the MOD_ID straps
(R942, R999). -/
def railUp (helperOk : Bool) (modId : BitVec 4) (s : Block) : Block :=
  if s.th.railUp then s
  else
    let s := s.modAttest fun a => { a with identityOk := helperOk, secretUp := true }
    tryPowerUp (s.modTh fun t => { t with railUp := true, modId := modId, stage := .link, lastReset := 0, armed := t.pwrEn })

def execTollhouseRailUp (helperOk : Bool) (modId : BitVec 4) (s : State) : Result := onBlock s fun s => .next (railUp helperOk modId s)

/-- TOLLHOUSE_RAIL_DOWN: nothing is left but module flash, what the host's memory holds and the levels of the input pins. -/
def railDown (s : Block) : Block :=
  if !s.th.railUp then s
  else
    let r := Block.reset
    { r with
      freeCtr := s.freeCtr, nextId := s.nextId
      mem := { r.mem with host := s.mem.host, hostBad := s.mem.hostBad }
      lm := { r.lm with log := s.lm.log }
      lock := { r.lock with sagLow := s.lock.sagLow }
      th := { r.th with flashA := s.th.flashA, flashB := s.th.flashB, pwrEn := s.th.pwrEn, perstN := s.th.perstN, refclk := s.th.refclk } }

def execTollhouseRailDown (s : State) : Result := onBlock s fun s => .next (railDown s)

def execInrushDone (s : State) : Result := onBlock s fun s =>
  .next (if s.th.railUp then tryPowerUp (s.modTh fun t => { t with inrush := true }) else s)

/-- PWR_EN_RISE. After a thermal trip PWR_EN must have been low for 1 s; how long it was low is not told here, so either may
be (assumption 49). -/
def pwrEnRise (s : Block) : Block :=
  if s.th.pwrEn then s
  else
    let s := s.modTh fun t => { t with pwrEn := true }
    if s.th.needLow then
      let (k, s) := s.freeBelow 2
      if k = 0 then s else tryPowerUp (s.modTh fun t => { t with needLow := false, armed := true })
    else tryPowerUp (s.modTh fun t => { t with armed := true })

def execPwrEnRise (s : State) : Result := onBlock s fun s => .next (pwrEnRise s)

/-- PWR_EN_FALL: standby; LAST_RESET has no code for it, and holds what it holds (assumption 49). -/
def pwrEnFall (s : Block) : Block :=
  if !s.th.pwrEn then s
  else
    let s := s.modTh fun t => { t with pwrEn := false, armed := false, thermTripN := true }
    if s.th.mainUp then
      let (k, s) := s.freeBelow 8
      standby k s
    else s

def execPwrEnFall (s : State) : Result := onBlock s fun s => .next (pwrEnFall s)

/-- PERST_N_FALL: a module reset; the link waits for PERST_N's release. -/
def perstFall (s : Block) : Block :=
  if s.th.perstN then moduleReset 1 (s.modTh fun t => { t with perstN := false }) else s

def execPerstNFall (s : State) : Result := onBlock s fun s => .next (perstFall s)

/-- PERST_N_RISE: the link trains, and start-up waits for its bundle. -/
def perstRise (s : Block) : Block := if s.th.perstN then s else linkUp (s.modTh fun t => { t with perstN := true })

def execPerstNRise (s : State) : Result := onBlock s fun s => .next (perstRise s)

def execRefclkChange (present : Bool) (s : State) : Result := onBlock s fun s => .next (s.modTh fun t => { t with refclk := present })

/-- CURRENT_LIMIT_TRIP: standby, as by POWER_OFF (R997). -/
def execCurrentLimitTrip (s : State) : Result := onBlock s fun s => .next (if s.th.mainUp then standby 7 (endOps s) else s)

/-- A configuration request is answered, with the function's identification (R833), or completes with Request Retry Status. -/
def configAnswer (f : Nat) (yes : Bool) (s : Block) : Block :=
  (s.modTh fun t => { t with cfgUp := yes }).modFunc f fun x =>
    { x with cfgRetry := !yes, cfgReply := if yes then configIds f else x.cfgReply }

/-- CONFIG_REQUEST: answered 120 ms after PERST_N's release at the latest, and from the first answer on; before that it may
be answered or completes with Request Retry Status (R948). -/
def configRequest (f : Nat) (s : Block) : Block :=
  if !s.th.mainUp || !s.th.perstN then s
  else if s.th.cfgUp || s.th.perstAt + 12000000 ≤ s.gl.timebase.toNat then configAnswer f true s
  else
    let (k, s) := s.freeBelow 2
    configAnswer f (k == 0) s

def execConfigRequest (fn : Nat) (s : State) : Result := onBlock s fun s => within (decide (fn < 64)) s (configRequest fn)

/-- THERMAL_SAMPLE (R975, R978). -/
def thermalSample (dieC stackC : List Nat) (s : Block) : Block :=
  if !s.th.mainUp then s
  else if dieC.any (fun t => 115 ≤ t) || stackC.any (fun t => 105 ≤ t) then
    let s := standby 6 (endOps s)
    platformEvent 4 (s.modTh fun t => { t with thermTripN := false, needLow := true })
  else if dieC.any (fun t => 105 ≤ t) && !s.th.events.contains 3 then platformEvent 3 s
  else s

def execThermalSample (dieC stackC : List Nat) (s : State) : Result := onBlock s fun s => .next (thermalSample dieC stackC s)

/-- The averages of `TH_TELEM` and of the sensors. -/
def putTelemetry (w tj dv : Nat) (s : Block) : Block :=
  s.modTh fun t => { t with powerW := BitVec.ofNat 13 w, tjC := BitVec.ofNat 8 (min tj 255), vinDv := BitVec.ofNat 10 dv }

def execTelemetryPeriod (powerW tjC vinDv : Nat) (s : State) : Result := onBlock s fun s =>
  .next (if s.th.railUp then putTelemetry powerW tjC vinDv s else s)

/-! ### Bundles and configuration records (R827–R829, R953–R961) -/

def envBody (b : List Byte) : Nat := fld b 0x10 4
def bundleMagic : List Byte := [0x48#8, 0x46#8, 0x57#8, 0x42#8]
def recordMagic : List Byte := [0x48#8, 0x43#8, 0x46#8, 0x47#8]

/-- The form of an envelope: its magic, its reserved fields, and exactly its length (R827, R954). -/
def envForm (magic b : List Byte) : Bool :=
  b.take 4 == magic && fld b 4 2 == 1 && allZero b 6 2 && b.length == 0x44 + envBody b + 384 + 16224

/-- Both signatures verify under the root keys. -/
def envSigned (b : List Byte) : Bool :=
  let n := 0x44 + envBody b
  let m := b.take n
  Config.rsaVerify Config.rootRsa m ((b.drop n).take 384) && Config.slhVerify Config.rootSlh m ((b.drop (n + 384)).take 16224)

def bundleForm (b : List Byte) : Bool := envForm bundleMagic b && allZero b 0x14 48

def partNumber : List Byte := ascii "HTS-4096-M" ++ zeros 6

/-- A repair entry (R958). -/
structure Repair where
  basin : Nat
  slot : Nat
  pslot : Nat
  retired : Bool
  deriving DecidableEq, Repr

/-- The body of a configuration record: its repair entries and its sequence number (R958). -/
def recordBody (d : List Byte) : Option (List Repair × Nat) :=
  let n := fld d 2 2
  let words := (List.range n).map fun i => fld d (0x20 + 4 * i) 4
  if fld d 0 2 == 1 && n ≤ 4352 && 1 ≤ fld d 4 4 && (d.drop 8).take 16 == partNumber && allZero d 0x18 8 && d.length == 0x20 + 4 * n
      && words.all (fun w => bitsOf w 12 5 ≤ 16 && w / 2 ^ 18 == 0) then
    some (words.map fun w => { basin := bitsOf w 0 8, slot := bitsOf w 8 4, pslot := bitsOf w 12 5, retired := bitOf w 17 }, fld d 4 4)
  else none

/-- A configuration record that may be applied (R829, R959). -/
def recordIn (b : List Byte) : Option (List Repair × Nat) :=
  if envForm recordMagic b && allZero b 8 8 && (b.drop 0x14).take 48 == deviceId && envSigned b then
    recordBody ((b.drop 0x44).take (envBody b))
  else none

/-- BUNDLE_GO: a write of `TH_BOOT` (R953, R955). -/
def bundleGo (w : Nat) (s : Block) : Block :=
  if !s.th.mainUp then s
  else
    let n := bitsOf w 0 28
    let s := s.modTh fun t => { t with bundleLen := BitVec.ofNat 28 n }
    if bitOf w 28 && s.th.stage = .waitBundle then
      s.modTh fun t => { t with bootGo := true, bundle := Mem.read t.bar2 0 n, stage := .verify, fail := 0 }
    else s

def execBundleGo (value : U64) (s : State) : Result := onBlock s fun s => .next (bundleGo value.toNat s)

/-- STAGE_VERIFY_DONE (R827, R828, R954, R956). -/
def verifyDone (s : Block) : Block :=
  if s.th.stage ≠ .verify then s
  else
    let b := s.th.bundle
    let bad := fun (code : Nat) => s.modTh fun t => { t with stage := .waitBundle, bootGo := false, fail := code, bar2 := [], bundle := [] }
    if !bundleForm b then bad 2
    else if !envSigned b then bad 1
    else
      let s := s.modTh fun t => { t with stage := .config, bootGo := false, accepted := b, bundle := [] }
      s.modAttest fun a => { a with meas2 := sha384 b, fwVersion := BitVec.ofNat 32 (fld b 8 4), fwSvn := BitVec.ofNat 32 (fld b 0xC 4) }

def execStageVerifyDone (s : State) : Result := onBlock s fun s => .next (verifyDone s)

/-- Start-up stops. -/
def failStart (code : Nat) (s : Block) : Block := platformEvent 1 (s.modTh fun t => { t with stage := .failed, fail := code })

/-- A repair entry binds a logical slot and fences the one it would otherwise take, or retires the basin (R960). -/
def applyRepair (s : Block) (r : Repair) : Block :=
  s.modBasin r.basin fun x =>
    if r.retired then { x with retired := true }
    else
      let old := SMap.get r.slot r.slot x.phys
      { x with phys := SMap.set r.slot r.pslot x.phys, fencedSlots := x.fencedSlots ||| (1#17 <<< old)
               spare := if r.pslot = x.spare then 0x1F else x.spare }

/-- A log entry is applied (R938). -/
def applyLog (s : Block) (e : LogEntry) : Block :=
  s.modBasin e.basin fun x => match e.act with
    | .bind l p k => { x with phys := SMap.set l p x.phys, fencedSlots := x.fencedSlots ||| (1#17 <<< k), spare := 0x1F }
    | .fence p => { x with fencedSlots := x.fencedSlots ||| (1#17 <<< p), spare := 0x1F }
    | .retire => { x with retired := true }
    | .reinstate p => { x with fencedSlots := 0, retired := false, spare := p }

/-- The bytes an entry's HMAC covers. -/
def LogEntry.good (e : LogEntry) : Bool :=
  e.basin < 256 && (logAct e.basin e.act Block.reset).lm.log == [e]

/-- System core `i` runs firmware from its first instruction (assumption 4). -/
def startSystemCore (s : Block) (i : Nat) : Block :=
  s.setCore (4096 + i) { Core.init with ctx := some 0, scrubbed := false, threads := SMap.put Thread.init 0 { Thread.init with st := .ready } [] }

/-- Firmware's own context 0, with no page table yet (assumption 7). -/
def firmwareContext : Context :=
  { mixing := false, part := 64, fn := 64, party := 0, slots := [], baseRead := [], ptRoot := 0, direct := true, seed := 0, cores := (List.range 8).map (4096 + ·),
    nextImage := 0, sched := [], runs := [], layer := 0, cursor := 0, round := 0, tickOffset := 0, svcIgnored := [] }

/-- The restart follows a warm reset. -/
def warmStart (s : Block) : Bool := s.th.lastReset == 3 || s.th.lastReset == 4

/-- STAGE_CONFIG_DONE: the system cores start, and the record in use, then the retirement log, give the substitutions
(R29, R829, R938, R959, R960). After a warm reset the copy in use stays in use (R961). -/
def configDone (s : Block) : Block :=
  if s.th.stage ≠ .config then s
  else
    let a := recordIn s.th.flashA
    let b := recordIn s.th.flashB
    let newest := match a, b with
      | some x, some y => decide (x.2 < y.2)
      | none, some _ => true
      | _, none => false
    let kept := warmStart s && !s.attest.meas5.isEmpty && (if s.th.cfgCopy then b else a).isSome
    let useB := if kept then s.th.cfgCopy else newest
    match if useB then b else a with
    | none => failStart 3 (s.modAttest fun a => { a with meas5 := zeros 48 })
    | some (rs, _) =>
      let s := s.modAttest fun a => { a with meas5 := sha384 (if useB then s.th.flashB else s.th.flashA) }
      let clean := fun (_ : Nat) (x : Basin) => { x with phys := [], fencedSlots := 0, retired := false, spare := 0x10 }
      let s := { s with basins := SMap.mapVal .init clean s.basins }
      let s := (s.lm.log.takeWhile LogEntry.good).foldl applyLog (rs.foldl applyRepair s)
      let s := (List.range 8).foldl startSystemCore s
      let s := { s with contexts := if (s.context 0).isSome then s.contexts else SMap.set 0 firmwareContext s.contexts }
      s.modTh fun t => { t with stage := .train, cfgCopy := useB }

def execStageConfigDone (s : State) : Result := onBlock s fun s => .next (configDone s)

/-- A core that fails its start-up test is handled as DEAD (R951): a spare is fenced. -/
def failCore (s : Block) (p : Nat × Nat) : Block :=
  let (b, k) := p
  let x := s.basin b
  if x.fencedSlots.getLsbD k then s
  else if x.spare = k then
    logAct b (.fence k) (s.modBasin b fun x => { x with spare := 0x1F, fencedSlots := x.fencedSlots ||| (1#17 <<< k) })
  else
    match coreAt s b k with
    | none => s
    | some c =>
      if x.spare = 0x1F then (if x.retired then s else logAct b .retire (retireBasin b s))
      else logAct b (.bind (c % 16) x.spare k) (bindSpare b (c % 16) k (loseCore c s))

/-- STAGE_TRAIN_DONE (R930, R950–R952, R963). After a warm reset nothing is calibrated, no core is tested, and stage 7 is
skipped. -/
def trainDone (r : TrainResult) (s : Block) : Block :=
  if s.th.stage ≠ .train then s
  else if !r.hbmOk then failStart 4 s
  else if !r.lpddrOk then failStart 5 s
  else
    let s := if warmStart s then s else (r.failed.filter fun p => p.1 < 256 && p.2 < 17).foldl failCore (startCalibrate r.cal s)
    let n := ((List.range 256).filter fun b => !(s.basin b).retired).length
    let s := { s with gl := { s.gl with basinsUsable := n } }
    if n < 32 then failStart 6 s else s.modTh fun t => { t with stage := if warmStart s then .release else .init }

def execStageTrainDone (result : TrainResult) (s : State) : Result := onBlock s fun s => .next (trainDone result s)

/-- STAGE_INIT_DONE: every T1 and T2 codeword zero, every core scrubbed (R542, R950). -/
def initDone (s : Block) : Block :=
  if s.th.stage ≠ .init then s
  else
    let s := { s with mem := { s.mem with t1 := [], t2 := [], t1Bad := [], t2Bad := [] }
                      cores := SMap.mapVal .init (fun n c => if isSystem n then c else Core.scrub c) s.cores }
    s.modTh fun t => { t with stage := .release }

def execStageInitDone (s : State) : Result := onBlock s fun s => .next (initDone s)

/-- STAGE_RELEASE_DONE: the module is READY; after a warm reset firmware completes a teardown that was in progress
(R962, R966, R978). -/
def releaseDone (s : Block) : Block :=
  if s.th.stage ≠ .release then s
  else
    let s := platformEvent 0 (s.modTh fun t => { t with stage := .ready, readyN := false })
    s.teardowns.foldl (fun s t => finishTeardown t s) s

def execStageReleaseDone (s : State) : Result := onBlock s fun s => .next (releaseDone s)

/-! ### Operations of the tollhouse (R971–R974) -/

/-- A message of the sideband in the vendor-defined PCI type: the vendor ID, its high byte first (assumption 48), before the
payload (R833, R976). -/
def sidebandReply (bs : List Byte) : List Byte := (leBytes 2 vendorId.toNat).reverse ++ bs

/-- The sideband's operation waits for one from the mailbox that came before it; a reset or a power-off ends that one if it is a
REPORT or a CFG_WRITE (R972). -/
def sidebandWaits (op : Nat) (s : Block) : Bool :=
  s.th.cmdGo && !(4 ≤ op && op ≤ 6 && (s.th.cmdRun == 2 || s.th.cmdRun == 7))

/-- An operation from the mailbox, which waits with its GO, or from the sideband: the state it leaves, its status and, for the
sideband, the bytes of its response beside it. -/
def thOp (src : ThSource) (op : Nat) (f : Block → Block × Status × List Byte) (s : Block) : Block :=
  if !s.th.railUp then s
  else
    match src with
    | .mailbox =>
      if !s.th.cmdGo || s.th.cmdRun.toNat ≠ op then s
      else
        let (s, st, _) := f s
        s.modTh fun t => { t with cmdGo := false, cmdResult := st }
    | .sideband _ _ =>
      if sidebandWaits op s then s
      else
        let (s, st, bs) := f s
        s.modTh fun t => { t with reply := sidebandReply (if bs.isEmpty then leBytes 1 st.code else bs) }

def execTelemetry (src : ThSource) (powerW tjC vinDv : Nat) (s : State) : Result := onBlock s fun s =>
  .next (thOp src 1 (fun s => (putTelemetry powerW tjC vinDv s, .ok, [])) s)

/-- In stages 1 to 3 and in standby a report has index 1 only (R974). -/
def earlyStage (s : Block) : Bool := !s.th.mainUp || [Stage.tollhouse, .link, .waitBundle].contains s.th.stage

/-- The report an operation makes. Without an identity its signatures are bytes that no key made (R819). -/
def thReport (nonce : List Byte) (mask : U32) (s : Block) : List Byte × Block :=
  let mask := if earlyStage s then mask &&& 2 else mask
  if s.attest.identityOk then (fullReport s nonce mask, s)
  else
    let (n, s) := s.free
    (reportBody s nonce mask ++ leBytes 16608 n, s)

/-- REPORT (R971): from the mailbox, the nonce and the report stand in the report buffer. -/
def report (src : ThSource) (s : Block) : Block :=
  thOp src 2 (fun s => match src with
    | .mailbox =>
      let (r, s) := thReport (Mem.read s.th.report 0 32) (s.th.arg.truncate 32) s
      (s.modTh fun t => { t with report := Mem.write t.report 32 (r.take (32768 - 32)) }, .ok, [])
    | .sideband arg nonce =>
      let (r, s) := thReport nonce (arg.truncate 32) s
      (s, .ok, r)) s

def execReport (src : ThSource) (s : State) : Result := onBlock s fun s => .next (report src s)

def execZeroizeAll (src : ThSource) (s : State) : Result := onBlock s fun s => .next (thOp src 3 (fun s => ({ s with slots := [] }, .ok, [])) s)

def execResetWarm (src : ThSource) (s : State) : Result := onBlock s fun s =>
  .next (thOp src 4 (fun s => (if s.th.mainUp then warmReset 4 s else s, .ok, [])) s)

def execResetModule (src : ThSource) (s : State) : Result := onBlock s fun s => .next (thOp src 5 (fun s => (moduleReset 2 s, .ok, [])) s)

def execPowerOff (src : ThSource) (s : State) : Result := onBlock s fun s =>
  .next (thOp src 6 (fun s => (if s.th.mainUp then standby 7 s else freeAllSlots s, .ok, [])) s)

/-- CFG_WRITE: the record of ARG bytes in BAR2 goes to the copy not in use (R961, R971); one that fails its checks is
refused as malformed (assumption 54). -/
def cfgWrite (src : ThSource) (s : Block) : Block :=
  thOp src 7 (fun s =>
    if s.th.stage ≠ .waitBundle && s.th.stage ≠ .ready then (s, .busy, [])
    else
      let n := match src with
        | .mailbox => s.th.arg.toNat
        | .sideband arg _ => arg.toNat
      if 0x40_0000 < n then (s, .internal, [])
      else
        let b := Mem.read s.th.bar2 0 n
        if (recordIn b).isNone then (s, .internal, [])
        else (s.modTh fun t => if t.cfgCopy then { t with flashA := b } else { t with flashB := b }, .ok, [])) s

def execCfgWrite (src : ThSource) (s : State) : Result := onBlock s fun s => .next (cfgWrite src s)

/-! ### Sideband (R976–R978) -/

/-- SET_ENDPOINT_ID; the null and broadcast identifiers are not taken (PRESUMED, DSP0236; assumption 55). -/
def execSetEndpointId (eid : Byte) (s : State) : Result := onBlock s fun s =>
  .next (if s.th.railUp && eid != 0 && eid != 0xFF then s.modTh fun t => { t with eid := eid } else s)

def execI3cDynamicAddress (_method : I3cMethod) (addr : BitVec 7) (s : State) : Result := onBlock s fun s =>
  .next (if s.th.railUp then s.modTh fun t => { t with i3cAddr := some addr } else s)

/-- The numbers of `TH_STATUS`.STAGE. -/
def Stage.code : Stage → Nat
  | .tollhouse => 0 | .link => 1 | .waitBundle => 2 | .verify => 3 | .config => 4 | .train => 5 | .init => 6 | .release => 7
  | .ready => 8 | .degraded => 9 | .failed => 10

/-- PLDM_SENSOR_READ: power quantised to 10 W (how it is rounded is not stated), the rest as measured (R977). -/
def sensorRead (x : SensorId) (s : Block) : Block :=
  let put := fun (n : Nat) (s : Block) => s.modTh fun t => { t with sensorReply := some n }
  if !s.th.railUp then s
  else
    match x with
    | .vin => put s.th.vinDv.toNat s
    | .power =>
      let w := s.th.powerW.toNat
      let (k, s) := roundEither w 10 s
      put (10 * k) s
    | .junction => put s.th.tjC.toNat s
    | .weir => put (weirNow s) s
    | .stage => put s.th.stage.code s

def execPldmSensorRead (sensor : SensorId) (s : State) : Result := onBlock s fun s => .next (sensorRead sensor s)

/-- PLATFORM_EVENT_MESSAGE: the bus owner takes the oldest event; ALERT_N is released when none waits. -/
def takeEvent (s : Block) : Block :=
  if !s.th.railUp then s else s.modTh fun t => { t with events := t.events.drop 1, alertN := (t.events.drop 1).isEmpty }

def execPlatformEventMessage (s : State) : Result := onBlock s fun s => .next (takeEvent s)

end Sys2Proof.Machine
end

