-- ==== Sys2Proof/Machine/Migration.lean ====
section
/-! DEFINITION. Migration of a virtual function to another module (R862–R872). The manual says what each record holds and, but
for PAGE, not how: the bytes are two opaque functions (assumption 56). -/

namespace Sys2Proof.Machine

/-- A page as a context maps it: its address, size and leaf. -/
structure MigLeaf where
  va : Nat
  big : Bool
  l : U64
  deriving DecidableEq, Repr

/-- What records other than PAGE hold (R869). A CORE is held as core 0 would hold it, its towpath queues also as the queue save
records of R452; FUNCTION also holds the digests of the source's base slots, by which the bindings of its requests are found
again. -/
inductive MigItem where
  | function (crs : List CmdRing) (ers : List EvRing) (basins : Nat) (ticks : List (Nat × Nat)) (reqs : List Request)
      (taken : List Taken) (chains : List Byte × List Byte) (bases : List (Nat × List Byte))
  | slot (k : Nat) (party : U128) (epoch : Nat) (cur prev : Option Secret) (set : Option U128) (rotating : Bool)
  | context (c : Context) (leaves : List MigLeaf)
  | leaf (l : U64) (len : Nat)
  | core (c : Core) (basinCmds : List (Nat × Cmd)) (queues : List (List Byte))
  | directory (entries : List (DirEntry × List (Bool × List (Nat × List Byte)))) (reservoirs : List Reservoir)
  | last (count : Nat) (digest : List Byte)

end Sys2Proof.Machine

/-- The payload bytes of a record's contents: the firmware family's, not the manual's (R869). -/
opaque Sys2Proof.Config.migBytes : Sys2Proof.Machine.MigItem → List Sys2Proof.Byte
/-- The contents that a payload of a record type spells; none where it spells none. -/
opaque Sys2Proof.Config.migItem : Nat → List Sys2Proof.Byte → Option Sys2Proof.Machine.MigItem

namespace Sys2Proof.Machine

/-! ### The form of the operations (R863) -/

/-- The VF an operation names, when it is one. -/
def migFn (t : Taken) : Option Nat := if t.arg 0 % 64 = 0 then none else some (t.arg 0 % 64)

/-- An operation on a VF; without an identity the tollhouse makes and opens nothing (R819). -/
def onVf (t : Taken) (s : Block) (f : Nat → Block) : Block :=
  match migFn t with
  | none => fail t .internal s
  | some v => if s.attest.identityOk then f v else fail t .internal s

def chains : List Byte × List Byte := (Config.certChain 0, Config.certChain 1)

/-- The migration key (R862 step 3). -/
def migKeyOf (src dst z : List Byte) : List Byte := hkdf (src ++ dst) z (ascii "hts mig") 32

def offerMagic : List Byte := [0x48#8, 0x4D#8, 0x4F#8, 0x46#8]
def capsuleMagic : List Byte := [0x48#8, 0x4D#8, 0x43#8, 0x50#8]

/-- MIG_OFFER (R862 step 1). -/
def migOffer (t : Taken) (s : Block) : Block :=
  onVf t s fun f =>
    let (seed, s) := drawSecret s
    let b := offerMagic ++ leBytes 2 1 ++ partNumber ++ leBytes 4 s.attest.fwVersion.toNat ++ deviceId ++ Config.kemKeygen seed
      ++ chains.1 ++ chains.2
    let b := b ++ rsaSig b ++ slhSig b
    match hostPut (posterFn s t.poster) (t.arg 1) b s with
    | (.error st, s) => fail t st s
    | (.ok _, s) => complete t.poster .ok b.length (s.modFunc f fun x => { x with offerSeed := some seed })

def execMigOffer (p : Poster) (s : State) : Result := onBlock s fun s => within (posterOk p) s (runOp p 0x50 migOffer)

/-- Both signatures of bytes verify under keys. -/
def signedBy (keys : List Byte × List Byte) (m rsa slh : List Byte) : Bool :=
  Config.rsaVerify keys.1 m rsa && Config.slhVerify keys.2 m slh

/-- An offer that passes the checks of R862 step 2: its DEVICE_ID, encapsulation key and length. -/
def readOffer (s : Block) (b : List Byte) : Option (List Byte × List Byte × Nat) :=
  let head := 4 + 2 + 16 + 4 + 48 + 1568
  let id := (b.drop 26).take 48
  match Config.splitChains (b.drop head) with
  | none => none
  | some (c0, c1) =>
    let n := head + c0.length + c1.length
    match Config.chainKeys c0 c1 with
    | none => none
    | some keys =>
      if b.take 4 == offerMagic && fld b 4 2 == 1 && (b.drop 6).take 16 == partNumber && fld b 25 1 == s.attest.fwVersion.toNat / 2 ^ 24
          && sha384 (keys.1 ++ keys.2) == id && signedBy keys (b.take n) ((b.drop n).take 384) ((b.drop (n + 384)).take 16224) then
        some (id, (b.drop 74).take 1568, n + 384 + 16224)
      else none

/-- MIG_KEY (R862 step 2): a new stream begins. -/
def migKeyOp (t : Taken) (s : Block) : Block :=
  onVf t s fun f =>
    let fn := posterFn s t.poster
    match readOffer s (Mem.read s.mem.host (t.arg 1) 0x20_0000) with
    | none => fail t .permFault s
    | some (id, ek, n) =>
      match hostRead fn (t.arg 1) n s with
      | (.error st, s) => fail t st s
      | (.ok _, s) =>
        let (ct, z) := Config.kemEncaps ek s.attest.drbgCtr
        let s := s.modAttest fun a => { a with drbgCtr := a.drbgCtr + 1 }
        let b := capsuleMagic ++ deviceId ++ id ++ ct
        let b := b ++ rsaSig b ++ slhSig b
        match hostPut fn (t.arg 2) b s with
        | (.error st, s) => fail t st s
        | (.ok _, s) =>
          complete t.poster .ok b.length (s.modFunc f fun x =>
            { x with migKey := some (migKeyOf deviceId id z), migSeq := 0, migCt := [], saved := [] })

def execMigKey (p : Poster) (s : State) : Result := onBlock s fun s => within (posterOk p) s (runOp p 0x51 migKeyOp)

/-- MIG_DIRTY: the dirty log starts or stops. -/
def migDirty (t : Taken) (s : Block) : Block :=
  onVf t s fun f =>
    let on := bitOf (t.arg 1) 0
    complete t.poster .ok 0 (s.modFunc f fun x => { x with dirtyLog := on, saved := if on && !x.dirtyLog then [] else x.saved })

def execMigDirty (p : Poster) (s : State) : Result := onBlock s fun s => within (posterOk p) s (runOp p 0x52 migDirty)

/-! ### MIG_FREEZE, MIG_THAW, MIG_DISCARD (R865–R867) -/

/-- Key slots of a function: those it reserved and those of its contexts. -/
def slotsOfFn (s : Block) (f : Nat) : List Nat :=
  ((s.slots.filter fun k => k.2.holder == some f).map (·.1)
    ++ (s.contexts.filter fun (c : Nat × Context) => c.2.fn == f).flatMap fun (c : Nat × Context) => c.2.slots).eraseDups

/-- Threads, cores and basins a freeze stops. -/
def fnCores (s : Block) (f : Nat) : List Nat :=
  (s.contexts.filter fun (c : Nat × Context) => c.2.fn == f).flatMap fun (c : Nat × Context) => c.2.cores
def fnThreads (s : Block) (f : Nat) : List Nat := (fnCores s f).flatMap fun c => (s.core c).threads.map fun t => 16 * c + t.1
def fnBasins (s : Block) (f : Nat) : List Nat := (((s.func f).bound.bind fun p => SMap.find p s.parts).map (·.basins)).getD []

/-- An entry is the function's or of one of its contexts. -/
def entryOf (s : Block) (f : Nat) (t : Taken) : Bool :=
  match t.poster with
  | .ring g _ _ => g == f
  | .service c _ => (contextsOf s f).contains c

/-- An entry of the function or of its contexts that has not done its work; admissions that wait do not count. -/
def entryOpen (s : Block) (f : Nat) : Bool :=
  s.host.taken.any fun t => entryOf s f t && t.outcome.isNone && !(s.waitingReqs.any fun r => r.poster == some t.poster)

/-- Step 2: every thread stops. -/
def freezeThread (f : Nat) (s : Block) (n : Nat) : Block :=
  match (s.thread n).st with
  | .ready | .waiting | .parked =>
    if (s.func f).frozenThreads.contains n then s
    else (stopThread n s).2.modFunc f fun x => { x with frozenThreads := x.frozenThreads ++ [n] }
  | _ => s

/-- Step 3: the open gather groups close, and STOP_REQ is set. -/
def freezeCore (f : Nat) (s : Block) (c : Nat) : Block :=
  let s := ((s.core c).q.groups.map (·.id)).foldl (fun s g => closeGroup c g s) s
  if (s.core c).regs.stopReq then s
  else (s.modCore c fun x => { x with regs := { x.regs with stopReq := true } }).modFunc f fun x => { x with frozenUnits := x.frozenUnits ++ [c] }
def freezeBasin (f : Nat) (s : Block) (b : Nat) : Block :=
  let s := ((List.range 16).map fun k => b * 16 + k).foldl (fun s c => freezeCore f s c) s
  if (s.basin b).stopReq then s
  else (s.modBasin b fun x => { x with stopReq := true }).modFunc f fun x => { x with frozenUnits := x.frozenUnits ++ [4096 + b] }

/-- Step 4: the function's reduction groups end their open step, and are disabled. -/
def freezeGroups (f : Nat) (s : Block) : Block :=
  let gs := (List.range 16).filter fun g => (s.group g).en && (s.group g).st == .open && some (s.group g).part == (s.func f).bound
  (gs.foldl (fun s g => stopGroup g s) s).modFunc f fun x => { x with frozenGroups := x.frozenGroups ++ gs }

/-- Everything a freeze stops is at rest. -/
def frozenStill (s : Block) (f : Nat) : Bool :=
  (fnThreads s f).all (fun n => match (s.thread n).st with
    | .ready | .waiting | .parked => false
    | _ => true)
  && (fnBasins s f).all fun b => basinAtRest s b && (List.range 16).all fun k => coreAtRest s (b * 16 + k)

/-- A look at a freeze: its steps go on as far as they can, and its entry completes once everything is at rest
(assumption 57). -/
def freezeOn (f : Nat) (t : Taken) (s : Block) : Block :=
  if entryOpen s f then s
  else
    let s := (fnThreads s f).foldl (freezeThread f) s
    let s := freezeGroups f ((fnBasins s f).foldl (freezeBasin f) s)
    if frozenStill s f then complete t.poster .ok 0 s else s

/-- MIG_FREEZE: a teardown of one of the function's parties completes first (R866). -/
def migFreeze (t : Taken) (s : Block) : Block :=
  onVf t s fun f =>
    if s.teardowns.any fun x => (slotsOfFn s f).contains x.slot then s
    else
      freezeOn f t (markStarted t.poster (s.modFunc f fun x =>
        { x with frozen := true, frozenThreads := [], frozenUnits := [], frozenGroups := [] }))

/-- MIG_FREEZE again looks at a freeze that has started. -/
def migFreezeStep (p : Poster) (s : Block) : Block :=
  match s.host.taken.find? fun t => t.poster == p with
  | some t =>
    if t.started && t.op = 0x53 then
      match migFn t with
      | some f => if fwUp s then freezeOn f t s else s
      | none => s
    else runOp p 0x53 migFreeze s
  | none => s

def execMigFreeze (p : Poster) (s : State) : Result := onBlock s fun s => within (posterOk p) s (migFreezeStep p)

/-- A frozen function goes on: what its freeze stopped is undone. -/
def thaw (f : Nat) (s : Block) : Block :=
  let x := s.func f
  let s := s.modFunc f fun x =>
    { x with frozen := false, frozenThreads := [], frozenUnits := [], frozenGroups := [], migRestored := false }
  let s := x.frozenGroups.foldl (fun s g => s.modGroup g fun y => { y with en := true, st := .open }) s
  let s := x.frozenUnits.foldl (fun s u =>
    if u < 4096 then resumeCore u (s.modCore u fun c => { c with regs := { c.regs with stopReq := false } })
    else resumeBasin (u - 4096) (s.modBasin (u - 4096) fun b => { b with stopReq := false })) s
  x.frozenThreads.foldl (fun s n => if (s.thread n).st = .stopped then goThread n s else s.modThread n fun t => { t with stopAsked := false }) s

/-- MIG_THAW; of a function that is not frozen there is nothing to undo (assumption 42). -/
def migThaw (t : Taken) (s : Block) : Block :=
  onVf t s fun f => if (s.func f).frozen && !(s.func f).migRestored then complete t.poster .ok 0 (thaw f s) else fail t .internal s

def execMigThaw (p : Poster) (s : State) : Result := onBlock s fun s => within (posterOk p) s (runOp p 0x55 migThaw)

/-- MIG_DISCARD: the function's contexts end, and its slots are zeroized with no record sent, and FREE. -/
def migDiscard (t : Taken) (s : Block) : Block :=
  onVf t s fun f =>
    let ks := slotsOfFn s f
    let s := (contextsOf s f).foldl (fun s c => endContext c s) s
    let s := ks.foldl (fun s k => s.setSlot k .init) s
    let s := s.modAd fun a => { a with dir := a.dir.filter (fun e => !ks.contains e.2.slot), reservoirs := a.reservoirs.filter fun r => !ks.contains r.keySlot }
    let s := dropFreeze f s
    complete t.poster .ok 0 (s.modFunc f fun x =>
      { x with frozen := false, frozenThreads := [], frozenUnits := [], frozenGroups := [], dirtyLog := false, migKey := none, saved := [], migCt := [] })

def execMigDiscard (p : Poster) (s : State) : Result := onBlock s fun s => within (posterOk p) s (runOp p 0x56 migDiscard)

/-! ### MIG_SAVE (R864, R866, R868, R869) -/

/-- A record's header (R868). -/
def migHeader (type seq ctx core len va : Nat) : List Byte :=
  [0x48#8, 0x4D#8, 0x49#8, 0x47#8] ++ leBytes 1 type ++ zeros 3 ++ leBytes 8 seq ++ leBytes 2 ctx ++ leBytes 2 core ++ leBytes 4 len
    ++ leBytes 8 va ++ zeros 32

def migIv (seq : Nat) : List Byte := leBytes 8 seq ++ zeros 4

/-- A record not yet written: its key among those a stream has (`Func.saved`), its type, context, core index and address, and
how its payload is made. -/
structure MigRec where
  key : Nat
  type : Nat
  ctx : Nat
  core : Nat
  va : Nat
  deriving DecidableEq, Repr

def recKey (type ctx core va : Nat) : Nat := ((type * 2 ^ 16 + ctx) * 2 ^ 13 + core) * 2 ^ 48 + va
def migRec (type ctx core va : Nat) : MigRec := { key := recKey type ctx core va, type := type, ctx := ctx, core := core, va := va }

/-- PAGE records due: pages in T1 or T2 that are dirty or that this stream has not (R864). -/
def pageRecs (s : Block) (f : Nat) : List MigRec :=
  (contextsOf s f).flatMap fun c =>
    (ownLeaves s c).filterMap fun p =>
      let r := migRec 4 c 0 p.1
      let home := leafHome p.2.l
      if (home = 1 || home = 2) && (leafDirty p.2.l || !(s.func f).saved.contains r.key) then some r else none

/-- The records of a final save, in order, that the stream has not (R869). -/
def finalRecs (s : Block) (f : Nat) : List MigRec :=
  let cs := contextsOf s f
  let live := fun (k : Nat) => match (s.slot k).st with
    | .active | .rotating => true
    | _ => false
  let rest := [migRec 1 0xFFFF 0 0] ++ ((slotsOfFn s f).filter live).map (fun k => migRec 2 0xFFFF 0 k)
    ++ cs.map (fun c => migRec 3 c 0 0) ++ [migRec 7 0xFFFF 0 0]
    ++ cs.flatMap fun c => (ownLeaves s c).filterMap fun p => if leafHome p.2.l = 3 then some (migRec 5 c 0 p.1) else none
  let cores := cs.flatMap fun c => (List.range (((s.context c).map (·.cores.length)).getD 0)).map fun i => migRec 6 c i 0
  let new := fun (l : List MigRec) => l.filter fun r => !(s.func f).saved.contains r.key
  new rest ++ pageRecs s f ++ new cores ++ new [migRec 15 0xFFFF 0 0]

/-- A queue by its place in its core. -/
def moveQueue (c : Nat) : QueueRef → QueueRef
  | .mx _ => .mx c | .cx _ => .cx c | .vx _ => .vx c | .tw _ => .tw c | .mv _ => .mv (c / 16) | .up _ => .up (c / 16)
  | .rd _ => .rd (c / 16) | .tm _ => .tm (c / 16) | q => q

/-- A command as core `c` holds it, with identifiers from `base` on. A pass it waits for or has is asked for anew. -/
def moveCmd (c base : Nat) (x : Cmd) : Cmd :=
  { x with id := x.id + base, core := c, thread := 16 * c + x.thread % 16, passBasin := c / 16, gather := x.gather.map (· + base)
           phase := match x.phase with
             | .passWait | .granted => .entered
             | p => p }

def moveThread (c base : Nat) (t : Thread) : Thread :=
  { t with wait := match t.wait with
      | .queue q => .queue (moveQueue c q)
      | .fence ids => .fence (ids.map (· + base))
      | w => w }

/-- A core as core `c` holds it. -/
def moveCore (c base : Nat) (x : Core) : Core :=
  let cmds := fun (l : List Cmd) => l.map (moveCmd c base)
  { x with
    threads := x.threads.map fun (t : Nat × Thread) => (t.1, moveThread c base t.2)
    q := { x.q with mx := cmds x.q.mx, cx := cmds x.q.cx, vx := cmds x.q.vx, tw := cmds x.q.tw
                    groups := x.q.groups.map fun (g : Group) =>
                      { g with id := g.id + base, members := g.members.map fun m => (m.1 + base, m.2) } } }

/-- The commands a core has in the queues of its basin: 0 MVU, 1 update unit, 2 reduction, 3 tier. -/
def basinCmds (s : Block) (c : Nat) : List (Nat × Cmd) :=
  let b := s.basin (basinOf c)
  let mine := fun (k : Nat) (l : List Cmd) => (l.filter fun x => x.core == c).map fun x => (k, moveCmd 0 0 x)
  mine 0 b.mv ++ mine 1 b.up ++ mine 2 b.rd ++ mine 3 b.tm

/-- The directory entries and reservoirs of some slots, with the images T1 or T2 holds. -/
def directoryItem (f : Nat) (ks : List Nat) (s : Block) : MigItem :=
  let es := s.adapters.dir.filter fun e => ks.contains e.2.slot
  let images := fun (e : DirEntry) => [false, true].filterMap fun b =>
    if (e.vs b).st = 2 then
      match (versionPages f e (e.vs b) s).1 with
      | .ok (h, ps) => some (b, (0, h) :: ps)
      | .error _ => none
    else none
  .directory (es.map fun e => (e.2, images e.2)) (s.adapters.reservoirs.filter fun r => ks.contains r.keySlot)

/-- The contents of a record; none for a page that has gone. -/
def payloadOf (f : Nat) (r : MigRec) (s : Block) : Option (List Byte) × Block :=
  let item := fun (i : MigItem) => (some (Config.migBytes i), s)
  let x := s.func f
  match r.type with
  | 1 =>
    let now := coarseTick s
    item (.function x.crs x.ers (fnBasins s f).length
      ((contextsOf s f).map fun c => (c, (now + ((s.context c).map (·.tickOffset)).getD 0) % 2 ^ 64))
      (s.adapters.reqs.filter fun q => (contextsOf s f).contains q.ctx)
      (s.host.taken.filter fun t => (entryOf s f t && t.outcome.isSome)
        || s.waitingReqs.any fun q => q.poster == some t.poster && (contextsOf s f).contains q.ctx) chains
      ([0, 1].map fun b => (b, (s.baseSlot b).digest)))
  | 2 =>
    let k := s.slot r.va
    item (.slot r.va k.party k.epoch.toNat k.cur k.prev k.set (k.st == .rotating))
  | 3 =>
    match s.context r.ctx with
    | none => (none, s)
    | some c => item (.context c ((ownLeaves s r.ctx).map fun p => { va := p.1, big := p.2.big, l := p.2.l }))
  | 4 =>
    match leafOf s r.ctx r.va with
    | none => (none, s)
    | some l =>
      let s := changeLeaf r.ctx r.va (fun l => setBits l 9 1 0) s
      match readPage (engineOf (some l) r.va 3) r.ctx r.va l s with
      | (.ok bs, s) => (some (encodePage (leafCfmt l.l) l.big r.va bs), s)
      | (.error _, s) => (none, s)
  | 5 =>
    match leafOf s r.ctx r.va with
    | none => (none, s)
    | some l => item (.leaf l.l (SMap.get 0 (leafFrame l.l) s.mem.t3len))
  | 6 =>
    match (s.context r.ctx).bind fun c => c.cores[r.core]? with
    | none => (none, s)
    | some c =>
      let queues := (List.range 4).map fun q => TwQueue.save q (s.twq c q)
      (some ((Config.migBytes (.core (moveCore 0 0 (s.core c)) (basinCmds s c) queues) ++ zeros 788480).take 788480), s)
  | 7 => item (directoryItem f (slotsOfFn s f) s)
  | _ => item (.last x.migSeq (sha384 x.migCt))

/-- Write records at `a` while they fit in `room` bytes: the bytes written, and whether records are left. -/
def writeRecs (f a : Nat) : List MigRec → Nat → Nat → Block → Except Status (Nat × Bool) × Block
  | [], _, done, s => (.ok (done, false), s)
  | r :: rest, room, done, s =>
    match payloadOf f r s with
    | (none, s') => writeRecs f a rest room done (s'.modFunc f fun x => { x with saved := r.key :: x.saved })
    | (some p, s') =>
      if room < 80 + p.length then (.ok (done, true), s)
      else
        let x := s'.func f
        let h := migHeader r.type x.migSeq r.ctx r.core p.length r.va
        let ct := Config.gcmSeal (x.migKey.getD []) (migIv x.migSeq) h p
        match hostPut 0 (a + done) (h ++ ct) s' with
        | (.error st, s) => (.error st, s)
        | (.ok _, s) =>
          writeRecs f a rest (room - (80 + p.length)) (done + 80 + p.length) (s.modFunc f fun x =>
            { x with saved := r.key :: x.saved, migSeq := x.migSeq + 1, migCt := x.migCt ++ ct.take p.length })

/-- MIG_SAVE. -/
def migSave (t : Taken) (s : Block) : Block :=
  onVf t s fun f =>
    let n := t.arg 2
    if (s.func f).migKey.isNone || n % 65536 ≠ 0 || n < 0x10_0000 then fail t .internal s
    else
      let rs := if (s.func f).frozen then finalRecs s f else if (s.func f).dirtyLog then pageRecs s f else []
      match writeRecs f (t.arg 1) rs n 0 s with
      | (.error st, s) => fail t st s
      | (.ok (done, more), s) => complete t.poster .ok (done % 2 ^ 32 + 2 ^ 32 * b2n more) s

def execMigSave (p : Poster) (s : State) : Result := onBlock s fun s => within (posterOk p) s (runOp p 0x54 migSave)

/-! ### MIG_RESTORE and MIG_START (R862 step 4, R870, R871) -/

/-- A record of a stream, opened. -/
structure OpenRec where
  type : Nat
  ctx : Nat
  core : Nat
  va : Nat
  payload : List Byte
  deriving DecidableEq, Repr

/-- The records of a stream in order, up to END, each with the right SEQ and tag; none where R870 refuses them. -/
def openStream (key : List Byte) : Nat → Nat → List Byte → List Byte → Option (List OpenRec)
  | 0, _, _, _ => none
  | fuel + 1, seq, cts, b =>
    let h := b.take 64
    let n := fld h 0x14 4
    let type := fld h 4 1
    if h.take 4 ≠ [0x48#8, 0x4D#8, 0x49#8, 0x47#8] || fld h 8 8 ≠ seq || b.length < 80 + n then none
    else
      match Config.gcmOpen key (migIv seq) h ((b.drop 64).take (n + 16)) with
      | none => none
      | some p =>
        let r : OpenRec := { type := type, ctx := fld h 0x10 2, core := fld h 0x12 2, va := fld h 0x18 8, payload := p }
        if type = 15 then
          match Config.migItem 15 p with
          | some (.last c d) => if c = seq && d = sha384 cts then some [r] else none
          | _ => none
        else (openStream key fuel (seq + 1) (cts ++ (b.drop 64).take n) (b.drop (80 + n))).map (r :: ·)

/-- What the contents of each record spell, by type. -/
def OpenRec.item (r : OpenRec) : Option MigItem := Config.migItem r.type r.payload

/-- A slot of the stream takes a FREE slot; the map grows by the pair. -/
def restoreSlot (f : Nat) (acc : Option (List (Nat × Nat) × Block)) (r : OpenRec) : Option (List (Nat × Nat) × Block) :=
  acc.bind fun p => match r.item, freeSlot p.2 with
    | some (.slot k party epoch cur prev set rotating), some new =>
      some ((k, new) :: p.1, (p.2.spent 1).setSlot new
        { KeySlot.init with st := if rotating then .rotating else .active, party := party, epoch := BitVec.ofNat 2 epoch, cur := cur, prev := prev
                            set := set, zeroized := false, holder := some f })
    | _, _ => none

/-- The destination's number of a slot. -/
def slotMap (m : List (Nat × Nat)) (k : Nat) : Nat := ((m.find? fun p => p.1 == k).map (·.2)).getD 0

/-- A context takes a free number and free cores. -/
def restoreContext (f part : Nat) (ks : List (Nat × Nat)) (ticks : List (Nat × Nat)) (acc : Option (List (Nat × Nat) × Block)) (r : OpenRec) :
    Option (List (Nat × Nat) × Block) :=
  acc.bind fun p => match r.item, freeContext p.2, SMap.find part p.2.parts with
    | some (.context c _), some new, some x =>
      let cores := (p.2.spent 1).chooseMany c.cores.length (freeCores p.2 x)
      if cores.length < c.cores.length || (!c.mixing && foreignParty p.2 part c.party) then none
      else
        let (root, s) := newRoot (p.2.spent (1 + c.cores.length))
        let saved := ((ticks.find? fun t => t.1 == r.ctx).map (·.2)).getD 0
        let now := coarseTick s
        let y := { c with part := part, fn := f, slots := c.slots.map (slotMap ks), baseRead := [], ptRoot := root, direct := false, cores := cores, runs := []
                          tickOffset := (saved + 2 ^ 64 - now % 2 ^ 64) % 2 ^ 64 }
        some ((r.ctx, new) :: p.1, { s with contexts := SMap.set new y s.contexts })
    | _, _, _ => none

/-- A page as the source mapped it. -/
def sourceLeaf (rs : List OpenRec) (ctx va : Nat) : Option MigLeaf :=
  (rs.find? fun r => r.type == 3 && r.ctx == ctx).bind fun r => match r.item with
    | some (.context _ ls) => ls.find? fun l => l.va == va
    | _ => none

/-- A page of the stream is created in T1, with its slot's number here. -/
def restorePage (rs : List OpenRec) (ks cs : List (Nat × Nat)) (acc : Option Block) (r : OpenRec) : Option Block :=
  acc.bind fun s => match sourceLeaf rs r.ctx r.va, cs.find? fun p => p.1 == r.ctx with
    | some x, some (_, ctx) =>
      let l := x.l
      match decodePage r.va x.big r.payload with
      | .error _ => none
      | .ok bs =>
        (cutPages (bs.length / 65536) r.va bs).foldl (fun acc p => acc.bind fun s =>
          createPage ctx p.1 (leafR l) (leafW l) (leafX l) (leafPinned l) (slotMap ks (leafSlot l)) (leafCfmt l) p.2 s) (some s)
    | _, _ => none

/-- A page homed in T3 stays at its host address. -/
def restoreLeaf (rs : List OpenRec) (ks cs : List (Nat × Nat)) (acc : Option Block) (r : OpenRec) : Option Block :=
  acc.bind fun s => match r.item, cs.find? fun p => p.1 == r.ctx with
    | some (.leaf l len), some (_, ctx) =>
      let big := ((sourceLeaf rs r.ctx r.va).map (·.big)).getD false
      let s := { s with mem := { s.mem with t3len := SMap.put 0 (leafFrame l) len s.mem.t3len } }
      (rootFor s ctx r.va).map fun root => mapLeaf root r.va big (setBits l 52 12 (slotMap ks (leafSlot l))) s
    | _, _ => none

/-- A core of the stream, at its place in its context (R871). -/
def restoreCore (cs : List (Nat × Nat)) (acc : Option Block) (r : OpenRec) : Option Block :=
  acc.bind fun s => match Config.migItem 6 r.payload, cs.find? fun p => p.1 == r.ctx with
    | some (.core x cmds queues), some (_, ctx) =>
      match (s.context ctx).bind fun c => c.cores[r.core]? with
      | none => none
      | some c =>
        let base := s.nextId
        let top := ((x.q.mx ++ x.q.cx ++ x.q.vx ++ x.q.tw ++ cmds.map (·.2)).map (·.id)).foldl max 0
        let x := { x with tw := x.tw.map fun (e : Nat × TwQueue) => (e.1, TwQueue.load e.1 e.2 (queues.getD e.1 [])) }
        let y := { moveCore c base x with ctx := some ctx, scrubbed := false }
        let of_ := fun (k : Nat) => (cmds.filter fun p => p.1 == k).map fun p => moveCmd c base p.2
        let s := { s.setCore c { y with regs := { y.regs with stopReq := true } } with nextId := base + top + 1 }
        some (s.modBasin (basinOf c) fun b =>
          { b with stopReq := true, mv := b.mv ++ of_ 0, up := b.up ++ of_ 1, rd := b.rd ++ of_ 2, tm := b.tm ++ of_ 3 })
    | _, _ => none

/-- The base slot here that holds the base a source's slot held, the same slot first. -/
def baseHere (s : Block) (bases : List (Nat × List Byte)) (b : Nat) : Option Nat :=
  (bases.find? fun x => x.1 == b).bind fun x =>
    [b, 0, 1].find? fun k => (s.baseSlot k).digest == x.2 && (2 ≤ (s.baseSlot k).st && (s.baseSlot k).st ≤ 5)

/-- Where an image goes: where the source had it, if nothing stands there. -/
def imageHere (s : Block) (v : VSlot) (n : Nat) : Option Nat := if imageFits s n v.imageVa then some v.imageVa else freeImageVa s n

/-- A directory entry with its images, under a free number (assumption 36); its requests pin it as they are restored. Its base
slot is the one that holds its base here; with none, it is STRANDED (R620). -/
def restoreEntry (ks : List (Nat × Nat)) (bases : List (Nat × List Byte)) (s : Block) (e : DirEntry × List (Bool × List (Nat × List Byte))) : Block :=
  let ok := fun (i : Nat) => decide (i < 2 ^ 24) && (s.dirEntry i).isNone
  match s.choice ok ((List.range (s.adapters.dir.length + 1)).find? ok) with
  | none => s
  | some i =>
    let slot := slotMap ks e.1.slot
    let lost := fun (v : VSlot) => if v.st = 2 then { v with st := if v.hostRec then 1 else 0, home := 0, imageVa := 0, pins := 0 } else v
    let base := baseHere s bases e.1.baseSlot
    let st := if base.isNone && e.1.st = stReady then stStranded else e.1.st
    let d := { e.1 with slot := slot, st := st, baseSlot := base.getD e.1.baseSlot, vs0 := lost e.1.vs0, vs1 := lost e.1.vs1, grace := [], revoker := none }
    let s := ensureWindows ((s.spent 1).modAd fun a => { a with dir := SMap.set i d a.dir })
    e.2.foldl (fun s im => match imageHere s (e.1.vs im.1) im.2.length with
      | none => s
      | some va => match createImage slot va im.2 (s.spent 1) with
        | none => s
        | some s => s.modEntry i fun x => x.setVs im.1 { e.1.vs im.1 with st := 2, home := 1, imageVa := va, pins := 0 }) s

def restoreDirectory (ks : List (Nat × Nat)) (bases : List (Nat × List Byte)) (acc : Option Block) (r : OpenRec) : Option Block :=
  acc.bind fun s => match r.item with
    | some (.directory es res) =>
      let s := es.foldl (restoreEntry ks bases) s
      some (s.modAd fun a => { a with reservoirs := a.reservoirs ++ res.map fun x => { x with keySlot := slotMap ks x.keySlot } })
    | _ => none

/-- A list's last members by key: a later PAGE replaces an earlier one (R869). -/
def lastPages : List OpenRec → List OpenRec
  | [] => []
  | r :: rest => if rest.any fun x => x.ctx == r.ctx && x.va == r.va then lastPages rest else r :: lastPages rest

/-- The poster of an admission that waited, with its context's number here. -/
def movePoster (f : Nat) (cs : List (Nat × Nat)) : Poster → Poster
  | .ring _ c n => .ring f c n
  | .service c n => .service (slotMap cs c) n

/-- An admitted request has its pin, its read use of the base, and its record as it stands here (R641 steps 6 and 7, R52). -/
def restoreAdmitted (q : Request) (s : Block) : Block :=
  let key := (s.baseSlot q.baseSlot).keySlot
  let s := s.modContext q.ctx fun c => { c with baseRead := if c.baseRead.contains key then c.baseRead else c.baseRead ++ [key] }
  match q.entry.bind s.dirEntry with
  | none => writeRequest q 0 s
  | some e =>
    let v := e.vs q.second
    let s := s.modEntry (q.entry.getD 0) fun e => e.setVs q.second { v with pins := v.pins + 1 }
    writeRequest q v.imageVa (if v.pins = 0 && v.st = 2 then pinImage v true s else s)

/-- A request of the stream, with the numbers that its context, slot, entry and base have here. A request whose base is not
loaded here has no read use of one. -/
def restoreRequest (f : Nat) (ks cs : List (Nat × Nat)) (bases : List (Nat × List Byte)) (s : Block) (q : Request) : Block :=
  let slot := slotMap ks q.keySlot
  let entry := q.entry.bind fun _ => (findAdapter s slot q.adapter).map (·.1)
  let base := baseHere s bases q.baseSlot
  let q := { q with ctx := slotMap cs q.ctx, keySlot := slot, entry := entry, baseSlot := base.getD q.baseSlot
                    poster := q.poster.map (movePoster f cs) }
  let s := s.modAd fun a => { a with reqs := a.reqs ++ [q] }
  if q.st = 2 && base.isSome then restoreAdmitted q s else s

/-- A restored slot that is ROTATING counts its pages still at the previous epoch (R801). -/
def countOld (s : Block) (k : Nat) : Block :=
  let old := fun (l : U64) => leafSlot l == k && leafEpoch l == ((s.slot k).epoch - 1).toNat
  let n := ((everyLeaf s).filter fun p => old p.2.2.l).length
  s.modSlot k fun x => if x.st = .rotating then KeySlot.retire { x with oldPages := n } else x

/-- The whole stream is applied; none where something of it cannot be. -/
def applyStream (f part : Nat) (rs : List OpenRec) (s : Block) : Option Block :=
  match rs.find? fun r => r.type == 1 with
  | none => none
  | some head => match head.item with
    | some (.function crs ers n ticks reqs taken _ bases) =>
      if n ≠ (fnBasins s f).length then none
      else
        let only := fun (k : Nat) => rs.filter fun r => r.type == k
        match (only 2).foldl (restoreSlot f) (some ([], s)) with
        | none => none
        | some (ks, s) =>
          match (only 3).foldl (restoreContext f part ks ticks) (some ([], s)) with
          | none => none
          | some (cs, s) =>
            let s := (lastPages (only 4)).foldl (restorePage rs ks cs) (some s)
            let s := (only 5).foldl (restoreLeaf rs ks cs) s
            let s := (only 6).foldl (restoreCore cs) s
            let s := (only 7).foldl (restoreDirectory ks bases) s
            s.map fun s =>
              let s := { s with host := { s.host with taken := s.host.taken ++ taken.map fun (t : Taken) => { t with poster := movePoster f cs t.poster } } }
              let s := reqs.foldl (restoreRequest f ks cs bases) ((ks.map (·.2)).foldl countOld s)
              s.modFunc f fun x => { x with crs := crs, ers := ers }
    | _ => none

/-- MIG_RESTORE: the offer is spent whatever comes of it; a stream R870 refuses leaves nothing behind. -/
def migRestore (t : Taken) (s : Block) : Block :=
  onVf t s fun f =>
    let fn := posterFn s t.poster
    match (s.func f).offerSeed, (s.func f).bound with
    | some seed, some part =>
      let s := s.modFunc f fun x => { x with offerSeed := none }
      match hostRead fn (t.arg 1) (4 + 96 + 1568 + 384 + 16224) s with
      | (.error st, s) => fail t st s
      | (.ok c, s) =>
        match hostRead fn (t.arg 2) (t.arg 3) s with
        | (.error st, s) => fail t st s
        | (.ok b, s) =>
          let src := (c.drop 4).take 48
          let key := migKeyOf src deviceId (Config.kemDecaps seed ((c.drop 100).take 1568))
          if c.take 4 ≠ capsuleMagic || (c.drop 52).take 48 ≠ deviceId then fail t .permFault s
          else
            match openStream key (b.length / 80 + 1) 0 [] b with
            | none => fail t .internal s
            | some rs =>
              let keys := match (rs.find? fun r => r.type == 1).bind OpenRec.item with
                | some (.function _ _ _ _ _ _ ch _) => Config.chainKeys ch.1 ch.2
                | _ => none
              match keys with
              | none => fail t .permFault s
              | some ks =>
                if sha384 (ks.1 ++ ks.2) ≠ src || !signedBy ks (c.take 1668) ((c.drop 1668).take 384) ((c.drop 2052).take 16224) then
                  fail t .permFault s
                else
                  match applyStream f part rs s with
                  | none => fail t .internal s
                  | some s =>
                    let stopped := (fnThreads s f)
                    complete t.poster .ok 0 (s.modFunc f fun x =>
                      { x with frozen := true, migRestored := true, frozenThreads := stopped
                               frozenUnits := (fnBasins s f).flatMap fun b => (4096 + b) :: (List.range 16).map fun k => b * 16 + k })
    | _, _ => fail t .internal s

def execMigRestore (p : Poster) (s : State) : Result := onBlock s fun s => within (posterOk p) s (runOp p 0x57 migRestore)

/-- MIG_START: the restored function runs (R867, R871). -/
def migStart (t : Taken) (s : Block) : Block :=
  onVf t s fun f => if (s.func f).migRestored then complete t.poster .ok 0 (thaw f s) else fail t .internal s

def execMigStart (p : Poster) (s : State) : Result := onBlock s fun s => within (posterOk p) s (runOp p 0x58 migStart)

end Sys2Proof.Machine
end

