-- ==== Sys2Proof/Machine/Flags.lean ====
section
/-! DEFINITION. Conditions and predicate results: what a compare computes and how it is combined into a predicate
(R113–R117). The part has no condition codes beside p0–p7. -/

namespace Sys2Proof.Machine

/-- The condition c of two 64-bit values (R115). -/
def condHolds (c : Cond) (x y : U64) : Bool :=
  match c with
  | .eq => x == y
  | .ne => x != y
  | .lt => x.slt y
  | .ge => !x.slt y
  | .ltu => x.ult y
  | .geu => !x.ult y
  | .tst => x &&& y != 0
  | .ntst => x &&& y == 0

/-- What pd becomes: c, or pd combined with c (R113). -/
def combine (k : Combine) (old c : Bool) : Bool :=
  match k with
  | .set => c
  | .and => old && c
  | .or => old || c

/-- A compare writes its predicate and the program counter moves on. -/
def compareInto (th : Nat) (k : Combine) (pd : Pred) (c : Bool) (s : Block) : Block :=
  s.modThread th fun t => (t.setP pd (combine k (t.getP pd) c)).next 4

/-- Predicate logic: pd becomes a function of pa and pb (R116). -/
def predLogic (th : Nat) (pd pa pb : Pred) (f : Bool → Bool → Bool) (s : Block) : Block :=
  s.modThread th fun t => (t.setP pd (f (t.getP pa) (t.getP pb))).next 4

end Sys2Proof.Machine
end

