-- ==== Sys2Proof/Machine/Predicate.lean ====
section
/-! DEFINITION. Compares and predicate logic (R113–R116). -/

namespace Sys2Proof.Machine

def execCmp (th : Nat) (comb : Combine) (pd : Pred) (cond : Cond) (a b : Reg) (s : State) : Result := onBlock s fun s =>
  issueP th [pd] s fun s => compareInto th comb pd (condHolds cond (s.g th a) (s.g th b)) s
def execCmpi (th : Nat) (comb : Combine) (pd : Pred) (cond : Cond) (a : Reg) (imm : BitVec 11) (s : State) : Result := onBlock s fun s =>
  issueP th [pd] s fun s => compareInto th comb pd (condHolds cond (s.g th a) (imm.signExtend 64)) s
def execPand (th : Nat) (pd pa pb : Pred) (s : State) : Result := onBlock s fun s =>
  issueP th [pd, pa, pb] s (predLogic th pd pa pb fun x y => x && y)
def execPor (th : Nat) (pd pa pb : Pred) (s : State) : Result := onBlock s fun s =>
  issueP th [pd, pa, pb] s (predLogic th pd pa pb fun x y => x || y)
def execPxor (th : Nat) (pd pa pb : Pred) (s : State) : Result := onBlock s fun s =>
  issueP th [pd, pa, pb] s (predLogic th pd pa pb fun x y => x != y)
def execPandn (th : Nat) (pd pa pb : Pred) (s : State) : Result := onBlock s fun s =>
  issueP th [pd, pa, pb] s (predLogic th pd pa pb fun x y => x && !y)
def execPnot (th : Nat) (pd pa pb : Pred) (s : State) : Result := onBlock s fun s =>
  issueP th [pd, pa] s (predLogic th pd pa pb fun x _ => !x)
def execPmov (th : Nat) (pd pa pb : Pred) (s : State) : Result := onBlock s fun s =>
  issueP th [pd, pa] s (predLogic th pd pa pb fun x _ => x)
def execPset (th : Nat) (pd pa pb : Pred) (s : State) : Result := onBlock s fun s =>
  issueP th [pd] s (predLogic th pd pa pb fun _ _ => true)
def execPclr (th : Nat) (pd pa pb : Pred) (s : State) : Result := onBlock s fun s =>
  issueP th [pd] s (predLogic th pd pa pb fun _ _ => false)

end Sys2Proof.Machine
end

