-- ==== Sys2Proof/Machine/Registers.lean ====
section
/-! DEFINITION. The register maps: which register lies at an offset, what it reads, and what a write does (R13–R17, R77, R231,
R459, R509, R674, R790, R823, R831, R834–R838, R940, R949, R979–R985, and the maps of every chapter). Firmware's view of the
blocks has the offsets of PF BAR0, and offsets from 0x0400_0000 on stand for the PF's BAR2 (assumption 58). -/

namespace Sys2Proof.Machine

/-- The registers, each with its numbers. Core numbers are 16 × basin + logical slot. -/
inductive RegName where
  | glId | glTimebase | glVcore | glDieRate (d : Nat) | glTicketMode | glTicketActive | glIoTemp | glScrub
  | glT1Ecc (k : Nat) | glT2Ecc (i : Nat) | glEccLast | glAdCtrl | glAdStat | glAdCnt | glAdCnt2 | glBase (b : Nat)
  | thStatus | thBoot | thCmd | thArg | thTelem | thReport (off : Nat)
  | lkBudget | lkWeir | lkWeirCnt | lkDie (d : Nat) | lkDieWait (d : Nat) | lkPool (d p : Nat)
  | lmCtrl | lmDie (d : Nat) | lmBasin (b : Nat)
  | fnCtrl (f : Nat) | fnStat (f : Nat) | crBase (f c : Nat) | crCtrl (f c : Nat) | crTail (f c : Nat) | crHead (f c : Nat)
  | erBase (f e : Nat) | erCtrl (f e : Nat) | erHead (f e : Nat) | erStat (f e : Nat) | msix (f off : Nat) | msixPba (f : Nat)
  | klModule | klLink (l : Nat) | klLinkErr (l : Nat) | klRoute (i : Nat) | klVs (v : Nat) | klGroup (g : Nat)
  | cvStat (u : Nat)
  | reCfg (g : Nat) | reEpoch (g : Nat) | reStat (g : Nat) | reStep (g : Nat) | reCnt (g : Nat) | reVcnt (g : Nat) | reEng (e : Nat)
  | tePartCtrl (p : Nat) | tePartStat (p : Nat) | teStat (e : Nat) | teRaw (e : Nat) | teCmp (e : Nat)
  | meStat | meSel | meInfo | meDrops | meTeardown
  | gatherCtrl (c : Nat) | gatherStat (c : Nat) | mxStat (c : Nat) | mxPos (c : Nat) | cxStat (c : Nat) | accFlags (c : Nat)
  | vxStat (c : Nat) | atStat (c : Nat) | atPos (c : Nat) | ghStat (c : Nat) | ghFlags (c : Nat) | twDepth (c : Nat)
  | twStat (c q : Nat) | twPos (c q : Nat) | twChamber (c : Nat) | sramEcc (c : Nat) | coreCtrl (c : Nat) | pwr (c : Nat)
  | mvuStat (b : Nat) | mvuPos (b : Nat) | tlbStat (b : Nat) | faultEnd (b : Nat) | basinCtrl (b : Nat) | fence (b : Nat)
  | spareCtrl (b : Nat) | pwrBasin (b : Nat) | upStat (b : Nat) | upPos (b : Nat) | upCnt (b : Nat)
  deriving DecidableEq, Repr

/-! ### Where registers lie (R980, R985). `o` is the offset in units of 8 bytes. -/

/-- Register `i` of an array of `n` that begins at unit `base`, one every `step` units. -/
def inArray (o base step n : Nat) (f : Nat → RegName) : Option RegName :=
  if base ≤ o && (o - base) % step == 0 && decide ((o - base) / step < n) then some (f ((o - base) / step)) else none

/-- The first register found. -/
def firstReg : List (Option RegName) → Option RegName
  | [] => none
  | some r :: _ => some r
  | none :: l => firstReg l

def one (o at_ : Nat) (r : RegName) : Option RegName := if o = at_ then some r else none

def glReg (o : Nat) : Option RegName :=
  firstReg [one o 0 .glId, one o 1 .glTimebase, one o 0x20 .glVcore, inArray o 0x28 1 8 .glDieRate, one o 0x30 .glTicketMode,
    one o 0x31 .glTicketActive, one o 0x32 .glIoTemp, one o 0x40 .glScrub, inArray o 0x48 1 24 .glT1Ecc, inArray o 0x60 1 2 .glT2Ecc,
    one o 0x62 .glEccLast, one o 0x80 .glAdCtrl, one o 0x81 .glAdStat, one o 0x82 .glAdCnt, one o 0x83 .glAdCnt2,
    inArray o 0x84 1 2 .glBase]

def thReg (o : Nat) : Option RegName :=
  firstReg [one o 0 .thStatus, one o 1 .thBoot, one o 2 .thCmd, one o 3 .thArg, one o 4 .thTelem,
    inArray o 0x2000 1 4096 fun i => .thReport (8 * i)]

def lkReg (o : Nat) : Option RegName :=
  firstReg [one o 0 .lkBudget, one o 1 .lkWeir, one o 2 .lkWeirCnt, inArray o 0x20 2 8 .lkDie, inArray o 0x21 2 8 .lkDieWait,
    inArray o 0x200 1 512 fun i => .lkPool (i / 64) (i % 64)]

def lmReg (o : Nat) : Option RegName :=
  firstReg [one o 0 .lmCtrl, inArray o 0x20 1 8 .lmDie, inArray o 0x200 1 256 .lmBasin]

/-- A function page. -/
def fnReg (f o : Nat) : Option RegName :=
  firstReg [one o 0 (.fnCtrl f), one o 1 (.fnStat f), inArray o 0x20 4 4 (.crBase f), inArray o 0x21 4 4 (.crCtrl f),
    inArray o 0x22 4 4 (.crTail f), inArray o 0x23 4 4 (.crHead f), inArray o 0x40 4 4 (.erBase f), inArray o 0x41 4 4 (.erCtrl f),
    inArray o 0x42 4 4 (.erHead f), inArray o 0x43 4 4 (.erStat f)]

def hiReg (o : Nat) : Option RegName :=
  if 0x2000 ≤ o && o < 0xA000 then fnReg ((o - 0x2000) / 0x200) ((o - 0x2000) % 0x200)
  else firstReg [inArray o 0x1_0000 1 64 fun i => .msix 0 (8 * i), one o 0x1_0200 (.msixPba 0)]

def klReg (o : Nat) : Option RegName :=
  firstReg [one o 0 .klModule, inArray o 0x20 2 12 .klLink, inArray o 0x21 2 12 .klLinkErr, inArray o 0x200 1 256 .klRoute,
    inArray o 0x400 1 1024 .klVs, inArray o 0x800 1 16 .klGroup]

def reReg (o : Nat) : Option RegName :=
  firstReg [inArray o 0 8 16 .reCfg, inArray o 1 8 16 .reEpoch, inArray o 2 8 16 .reStat, inArray o 3 8 16 .reStep,
    inArray o 4 8 16 .reCnt, inArray o 5 8 16 .reVcnt, inArray o 0x80 1 2 .reEng]

def teReg (o : Nat) : Option RegName :=
  firstReg [inArray o 0 1 64 .tePartCtrl, inArray o 0x40 1 64 .tePartStat, inArray o 0x80 1 8 .teStat, inArray o 0x88 1 8 .teRaw,
    inArray o 0x90 1 8 .teCmp]

def meReg (o : Nat) : Option RegName :=
  firstReg [one o 0 .meStat, one o 1 .meSel, one o 2 .meInfo, one o 3 .meDrops, one o 4 .meTeardown]

/-- The window of a basin. -/
def bsReg (b o : Nat) : Option RegName :=
  let c := 16 * b + o / 0x200
  let p := o % 0x200
  let core := firstReg [one p 0x08 (.gatherCtrl c), one p 0x09 (.gatherStat c), one p 0x10 (.mxStat c), one p 0x11 (.mxPos c),
    one p 0x12 (.cxStat c), one p 0x14 (.accFlags c), one p 0x16 (.vxStat c), one p 0x18 (.atStat c), one p 0x19 (.atPos c),
    one p 0x1A (.ghStat c), one p 0x1B (.ghFlags c), one p 0x20 (.twDepth c), inArray p 0x21 1 4 (.twStat c),
    inArray p 0x25 1 4 (.twPos c), one p 0x29 (.twChamber c), one p 0x30 (.sramEcc c), one p 0x31 (.coreCtrl c), one p 0x32 (.pwr c)]
  let basin := firstReg [one o 0x100 (.mvuStat b), one o 0x101 (.mvuPos b), one o 0x108 (.tlbStat b), one o 0x109 (.faultEnd b),
    one o 0x10A (.basinCtrl b), one o 0x10C (.fence b), one o 0x10D (.spareCtrl b), one o 0x10E (.pwrBasin b), one o 0x110 (.upStat b),
    one o 0x111 (.upPos b), one o 0x112 (.upCnt b)]
  firstReg [core, basin]

/-- The register at an offset of PF BAR0; none in a reserved range or where no register is defined (R980, R981). -/
def pfReg (off : Nat) : Option RegName :=
  let o := off % 2 ^ 20 / 8
  match off / 2 ^ 20 with
  | 0 => glReg o | 1 => thReg o | 2 => lkReg o | 3 => lmReg o | 4 => hiReg o | 5 => klReg o
  | 6 => inArray o 0 1 8 .cvStat
  | 7 => reReg o | 8 => teReg o | 9 => meReg o
  | n => if 16 ≤ n && n < 32 then bsReg ((off - 0x100_0000) / 0x1_0000) (off % 0x1_0000 / 8) else none

/-- The register at an offset of the BAR0 of VF `f` (R835, R836). -/
def vfReg (s : Block) (f off : Nat) : Option RegName :=
  let o := off / 8
  if off < 0x1000 then fnReg f o
  else if 0x2000 ≤ off && off < 0x3008 then firstReg [inArray o 0x400 1 64 fun i => .msix f (8 * i), one o 0x600 (.msixPba f)]
  else if 0x10_0000 ≤ off && off < 0x100_0000 then
    let basins := (((s.func f).bound.bind fun p => SMap.find p s.parts).map (·.basins)).getD []
    match basins[(off - 0x10_0000) / 0x1_0000]? with
    | some b => bsReg b (off % 0x1_0000 / 8)
    | none => none
  else none

/-! ### What registers read -/

/-- LAST_STATUS, BUSY and COMPLETED of a unit. -/
def statWord (u : UnitStat) (busy : Bool) : List (Nat × Nat × Nat) := [(0, 8, u.last.code), (8, 1, b2n busy), (16, 32, u.completed.toNat)]

def anyRunning (l : List Cmd) : Bool := l.any fun c => c.phase == .running
/-- A stopped command holds its position until it runs again. -/
def anyStopped (l : List Cmd) : Bool := l.any fun c => c.phase == .stopped || (c.resumePass && c.phase != .running)
def anyFaulted (l : List Cmd) : Bool := l.any fun c => c.faultVa.isSome

def eccWord (e : EccCount) : Nat := fields [(0, 32, e.corrected.toNat), (32, 16, e.uncorrectable.toNat)]

/-- `BS_PWR_s` and `BS_PWR_BASIN`. -/
def pwrWord (g h : Gate) : Nat :=
  let code := fun (g : Gate) => match g.st with
    | .on => 0 | .stopping => 1 | .off => 2 | .starting => 3
  fields [(0, 2, code g), (2, 2, code h), (4, 1, b2n g.en), (5, 1, b2n h.en), (6, 1, b2n g.pendingEn), (7, 1, b2n h.pendingEn)]

/-- Bits of a list of truth values, the first lowest. -/
def flagBits : List Bool → Nat
  | [] => 0
  | b :: l => b2n b + 2 * flagBits l

/-- The global block. -/
def readGl (s : Block) : RegName → Nat
  | .glId => fields [(0, 16, 0x4A10), (16, 8, 1), (24, 9, s.gl.basinsUsable)]
  | .glTimebase => s.gl.timebase.toNat
  | .glVcore => fields [(0, 10, s.gl.vcoreTarget.toNat), (16, 10, vcoreEffective s), (32, 1, b2n s.gl.slewing)]
  | .glDieRate d =>
    let r := SMap.get DieRate.init d s.gl.dieRate
    fields [(0, 32, r.waves.toNat), (32, 10, r.vcoreMv.toNat), (42, 8, r.tjC.toNat), (50, 1, b2n r.capped)]
  | .glTicketMode => s.gl.ticketReq.toNat
  | .glTicketActive => s.gl.ticketAct.toNat
  | .glIoTemp => fields [(0, 8, (s.gl.ioC.getD 0 0).toNat), (8, 8, (s.gl.ioC.getD 1 0).toNat)]
  | .glScrub => fields [(0, 8, s.gl.t1PeriodH.toNat), (8, 8, s.gl.t2PeriodH.toNat), (16, 1, b2n s.gl.patrolEn)]
  | .glT1Ecc k => eccWord (SMap.get .init k s.gl.t1Ecc)
  | .glT2Ecc i => eccWord (SMap.get .init i s.gl.t2Ecc)
  | .glEccLast =>
    fields [(0, 48, s.gl.eccAddr.toNat), (48, 2, s.gl.eccSpace.toNat), (50, 1, b2n s.gl.eccPatrol), (63, 1, b2n s.gl.eccValid)]
  | .glAdCtrl =>
    fields [(0, 1, b2n s.adapters.mode), (8, 9, s.adapters.cacheLimit), (32, 12, s.adapters.t2Limit), (48, 16, s.adapters.graceMs)]
  | .glAdStat => fields [(0, 25, s.adapters.dir.length), (32, 19, ceilDiv (cacheUsed s) (2 ^ 20))]
  | .glAdCnt => fields [(0, 32, s.adapters.evictions.toNat), (32, 32, s.adapters.admitWaits.toNat)]
  | .glAdCnt2 =>
    fields [(0, 16, (s.adapters.dir.filter fun e => e.2.static).length), (16, 16, min (Block.waitingReqs s).length 0xFFFF),
      (32, 32, s.adapters.absent.toNat)]
  | .glBase b =>
    let x := s.baseSlot b
    let d := fun (i : Nat) => (x.digest.getD i 0).toNat
    fields [(0, 3, x.st), (8, 32, ((Block.activeReqs s).filter fun r => r.baseSlot == b).length), (40, 8, d 0), (48, 8, d 1), (56, 8, d 2)]
  | _ => 0

/-- The tollhouse. -/
def readTh (s : Block) : RegName → Nat
  | .thStatus =>
    fields [(0, 4, s.th.stage.code), (4, 4, s.th.lastReset), (8, 8, s.th.fail), (16, 1, b2n s.attest.identityOk),
      (17, 1, b2n s.th.cfgCopy)]
  | .thBoot => fields [(0, 28, s.th.bundleLen.toNat), (28, 1, b2n s.th.bootGo)]
  | .thCmd => fields [(0, 8, s.th.cmdOp.toNat), (8, 1, b2n s.th.cmdGo), (16, 8, s.th.cmdResult.code)]
  | .thArg => s.th.arg.toNat
  | .thTelem =>
    fields [(0, 13, s.th.powerW.toNat), (13, 8, s.th.tjC.toNat), (21, 10, s.th.vinDv.toNat), (31, 3, weirNow s)]
  | .thReport o => Mem.nat s.th.report o 8
  | _ => 0

/-- The lock-keeper and the lengthsman. -/
def readPower (s : Block) : RegName → Nat
  | .lkBudget =>
    fields [(0, 12, s.lock.sustainW.toNat), (12, 12, s.lock.peakW.toNat), (24, 16, s.lock.poolMj.toNat), (40, 16, s.lock.ageUs.toNat)]
  | .lkWeir =>
    fields [(0, 3, s.lock.level), (3, 2, s.lock.sagLevel.toNat), (5, 1, b2n s.lock.sagLow), (6, 1, b2n s.lock.droop),
      (8, 10, s.lock.vinDv)]
  | .lkWeirCnt =>
    fields [(0, 16, s.lock.cntL1.toNat), (16, 16, s.lock.cntL2.toNat), (32, 16, s.lock.cntL3.toNat), (48, 16, s.lock.notices.toNat)]
  | .lkDie d =>
    let mw := ((List.range 64).map fun p => SMap.get 0 (shareKey d p) s.lock.runMw).sum
    fields [(0, 16, s.scale d), (16, 16, ceilDiv mw 1000), (32, 32, (SMap.get 0 d s.lock.grants).toNat)]
  | .lkDieWait d => fields [(0, 32, (SMap.get 0 d s.lock.refused).toNat), (32, 32, (SMap.get 0 d s.lock.aged).toNat)]
  | .lkPool d p =>
    let uj : Int := ((poolCap s d p : Int) - ((SMap.get 0 (shareKey d p) s.lock.pools : Nat) : Int)) / 32000
    let waiting := (s.basins.map fun b => (b.2.passes.filter fun r => r.part == p && dieOfBasin b.1 == d).length).sum
    fields [(0, 32, (BitVec.ofInt 32 uj).toNat), (32, 16, min waiting 0xFFFF)]
  | .lmCtrl =>
    fields [(1, 8, s.lm.periodH.toNat), (9, 8, s.lm.targetPs.toNat), (17, 7, s.lm.floorPct.toNat), (24, 1, b2n s.lm.busy)]
  | .lmDie d =>
    let x := s.lmDie d
    fields [(0, 8, x.minMargin.toNat), (8, 10, x.rateCap.toNat), (18, 8, x.offsetMv.toNat), (26, 8, x.rulDy.toNat)]
  | .lmBasin b =>
    let x := s.lmBasin b
    fields [(0, 8, x.minMargin.toNat), (8, 5, x.worst.toNat), (13, 1, b2n x.retireReq), (14, 8, x.rulDy.toNat)]
  | _ => 0

/-- Function pages and MSI-X. -/
def readHi (s : Block) : RegName → Nat
  | .fnCtrl f => b2n (s.func f).resetting
  | .fnStat f =>
    let x := s.func f
    fields [(0, 6, x.bound.getD 0), (6, 1, b2n x.bound.isSome), (7, 1, b2n (x.frozen && !x.migRestored)),
      (8, 4, flagBits (x.crs.map (·.err))), (12, 16, (s.contexts.filter fun c => c.1 != 0 && c.2.fn == f).length)]
  | .crBase f c => ((s.func f).cr c).base.toNat
  | .crCtrl f c => fields [(0, 5, ((s.func f).cr c).size.toNat), (5, 1, b2n ((s.func f).cr c).en)]
  | .crTail f c => ((s.func f).cr c).tail.toNat
  | .crHead f c => ((s.func f).cr c).head.toNat
  | .erBase f e => ((s.func f).er e).base.toNat
  | .erCtrl f e =>
    let x := (s.func f).er e
    fields [(0, 5, x.size.toNat), (5, 1, b2n x.en), (6, 5, x.vec.toNat), (16, 8, x.modCount.toNat), (24, 16, x.modUs.toNat)]
  | .erHead f e => ((s.func f).er e).head.toNat
  | .erStat f e => fields [(0, 32, ((s.func f).er e).tail.toNat), (32, 16, ((s.func f).er e).lost.toNat)]
  | .msix f o =>
    if o % 16 = 0 then Mem.nat (s.func f).msix o 8
    else Mem.nat (s.func f).msix o 4 + b2n (bitOf (s.func f).vecMask.toNat (o / 16)) * 2 ^ 32
  | .msixPba f => (s.func f).vecPending.toNat
  | _ => 0

/-- The states of a link and of a reduction group. -/
def LinkState.code : LinkState → Nat
  | .disabled => 0 | .train => 1 | .ident => 2 | .up => 3

/-- Kreash links, check-value units and reduction groups. -/
def readKl (s : Block) : RegName → Nat
  | .klModule => s.kreash.moduleId.toNat
  | .klLink l =>
    let x := s.link l
    fields [(0, 1, b2n x.en), (1, 3, x.st.code), (4, 12, x.peer.toNat), (16, 16, x.downCount.toNat), (32, 16, x.noRoute.toNat),
      (48, 16, x.asmDrop.toNat)]
  | .klLinkErr l =>
    let x := s.link l
    fields [(0, 32, x.fecCorr.toNat), (32, 16, x.fecUncorr.toNat), (48, 16, x.crcDrop.toNat)]
  | .klRoute i => (SMap.get (BitVec.allOnes 64) i s.kreash.routes).toNat
  | .klVs v =>
    let x := s.vsCfg v
    fields [(0, 1, b2n x.en), (1, 1, b2n x.poly), (2, 12, x.peer.toNat), (14, 12, x.keySlot.toNat), (26, 6, x.rxDepth.toNat),
      (32, 16, x.ctx.toNat)]
  | .klGroup g => (SMap.get 0 g s.kreash.groupLinks).toNat
  | .cvStat u =>
    let n := fun (m : SMap U16) => (SMap.get 0 u m).toNat
    fields [(0, 16, n s.kreash.cvMismatch), (16, 16, n s.kreash.cvRepeat), (32, 16, n s.kreash.cvGap)]
  | .reCfg g =>
    let x := s.group g
    fields [(0, 1, b2n x.en), (1, 12, x.rank), (13, 13, x.members), (26, 3, x.rings), (32, 6, x.part)]
  | .reEpoch g => fields [(0, 32, (s.group g).epoch.toNat), (32, 16, (s.group g).timeoutMs.toNat), (48, 16, (s.group g).digestInterval.toNat)]
  | .reStat g =>
    let x := s.group g
    let st := match x.st with
      | .disabled => 0 | .open => 1 | .halted => 2 | .resync => 3
    fields [(0, 3, st), (3, 3, x.lastVerdict), (16, 11, x.sums.length)]
  | .reStep g => (s.group g).nextStep.toNat
  | .reCnt g =>
    let x := s.group g
    fields [(0, 16, x.cntStale.toNat), (16, 16, x.cntAhead.toNat), (32, 16, x.cntLate.toNat), (48, 16, x.cntMismatch.toNat)]
  | .reVcnt g =>
    let x := s.group g
    fields [(0, 16, x.vCommits.toNat), (16, 16, x.vRepeats.toNat), (32, 16, x.vSkips.toNat), (48, 16, x.vHalts.toNat)]
  | .reEng e =>
    let x := SMap.get RdEngine.init e s.rdEngines
    fields [(0, 8, x.last.code), (8, 1, b2n ((allQueues s).any fun q => q.2.unit == 8 && q.2.phase == .running && engineOfDie (dieOfBasin q.1.basin) == e)),
      (9, 1, b2n x.faultWait), (16, 32, x.records.toNat)]
  | _ => 0

/-- Tier engines and key slots. -/
def readTe (s : Block) : RegName → Nat
  | .tePartCtrl p => teCtrlOf s p
  | .tePartStat p =>
    let x := SMap.get { late := 0, skipped := 0 } p s.teCount
    fields [(0, 32, x.late.toNat), (32, 32, x.skipped.toNat)]
  | .teStat e =>
    let x := s.tierEngine e
    fields [(0, 8, x.last.code), (8, 1, b2n x.job.isSome), (16, 32, x.pages.toNat)]
  | .teRaw e => (s.tierEngine e).raw.toNat
  | .teCmp e => (s.tierEngine e).cmp.toNat
  | .meStat =>
    let n := fun (f : KeySlot → Bool) => (s.slots.filter fun k => f k.2).length
    fields [(0, 13, n fun k => k.st != .free), (13, 13, n fun k => k.st == .rotating), (26, 13, n fun k => k.st == .revoked),
      (39, 1, b2n (!s.teardowns.isEmpty)), (40, 1, b2n s.attest.identityOk)]
  | .meSel => s.slotSel.toNat
  | .meInfo =>
    let k := s.slot s.slotSel.toNat
    let st := match k.st with
      | .free => 0 | .reserved => 1 | .active => 2 | .rotating => 3 | .revoked => 4
    fields [(0, 3, st), (3, 2, k.epoch.toNat), (5, 1, b2n k.set.isSome), (8, 26, k.oldPages), (34, 16, min k.oldInflight 0xFFFF)]
  | .meDrops => fields [(0, 32, s.revokedDrops.toNat), (32, 32, s.epochRetired.toNat)]
  | .meTeardown =>
    let waiting := ((s.teardowns.find? fun t => t.slot == s.lastTeardown.slot).map fun t => t.peers.length).getD 0
    fields [(0, 12, s.lastTeardown.slot), (12, 3, s.lastTeardown.step), (15, 13, waiting)]
  | _ => 0

/-- An `at.run` has appends of R582 in progress. -/
def appending (s : Block) (c : Cmd) : Bool :=
  (c.phase == .running || c.faultVa.isSome) && c.code == 0x10 && decide (c.pos < (atJobOf (s.core c.core).ts c.block false).appends)

/-- The registers of a core. -/
def readCore (s : Block) : RegName → Nat
  | .gatherCtrl c => fields [(0, 16, (s.core c).q.gatherWindow.toNat), (16, 1, b2n (s.core c).q.gatherEn)]
  | .gatherStat c => fields [(0, 32, (s.core c).q.groupsFull.toNat), (32, 32, (s.core c).q.groupsShort.toNat)]
  | .mxStat c =>
    fields (statWord (s.core c).regs.mxStat (anyRunning (s.core c).q.mx) ++ [(9, 1, b2n (s.core c).regs.mxOrient)])
  | .mxPos c => fields [(0, 21, (s.core c).regs.mxPos.toNat), (21, 1, b2n (anyStopped ((s.core c).q.mx.filter fun x => x.unit == 1)))]
  | .cxStat c =>
    let k := s.core c
    fields (statWord k.regs.cxStat (anyRunning k.q.cx || k.q.mx.any (upLeft s)))
  | .accFlags c => fields [(0, 16, (s.core c).sums.accSat.toNat), (16, 16, (s.core c).sums.accNan.toNat)]
  | .vxStat c =>
    let k := s.core c
    fields [(0, 8, k.regs.vxStat.last.code), (8, 1, b2n (anyRunning k.q.vx)),
      (16, 16, flagBits ((List.range 16).map fun t => (SMap.find t k.vec.tables).isSome)), (32, 32, k.regs.vxStat.completed.toNat)]
  | .atStat c =>
    let l := (s.core c).q.mx.filter fun x => x.unit == 6
    fields (statWord (s.core c).regs.atStat (anyRunning l) ++ [(9, 1, b2n (anyFaulted l)), (10, 1, b2n (l.any (appending s)))])
  | .atPos c => fields [(0, 25, (s.core c).regs.atPos.toNat), (25, 1, b2n (anyStopped ((s.core c).q.mx.filter fun x => x.unit == 6)))]
  | .ghStat c => fields [(0, 32, (s.core c).sums.ghActive.toNat), (32, 16, (s.core c).sums.ghRefused.toNat)]
  | .ghFlags c => fields [(0, 32, (s.core c).sums.ghSat.toNat), (32, 32, (s.core c).sums.ghNan.toNat)]
  | .twDepth c => fields ((List.range 4).map fun q => (8 * q, 8, ((s.core c).twDepth.getD q 0x10).toNat))
  | .twStat c q =>
    let x := s.twq c q
    let hazard := match x.emitted with
      | t :: _ => x.issued.any (fun u => overlap t.ts t.len u.ts u.len) || ((s.core c).computeTouch t.ts t.len).isSome
      | [] => false
    fields [(0, 8, x.lastStatus.code), (8, 1, b2n x.active.isSome), (9, 1, b2n x.pending.isSome), (10, 1, b2n x.faulted),
      (11, 1, b2n hazard), (12, 7, x.issued.length), (32, 32, x.completed)]
  | .twPos c q => fields [(0, 5, (s.twq c q).posIndex), (5, 7, (s.twq c q).retry.length), (12, 1, b2n (s.twq c q).posValid)]
  | .twChamber c =>
    let f := fun (g : Pair → Bool) => flagBits ((List.range 8).map fun k => g ((s.core c).pair k))
    fields [(0, 8, f (·.enabled)), (8, 8, f (·.upperCompute)), (16, 8, f (·.flipWait))]
  | .sramEcc c => fields [(0, 32, (s.core c).regs.sramCorrected.toNat), (32, 16, (s.core c).regs.sramUncorrectable.toNat)]
  | .coreCtrl c => fields [(0, 1, b2n (s.core c).regs.stopReq), (1, 1, b2n (coreAtRest s c))]
  | .pwr c => pwrWord (s.core c).regs.gate0 (s.core c).regs.gate1
  | _ => 0

/-- The registers of a basin. -/
def readBasin (s : Block) : RegName → Nat
  | .mvuStat b => fields (statWord (s.basin b).mvStat (anyRunning (s.basin b).mv) ++ [(9, 1, b2n (anyFaulted (s.basin b).mv))])
  | .mvuPos b => fields [(0, 19, (s.basin b).mvPos.toNat), (19, 1, b2n (anyStopped (s.basin b).mv))]
  | .tlbStat b => fields [(0, 32, (s.basin b).tlbMisses.toNat), (32, 16, (s.basin b).tlbFaults.toNat)]
  | .basinCtrl b => fields [(0, 1, b2n (s.basin b).stopReq), (1, 1, b2n (basinAtRest s b))]
  | .fence b =>
    let x := s.basin b
    fields [(0, 17, x.fencedSlots.toNat), (17, 1, b2n x.retired), (18, 5, x.spare), (32, 16, x.drops.toNat)]
  | .spareCtrl b =>
    let x := s.basin b
    fields [(0, 5, x.sparePslot), (5, 2, x.spareOp), (7, 1, b2n x.spareGo), (8, 8, x.spareResult.code)]
  | .pwrBasin b => pwrWord (s.basin b).gate0 (s.basin b).gate1
  | .upStat b =>
    let x := s.basin b
    fields (statWord x.upStat (anyRunning x.up)
      ++ [(9, 1, b2n (anyFaulted x.up)), (10, 3, ((x.up.find? fun c => c.phase == .running).map (·.code)).getD x.upCode)])
  | .upPos b => fields [(0, 16, (s.basin b).upPos.toNat), (16, 1, b2n (anyStopped (s.basin b).up))]
  | .upCnt b =>
    let x := s.basin b
    fields [(0, 16, x.upRefused.toNat), (16, 16, x.upClipped.toNat), (32, 16, x.upReapplied.toNat)]
  | _ => 0

/-- The block of a register, as bits [27:20] of its offset name it; 0x10 for those of the basin windows. -/
def RegName.block : RegName → Nat
  | .glId | .glTimebase | .glVcore | .glDieRate _ | .glTicketMode | .glTicketActive | .glIoTemp | .glScrub | .glT1Ecc _ | .glT2Ecc _
  | .glEccLast | .glAdCtrl | .glAdStat | .glAdCnt | .glAdCnt2 | .glBase _ => 0
  | .thStatus | .thBoot | .thCmd | .thArg | .thTelem | .thReport _ => 1
  | .lkBudget | .lkWeir | .lkWeirCnt | .lkDie _ | .lkDieWait _ | .lkPool _ _ => 2
  | .lmCtrl | .lmDie _ | .lmBasin _ => 3
  | .fnCtrl _ | .fnStat _ | .crBase _ _ | .crCtrl _ _ | .crTail _ _ | .crHead _ _ | .erBase _ _ | .erCtrl _ _ | .erHead _ _ | .erStat _ _
  | .msix _ _ | .msixPba _ => 4
  | .klModule | .klLink _ | .klLinkErr _ | .klRoute _ | .klVs _ | .klGroup _ => 5
  | .cvStat _ => 6
  | .reCfg _ | .reEpoch _ | .reStat _ | .reStep _ | .reCnt _ | .reVcnt _ | .reEng _ => 7
  | .tePartCtrl _ | .tePartStat _ | .teStat _ | .teRaw _ | .teCmp _ => 8
  | .meStat | .meSel | .meInfo | .meDrops | .meTeardown => 9
  | .mvuStat _ | .mvuPos _ | .tlbStat _ | .faultEnd _ | .basinCtrl _ | .fence _ | .spareCtrl _ | .pwrBasin _ | .upStat _ | .upPos _
  | .upCnt _ => 17
  | .gatherCtrl _ | .gatherStat _ | .mxStat _ | .mxPos _ | .cxStat _ | .accFlags _ | .vxStat _ | .atStat _ | .atPos _ | .ghStat _
  | .ghFlags _ | .twDepth _ | .twStat _ _ | .twPos _ _ | .twChamber _ | .sramEcc _ | .coreCtrl _ | .pwr _ => 16

/-- THE VALUE A REGISTER READS, reserved fields 0 (R14, R15). -/
def readReg (s : Block) (r : RegName) : Nat :=
  match r.block with
  | 0 => readGl s r | 1 => readTh s r | 2 | 3 => readPower s r | 4 => readHi s r
  | 5 | 6 | 7 => readKl s r | 8 | 9 => readTe s r | 17 => readBasin s r
  | _ => readCore s r

/-! ### What writes do -/

/-- The bits of a register that software stores (RW); W1C, W1S and WO bits act only where they are written 1. -/
def rwMask : RegName → Nat
  | .glVcore => 0x3FF | .glTicketMode => 2 ^ 64 - 1 | .glScrub => 0x1_FFFF
  | .glAdCtrl => 0xFFFF_0FFF_0001_FF01
  | .thBoot => 2 ^ 28 - 1 | .thCmd => 0xFF | .thArg | .thReport _ => 2 ^ 64 - 1
  | .lkBudget => 2 ^ 56 - 1 | .lkWeir => 0x18
  | .lmCtrl => 0xFF_FFFE
  | .crBase _ _ => 2 ^ 64 - 64 | .erBase _ _ => 2 ^ 64 - 32
  | .crCtrl _ _ => 0x3F | .crTail _ _ | .erHead _ _ => 2 ^ 32 - 1 | .erCtrl _ _ => 0xFF_FFFF_07FF
  | .msix _ o => if o % 16 = 0 then 2 ^ 64 - 1 else 2 ^ 33 - 1
  | .klModule => 0xFFF | .klLink _ => 1 | .klRoute _ => 2 ^ 64 - 1 | .klVs _ => 0xFFFF_FFFF_FFFF | .klGroup _ => 0xFF_FFFF
  | .reCfg _ => 0x3F_1FFF_FFFF | .reEpoch _ | .reStep _ => 2 ^ 64 - 1
  | .tePartCtrl _ => 0x1FF
  | .meSel => 0xFFF
  | .gatherCtrl _ => 0x1_FFFF | .twDepth _ => 0xFFFF_FFFF | .coreCtrl _ | .basinCtrl _ => 1 | .pwr _ | .pwrBasin _ => 0x30
  | .spareCtrl _ => 0x7F
  | _ => 0

/-- The bits of a register that act when written 1: W1C, W1S and WO fields. -/
def actMask : RegName → Nat
  | .glEccLast => 2 ^ 63 | .thBoot => 2 ^ 28 | .thCmd => 2 ^ 8 | .lmCtrl => 1 | .lmBasin _ => 2 ^ 13 | .fnCtrl _ => 1
  | .spareCtrl _ => 2 ^ 7 | .faultEnd _ => 2 ^ 28 - 1
  | _ => 0

/-- A write of the global block. -/
def writeGl (r : RegName) (w : Nat) (s : Block) : Block :=
  match r with
  | .glVcore => writeVcore w s
  | .glTicketMode => { s with gl := { s.gl with ticketReq := BitVec.ofNat 64 w } }
  | .glScrub =>
    let h := fun (n : Nat) => BitVec.ofNat 8 (if n = 0 then 1 else n)
    { s with gl := { s.gl with t1PeriodH := h (bitsOf w 0 8), t2PeriodH := h (bitsOf w 8 8), patrolEn := bitOf w 16 } }
  | .glEccLast => if bitOf w 63 then { s with gl := { s.gl with eccValid := false } } else s
  | .glAdCtrl =>
    fitLimits (s.modAd fun a => { a with mode := bitOf w 0, cacheLimit := min (bitsOf w 8 9) 256, t2Limit := min (bitsOf w 32 12) 2048
                                         graceMs := max (bitsOf w 48 16) 1 })
  | _ => s

/-- A write of `TH_CMD`: GO starts OP, unless an operation is in progress (R973); a reserved OP finishes with INTERNAL (R971). -/
def writeThCmd (w : Nat) (s : Block) : Block :=
  let op := bitsOf w 0 8
  let s := s.modTh fun t => { t with cmdOp := BitVec.ofNat 8 op }
  if !bitOf w 8 || s.th.cmdGo then s
  else if 1 ≤ op && op ≤ 7 then s.modTh fun t => { t with cmdGo := true, cmdRun := BitVec.ofNat 8 op }
  else s.modTh fun t => { t with cmdResult := .internal }

/-- A write of the tollhouse's block. -/
def writeTh (r : RegName) (w : Nat) (s : Block) : Block :=
  match r with
  | .thBoot => bundleGo w s
  | .thCmd => writeThCmd w s
  | .thArg => s.modTh fun t => { t with arg := BitVec.ofNat 64 w }
  | .thReport o => s.modTh fun t => { t with report := Mem.write t.report o (leBytes 8 w) }
  | _ => s

/-- A write of `LK_BUDGET`, each field held within its limits. -/
def writeBudget (w : Nat) (s : Block) : Block :=
  let sustain := min (bitsOf w 0 12) 412
  let peak := max (min (bitsOf w 12 12) 462) sustain
  s.modLock fun x =>
    { x with sustainW := BitVec.ofNat 12 sustain, peakW := BitVec.ofNat 12 peak
             poolMj := BitVec.ofNat 16 (min (bitsOf w 24 16) ((peak - sustain) * 20)), ageUs := BitVec.ofNat 16 (max (bitsOf w 40 16) 1) }

/-- A write of the LK_ and LM_ blocks. A raised SAG_LEVEL takes effect while SAG_N is low (R917); CAL_NOW starts a
calibration, which ends with the row CAL_NOW. -/
def writePower (r : RegName) (w : Nat) (s : Block) : Block :=
  match r with
  | .lkBudget => writeBudget w s
  | .lkWeir =>
    let n := bitsOf w 3 2
    applyWeir (s.modLock fun x => { x with sagLevel := BitVec.ofNat 2 (max n 1) })
  | .lmCtrl =>
    let pct := bitsOf w 17 7
    { s with lm := { s.lm with
        periodH := BitVec.ofNat 8 (max (bitsOf w 1 8) 1), targetPs := BitVec.ofNat 8 (max (bitsOf w 9 8) 24)
        floorPct := BitVec.ofNat 7 (if 50 ≤ pct && pct ≤ 100 then pct else 90), busy := s.lm.busy || bitOf w 0 } }
  | .lmBasin b => if bitOf w 13 then s.modLmBasin b fun x => { x with retireReq := false } else s
  | _ => s

/-- A write of an MSI-X table entry; clearing the mask bit is MSIX_UNMASK (R855). -/
def writeMsix (f o w : Nat) (s : Block) : Block :=
  if o % 16 = 0 then s.modFunc f fun x => { x with msix := Mem.write x.msix o (leBytes 8 w) }
  else
    let v := o / 16
    let s := s.modFunc f fun x => { x with msix := Mem.write x.msix o (leBytes 4 w) }
    if bitOf w 32 then s.modFunc f fun x => { x with vecMask := x.vecMask ||| (1#32 <<< v) }
    else if bitOf (s.func f).vecMask.toNat v then unmaskVector f v s else s

/-- A write of a function page. -/
def writeHi (r : RegName) (w : Nat) (s : Block) : Block :=
  match r with
  | .fnCtrl f => if bitOf w 0 then s.modFunc f fun x => { x with resetting := true } else s
  | .crBase f c =>
    if ((s.func f).cr c).en then s else s.modFunc f fun x => x.setCr c { x.cr c with base := BitVec.ofNat 64 (w / 64 * 64) }
  | .erBase f e =>
    if ((s.func f).er e).en then s else s.modFunc f fun x => x.setEr e { x.er e with base := BitVec.ofNat 64 (w / 32 * 32) }
  | .crCtrl f c => writeCrCtrl f c w s
  | .crTail f c => writeTail f c w s
  | .erCtrl f e => writeErCtrl f e w s
  | .erHead f e => writeErHead f e w s
  | .msix f o => writeMsix f o w s
  | _ => s

/-- A write of the Kreash and reduction blocks. -/
def writeKl (r : RegName) (w : Nat) (s : Block) : Block :=
  match r with
  | .klModule => s.modKreash fun k => { k with moduleId := BitVec.ofNat 12 w }
  | .klLink l => linkEnable l (bitOf w 0) s
  | .klRoute i => s.modKreash fun k => { k with routes := SMap.put (BitVec.allOnes 64) i (BitVec.ofNat 64 w) k.routes }
  | .klVs v => writeVsCfg v w s
  | .klGroup g => s.modKreash fun k => { k with groupLinks := SMap.put 0 g (BitVec.ofNat 24 w) k.groupLinks }
  | .reCfg g => writeGroupCfg g w s
  | .reEpoch g => writeEpoch g w s
  | .reStep g => writeStep g w s
  | _ => s

/-- A write of `TE_PART_CTRL_p`. TE_LOOKAHEAD takes effect at the next `tm.layer` (R509). -/
def writeTePart (p w : Nat) (s : Block) : Block :=
  let c := bitsOf w 0 9
  let s := { s with teCtrl := SMap.put 0x102 p c s.teCtrl }
  s.modPart p fun x => { x with lookahead := BitVec.ofNat 8 (bitsOf c 0 8), schedEn := bitOf c 8 }

def writeTe (r : RegName) (w : Nat) (s : Block) : Block :=
  match r with
  | .tePartCtrl p => writeTePart p w s
  | .meSel => { s with slotSel := BitVec.ofNat 12 w }
  | _ => s

/-- The enable bits of two gated units. -/
def writePwr (u v : GateRef) (w : Nat) (s : Block) : Block :=
  let set := fun (u : GateRef) (en : Bool) (s : Block) => if en then unitEnable u s else unitStop u s
  set v (bitOf w 5) (set u (bitOf w 4) s)

/-- A write of `BS_SPARE_CTRL`. COPY and DEAD complete here; TEST completes with the row TEST, which tells its outcome. A
physical slot above 16 is refused as malformed (assumption 59). -/
def writeSpare (b w : Nat) (s : Block) : Block :=
  let p := bitsOf w 0 5
  let op := bitsOf w 5 2
  askSpare b p op (fun s =>
    if !bitOf w 7 || op = 0 then s
    else if 16 < p then spareDone b .internal s
    else
      match op with
      | 1 => copyCore b p s
      | 2 => deadCore b p s
      | _ => s.modBasin b fun x => { x with spareGo := true }) s

/-- A write of a basin window. -/
def writeBs (r : RegName) (w : Nat) (s : Block) : Block :=
  match r with
  | .gatherCtrl c => s.modCore c fun x => { x with q := { x.q with gatherWindow := BitVec.ofNat 16 w, gatherEn := bitOf w 16 } }
  | .twDepth c =>
    let d := fun (q : Nat) => BitVec.ofNat 8 (min (max (bitsOf w (8 * q) 8) 1) 64)
    s.modCore c fun x => { x with twDepth := [d 0, d 1, d 2, d 3] }
  | .coreCtrl c => resumeCore c (s.modCore c fun x => { x with regs := { x.regs with stopReq := bitOf w 0 } })
  | .pwr c => writePwr (.core c false) (.core c true) w s
  | .faultEnd b => faultEnd b w s
  | .basinCtrl b => resumeBasin b (s.modBasin b fun x => { x with stopReq := bitOf w 0 })
  | .spareCtrl b => writeSpare b w s
  | .pwrBasin b => writePwr (.basin b false) (.basin b true) w s
  | _ => s

/-- A WRITE OF A REGISTER, by its fields' access codes (R14, R17). -/
def writeReg (r : RegName) (w : Nat) (s : Block) : Block :=
  match r.block with
  | 0 => writeGl r w s | 1 => writeTh r w s | 2 | 3 => writePower r w s | 4 => writeHi r w s
  | 5 | 6 | 7 => writeKl r w s | 8 | 9 => writeTe r w s
  | _ => writeBs r w s

/-! ### What an actor's read returns (R293, R406, R811, R823, R831, R835, R836, R838, R940, R949, R981–R983) -/

/-- Memory requests of the host reach the module: its main rails are up, PERST_N is released and the link has trained. -/
def hostLink (s : Block) : Bool :=
  s.th.mainUp && s.th.perstN && s.th.stage != .tollhouse && s.th.stage != .link

/-- The bits of a 64-bit register that an access covers (R983). -/
def accessMask (off size : Nat) : Nat := if size = 8 then 2 ^ 64 - 1 else if off % 8 = 0 then 2 ^ 32 - 1 else 2 ^ 64 - 2 ^ 32

/-- The fields of a register that are performance counters: lowest bit and width (R811; which they are, assumption 101). -/
def RegName.counters : RegName → List (Nat × Nat)
  | .gatherStat _ => [(0, 32), (32, 32)]
  | .mxStat _ | .cxStat _ | .atStat _ | .mvuStat _ | .upStat _ => [(16, 32)]
  | .vxStat _ | .twStat _ _ => [(32, 32)]
  | .ghStat _ => [(32, 16)]
  | .sramEcc _ | .tlbStat _ => [(0, 32), (32, 16)]
  | .upCnt _ => [(0, 16), (16, 16), (32, 16)]
  | _ => []

/-- A VF's host driver never sees these (R940). -/
def RegName.hidden : RegName → Bool
  | .fence _ | .spareCtrl _ | .pwr _ | .pwrBasin _ => true
  | _ => false

/-- A register with its performance counters as parties see them: their values at the last 1 ms boundary of the timebase, rounded
down to a multiple of 1,024 (R811). -/
def roundCounters (shown : Nat) (r : RegName) (w : Nat) : Nat :=
  r.counters.foldl (fun w (f : Nat × Nat) => w - bitsOf w f.1 f.2 * 2 ^ f.1 + bitsOf shown f.1 f.2 / 1024 * 1024 * 2 ^ f.1) w

/-- The offset in PF BAR0 of what a VF reads in its basin window (R835, R985). -/
def windowOffset (s : Block) (f off : Nat) : Nat :=
  let basins := (((s.func f).bound.bind fun p => SMap.find p s.parts).map (·.basins)).getD []
  0x100_0000 + 0x1_0000 * basins.getD ((off - 0x10_0000) / 0x1_0000) 0 + off % 0x1_0000

/-- The offset lies in a basin window of a partition that a locked or running TDI is bound to: PF reads return 0 (R823). -/
def blanked (s : Block) (off : Nat) : Bool :=
  decide (0x100_0000 ≤ off) && decide (off < 0x200_0000) &&
    match s.partOfBasin ((off - 0x100_0000) / 0x1_0000) with
    | none => false
    | some p => s.host.fns.any fun f => f.2.bound == some p && (f.2.tdi == .locked || f.2.tdi == .run)

/-- The 64 bits an actor's read finds at an offset of its BAR0. -/
def visibleWord (s : Block) (a : Actor) (off : Nat) : Nat :=
  let off := off / 8 * 8
  match a with
  | .fw => ((pfReg off).map (readReg s)).getD 0
  | .host 0 => if blanked s off then 0 else ((pfReg off).map (readReg s)).getD 0
  | .host f =>
    match vfReg s f off with
    | none => 0
    | some r => if r.hidden then 0 else roundCounters (SMap.get 0 (windowOffset s f off) s.host.shown) r (readReg s r)

/-- A read of an actor is answered: of 4 or 8 aligned bytes (R982); outside the TH_ block only while the module is ready
(R949). -/
def readAnswered (s : Block) (a : Actor) (off size : Nat) : Bool :=
  (size == 4 || size == 8) && off % size == 0 &&
    match a with
    | .fw => s.th.mainUp
    | .host 0 => hostLink s && decide (off < 0x400_0000) && (fwUp s || off / 2 ^ 20 == 1)
    | .host f => hostLink s && decide (f < 64) && fwUp s && decide (off < 0x100_0000)

/-- WHAT AN ACTOR'S READ RETURNS; none where it completes with Unsupported Request. The PF's offsets from 0x0400_0000 on are
its BAR2, which reads 0 outside start-up (R834). -/
def registerRead (s : Block) (a : Actor) (off size : Nat) : Option Nat :=
  if a = .host 0 && 0x400_0000 ≤ off then
    (if hostLink s && s.th.stage != .degraded && off + size ≤ 0x1400_0000 then
       some (if fwUp s then 0 else Mem.nat s.th.bar2 (off - 0x400_0000) size)
     else none)
  else if !readAnswered s a off size then none
  else
    let w := visibleWord s a off
    some (if size = 8 then w else if off % 8 = 0 then w % 2 ^ 32 else w / 2 ^ 32)

/-- A 1 ms boundary of the timebase: what the registers with performance counters read is kept for parties (R811). -/
def showCounters (s : Block) : Block :=
  let put := fun (off : Nat) (m : SMap Nat) => match pfReg off with
    | some r => if r.counters.isEmpty then m else SMap.put 0 off (readReg s r) m
    | none => m
  let core := [0x48, 0x80, 0x90, 0xB0, 0xC0, 0xD0, 0x108, 0x110, 0x118, 0x120, 0x180]
  let basin := [0x800, 0x840, 0x880, 0x890]
  let at_ := fun (c : Nat) => 0x100_0000 + 0x1_0000 * (c / 16) + 0x1000 * (c % 16)
  let m := s.cores.foldl (fun m c => if isSystem c.1 then m else core.foldl (fun m o => put (at_ c.1 + o) m) m) []
  let m := s.basins.foldl (fun m b => basin.foldl (fun m o => put (0x100_0000 + 0x1_0000 * b.1 + o) m) m) m
  { s with host := { s.host with shown := m } }

/-! ### Who may write, and REGISTER_WRITE -/

/-- The PF host driver may write a register (R77, R231, R459, R509, R674, R790, R831, R838, R940, R979, R980). Of another
function's page its write reaches HI_FN_RESET alone. -/
def pfMayWrite : RegName → Bool
  | .thBoot | .thCmd | .thArg | .thReport _ => true
  | .fnCtrl _ => true
  | .crBase f _ | .crCtrl f _ | .crTail f _ | .erBase f _ | .erCtrl f _ | .erHead f _ | .msix f _ => f == 0
  | .tePartCtrl _ | .meSel | .gatherCtrl _ | .twDepth _ => true
  | _ => false

/-- A VF's host driver may write a register of its BAR0 (R232, R459, R835). -/
def vfMayWrite : RegName → Bool
  | .fnCtrl _ | .crBase _ _ | .crCtrl _ _ | .crTail _ _ | .erBase _ _ | .erCtrl _ _ | .erHead _ _ | .msix _ _ => true
  | .gatherCtrl _ | .twDepth _ => true
  | _ => false

/-- The register that a write of an actor reaches, when it takes effect there. -/
def writtenReg (s : Block) (a : Actor) (off : Nat) : Option RegName :=
  match a with
  | .fw => if s.th.mainUp then pfReg off else none
  | .host 0 =>
    if hostLink s && off < 0x400_0000 && (fwUp s || off / 2 ^ 20 == 1) then (pfReg off).filter pfMayWrite else none
  | .host f => if hostLink s && f < 64 && fwUp s && off < 0x100_0000 then (vfReg s f off).filter vfMayWrite else none

/-- The 64-bit value a write stores: what it covers, and elsewhere what the RW fields hold (R983). -/
def mergedValue (s : Block) (r : RegName) (off size : Nat) (v : U64) : Nat :=
  let m := accessMask off size
  let new := if size = 8 then v.toNat else if off % 8 = 0 then v.toNat % 2 ^ 32 else v.toNat % 2 ^ 32 * 2 ^ 32
  new + ((readReg s r &&& rwMask r) &&& (2 ^ 64 - 1 - m))

/-- A write of the boot window: the bytes of BAR2 (R949). At weir level 4 it is not answered (R919, assumption 58). -/
def writeBar2 (off size : Nat) (v : U64) (s : Block) : Block :=
  if hostLink s && s.th.stage != .degraded && size ≤ 8 && off + size ≤ 0x1000_0000 then
    s.modTh fun t => { t with bar2 := Mem.write t.bar2 off (leBytes size v.toNat) }
  else s

/-- REGISTER_WRITE: a write that is not 4 or 8 bytes long and aligned has no effect (R982); one that covers no field of the
register that can be written changes nothing. -/
def registerWrite (a : Actor) (off size : Nat) (v : U64) (s : Block) : Block :=
  if a = .host 0 && 0x400_0000 ≤ off then writeBar2 (off - 0x400_0000) size v s
  else if (size ≠ 4 && size ≠ 8) || off % size ≠ 0 then s
  else
    match writtenReg s a off with
    | none => s
    | some r =>
      if (rwMask r ||| actMask r) &&& accessMask off size = 0 then s else writeReg r (mergedValue s r off size v) s

def execRegisterWrite (actor : Actor) (off size : Nat) (value : U64) (s : State) : Result := onBlock s fun s => .next (registerWrite actor off size value s)

end Sys2Proof.Machine
end

