-- ==== Sys2Proof/Machine/Dispatch.lean ====
section
/-! DEFINITION. The dispatch of commands: one arm per constructor of `Instr`, each one direct call of its meaning. -/

namespace Sys2Proof.Machine

/-- A command's effect on everything but the queue of waiting commands. -/
def exec (i : Instr) (s : State) : Host.Outcome State Fault Refusal :=
  match i with
  | .add th d a b => Sys2Proof.Machine.execAdd th d a b s
  | .sub th d a b => Sys2Proof.Machine.execSub th d a b s
  | .mul th d a b => Sys2Proof.Machine.execMul th d a b s
  | .mulh th d a b => Sys2Proof.Machine.execMulh th d a b s
  | .mulhu th d a b => Sys2Proof.Machine.execMulhu th d a b s
  | .div th d a b => Sys2Proof.Machine.execDiv th d a b s
  | .divu th d a b => Sys2Proof.Machine.execDivu th d a b s
  | .rem th d a b => Sys2Proof.Machine.execRem th d a b s
  | .remu th d a b => Sys2Proof.Machine.execRemu th d a b s
  | .andd th d a b => Sys2Proof.Machine.execAndd th d a b s
  | .orr th d a b => Sys2Proof.Machine.execOrr th d a b s
  | .xor th d a b => Sys2Proof.Machine.execXor th d a b s
  | .andn th d a b => Sys2Proof.Machine.execAndn th d a b s
  | .sll th d a b => Sys2Proof.Machine.execSll th d a b s
  | .srl th d a b => Sys2Proof.Machine.execSrl th d a b s
  | .sra th d a b => Sys2Proof.Machine.execSra th d a b s
  | .minS th d a b => Sys2Proof.Machine.execMinS th d a b s
  | .maxS th d a b => Sys2Proof.Machine.execMaxS th d a b s
  | .minu th d a b => Sys2Proof.Machine.execMinu th d a b s
  | .maxu th d a b => Sys2Proof.Machine.execMaxu th d a b s
  | .clz th d a => Sys2Proof.Machine.execClz th d a s
  | .ctz th d a => Sys2Proof.Machine.execCtz th d a s
  | .popc th d a => Sys2Proof.Machine.execPopc th d a s
  | .sextB th d a => Sys2Proof.Machine.execSextB th d a s
  | .sextH th d a => Sys2Proof.Machine.execSextH th d a s
  | .sextW th d a => Sys2Proof.Machine.execSextW th d a s
  | .zextW th d a => Sys2Proof.Machine.execZextW th d a s
  | .addi th d a imm => Sys2Proof.Machine.execAddi th d a imm s
  | .andi th d a imm => Sys2Proof.Machine.execAndi th d a imm s
  | .ori th d a imm => Sys2Proof.Machine.execOri th d a imm s
  | .xori th d a imm => Sys2Proof.Machine.execXori th d a imm s
  | .shiLeft th d a amount => Sys2Proof.Machine.execShiLeft th d a amount s
  | .shiLogicalRight th d a amount => Sys2Proof.Machine.execShiLogicalRight th d a amount s
  | .shiArithRight th d a amount => Sys2Proof.Machine.execShiArithRight th d a amount s
  | .lui th d imm => Sys2Proof.Machine.execLui th d imm s
  | .cmp th comb pd cond a b => Sys2Proof.Machine.execCmp th comb pd cond a b s
  | .cmpi th comb pd cond a imm => Sys2Proof.Machine.execCmpi th comb pd cond a imm s
  | .pand th pd pa pb => Sys2Proof.Machine.execPand th pd pa pb s
  | .por th pd pa pb => Sys2Proof.Machine.execPor th pd pa pb s
  | .pxor th pd pa pb => Sys2Proof.Machine.execPxor th pd pa pb s
  | .pandn th pd pa pb => Sys2Proof.Machine.execPandn th pd pa pb s
  | .pnot th pd pa pb => Sys2Proof.Machine.execPnot th pd pa pb s
  | .pmov th pd pa pb => Sys2Proof.Machine.execPmov th pd pa pb s
  | .pset th pd pa pb => Sys2Proof.Machine.execPset th pd pa pb s
  | .pclr th pd pa pb => Sys2Proof.Machine.execPclr th pd pa pb s
  | .sel th d a b p => Sys2Proof.Machine.execSel th d a b p s
  | .branch th sense p off => Sys2Proof.Machine.execBranch th sense p off s
  | .jump th off => Sys2Proof.Machine.execJump th off s
  | .call th off => Sys2Proof.Machine.execCall th off s
  | .jr th a link => Sys2Proof.Machine.execJr th a link s
  | .jl th link off => Sys2Proof.Machine.execJl th link off s
  | .li th d imm => Sys2Proof.Machine.execLi th d imm s
  | .lih th d imm => Sys2Proof.Machine.execLih th d imm s
  | .addil th d a imm => Sys2Proof.Machine.execAddil th d a imm s
  | .illegalOp th => Sys2Proof.Machine.execIllegalOp th s
  | .ldt th d a size sx off => Sys2Proof.Machine.execLdt th d a size sx off s
  | .stt th d a size off => Sys2Proof.Machine.execStt th d a size off s
  | .ldv th d a size sx off => Sys2Proof.Machine.execLdv th d a size sx off s
  | .stv th d a size off => Sys2Proof.Machine.execStv th d a size off s
  | .amoAdd th d a b wide => Sys2Proof.Machine.execAmoAdd th d a b wide s
  | .amoAnd th d a b wide => Sys2Proof.Machine.execAmoAnd th d a b wide s
  | .amoOr th d a b wide => Sys2Proof.Machine.execAmoOr th d a b wide s
  | .amoXor th d a b wide => Sys2Proof.Machine.execAmoXor th d a b wide s
  | .amoMin th d a b wide => Sys2Proof.Machine.execAmoMin th d a b wide s
  | .amoMax th d a b wide => Sys2Proof.Machine.execAmoMax th d a b wide s
  | .amoMinu th d a b wide => Sys2Proof.Machine.execAmoMinu th d a b wide s
  | .amoMaxu th d a b wide => Sys2Proof.Machine.execAmoMaxu th d a b wide s
  | .amoSwap th d a b wide => Sys2Proof.Machine.execAmoSwap th d a b wide s
  | .amoCas th d a b wide => Sys2Proof.Machine.execAmoCas th d a b wide s
  | .ldvDataReturn th => Sys2Proof.Machine.execLdvDataReturn th s
  | .icacheFill th => Sys2Proof.Machine.execIcacheFill th s
  | .thPark th => Sys2Proof.Machine.execThPark th s
  | .thWake th a => Sys2Proof.Machine.execThWake th a s
  | .thStart th d a b => Sys2Proof.Machine.execThStart th d a b s
  | .thExit th => Sys2Proof.Machine.execThExit th s
  | .thYield th => Sys2Proof.Machine.execThYield th s
  | .yieldExpiry th => Sys2Proof.Machine.execYieldExpiry th s
  | .thBrk th => Sys2Proof.Machine.execThBrk th s
  | .thParkt th a => Sys2Proof.Machine.execThParkt th a s
  | .parktTimeout th => Sys2Proof.Machine.execParktTimeout th s
  | .rdst th d sel => Sys2Proof.Machine.execRdst th d sel s
  | .syWait th d a => Sys2Proof.Machine.execSyWait th d a s
  | .syFence th scope => Sys2Proof.Machine.execSyFence th scope s
  | .sysTstop th d a => Sys2Proof.Machine.execSysTstop th d a s
  | .sysTsave th d a b => Sys2Proof.Machine.execSysTsave th d a b s
  | .sysTrest th d a b => Sys2Proof.Machine.execSysTrest th d a b s
  | .sysTgo th d a => Sys2Proof.Machine.execSysTgo th d a s
  | .sysTfree th d a => Sys2Proof.Machine.execSysTfree th d a s
  | .sysCtxbind th d a b => Sys2Proof.Machine.execSysCtxbind th d a b s
  | .sysPtroot th d a b => Sys2Proof.Machine.execSysPtroot th d a b s
  | .sysTlbinv th d a b => Sys2Proof.Machine.execSysTlbinv th d a b s
  | .sysScrub th d a => Sys2Proof.Machine.execSysScrub th d a s
  | .mxFwd th d a w => Sys2Proof.Machine.execMxFwd th d a w s
  | .mxRev th d a pk => Sys2Proof.Machine.execMxRev th d a pk s
  | .mxFwd3 th d a pk => Sys2Proof.Machine.execMxFwd3 th d a pk s
  | .mxRev3 th d a pk => Sys2Proof.Machine.execMxRev3 th d a pk s
  | .mxDrain th d a pk => Sys2Proof.Machine.execMxDrain th d a pk s
  | .gatherWindowExpiry core group => Sys2Proof.Machine.execGatherWindowExpiry core group s
  | .cxDown th d a w => Sys2Proof.Machine.execCxDown th d a w s
  | .cxBack th d a pk => Sys2Proof.Machine.execCxBack th d a pk s
  | .cxGrad th d a pk => Sys2Proof.Machine.execCxGrad th d a pk s
  | .mvFwd th d a w => Sys2Proof.Machine.execMvFwd th d a w s
  | .mvRev th d a pk => Sys2Proof.Machine.execMvRev th d a pk s
  | .mvFwd3 th d a pk => Sys2Proof.Machine.execMvFwd3 th d a pk s
  | .vxRun th d a w => Sys2Proof.Machine.execVxRun th d a w s
  | .vxSum th d a pk => Sys2Proof.Machine.execVxSum th d a pk s
  | .vxStep th d a pk => Sys2Proof.Machine.execVxStep th d a pk s
  | .vxTload th d a pk => Sys2Proof.Machine.execVxTload th d a pk s
  | .vxComb th d a pk => Sys2Proof.Machine.execVxComb th d a pk s
  | .vxMov th d a pk => Sys2Proof.Machine.execVxMov th d a pk s
  | .vxAdd th d a pk => Sys2Proof.Machine.execVxAdd th d a pk s
  | .vxSub th d a pk => Sys2Proof.Machine.execVxSub th d a pk s
  | .vxMul th d a pk => Sys2Proof.Machine.execVxMul th d a pk s
  | .vxFma th d a pk => Sys2Proof.Machine.execVxFma th d a pk s
  | .vxDiv th d a pk => Sys2Proof.Machine.execVxDiv th d a pk s
  | .vxRecip th d a pk => Sys2Proof.Machine.execVxRecip th d a pk s
  | .vxSqrt th d a pk => Sys2Proof.Machine.execVxSqrt th d a pk s
  | .vxRsqrt th d a pk => Sys2Proof.Machine.execVxRsqrt th d a pk s
  | .vxExp th d a pk => Sys2Proof.Machine.execVxExp th d a pk s
  | .vxExp2 th d a pk => Sys2Proof.Machine.execVxExp2 th d a pk s
  | .vxLog th d a pk => Sys2Proof.Machine.execVxLog th d a pk s
  | .vxLog2 th d a pk => Sys2Proof.Machine.execVxLog2 th d a pk s
  | .vxMin th d a pk => Sys2Proof.Machine.execVxMin th d a pk s
  | .vxMax th d a pk => Sys2Proof.Machine.execVxMax th d a pk s
  | .vxAbs th d a pk => Sys2Proof.Machine.execVxAbs th d a pk s
  | .vxNeg th d a pk => Sys2Proof.Machine.execVxNeg th d a pk s
  | .vxClamp th d a pk => Sys2Proof.Machine.execVxClamp th d a pk s
  | .vxCvt th d a pk => Sys2Proof.Machine.execVxCvt th d a pk s
  | .vxLut th d a pk => Sys2Proof.Machine.execVxLut th d a pk s
  | .vxShuf th d a pk => Sys2Proof.Machine.execVxShuf th d a pk s
  | .vxRsum th d a pk => Sys2Proof.Machine.execVxRsum th d a pk s
  | .vxRmax th d a pk => Sys2Proof.Machine.execVxRmax th d a pk s
  | .vxRmin th d a pk => Sys2Proof.Machine.execVxRmin th d a pk s
  | .twArm th d a w => Sys2Proof.Machine.execTwArm th d a w s
  | .twFlip th d a pk => Sys2Proof.Machine.execTwFlip th d a pk s
  | .flipSwap core => Sys2Proof.Machine.execFlipSwap core s
  | .twPair th d a pk => Sys2Proof.Machine.execTwPair th d a pk s
  | .pairSet core => Sys2Proof.Machine.execPairSet core s
  | .programActivate core q => Sys2Proof.Machine.execProgramActivate core q s
  | .move core q => Sys2Proof.Machine.execMove core q s
  | .adds core q => Sys2Proof.Machine.execAdds core q s
  | .loopBack core q => Sys2Proof.Machine.execLoopBack core q s
  | .waitc core q => Sys2Proof.Machine.execWaitc core q s
  | .signal core q => Sys2Proof.Machine.execSignal core q s
  | .endProg core q => Sys2Proof.Machine.execEndProg core q s
  | .transferIssue core q => Sys2Proof.Machine.execTransferIssue core q s
  | .transferComplete core q index => Sys2Proof.Machine.execTransferComplete core q index s
  | .atRun th d a w => Sys2Proof.Machine.execAtRun th d a w s
  | .atBack th d a pk => Sys2Proof.Machine.execAtBack th d a pk s
  | .atMerge th d a pk => Sys2Proof.Machine.execAtMerge th d a pk s
  | .upTake th d a w => Sys2Proof.Machine.execUpTake th d a w s
  | .upNorm th d a pk => Sys2Proof.Machine.execUpNorm th d a pk s
  | .upApply th d a pk => Sys2Proof.Machine.execUpApply th d a pk s
  | .upDigest th d a pk => Sys2Proof.Machine.execUpDigest th d a pk s
  | .rdSum th d a w => Sys2Proof.Machine.execRdSum th d a w s
  | .rdClose th d a pk => Sys2Proof.Machine.execRdClose th d a pk s
  | .rdHash th d a pk => Sys2Proof.Machine.execRdHash th d a pk s
  | .tmMove th d a w => Sys2Proof.Machine.execTmMove th d a w s
  | .tmLayer th d a pk => Sys2Proof.Machine.execTmLayer th d a pk s
  | .tmHome th d a pk => Sys2Proof.Machine.execTmHome th d a pk s
  | .ckRun th d a w => Sys2Proof.Machine.execCkRun th d a w s
  | .depSatisfied q => Sys2Proof.Machine.execDepSatisfied q s
  | .lockGrantSlot basin => Sys2Proof.Machine.execLockGrantSlot basin s
  | .passStart q => Sys2Proof.Machine.execPassStart q s
  | .engineStopPoint u => Sys2Proof.Machine.execEngineStopPoint u s
  | .pageMove engine => Sys2Proof.Machine.execPageMove engine s
  | .scheduleEntryStart ctx => Sys2Proof.Machine.execScheduleEntryStart ctx s
  | .rekeyPage slot ctx va => Sys2Proof.Machine.execRekeyPage slot ctx va s
  | .faultRecordTake die => Sys2Proof.Machine.execFaultRecordTake die s
  | .bsFaultEnd basin value => Sys2Proof.Machine.execBsFaultEnd basin value s
  | .patrolMem space addr symbolErrors => Sys2Proof.Machine.execPatrolMem space addr symbolErrors s
  | .patrolSram basin pslot off bitErrors => Sys2Proof.Machine.execPatrolSram basin pslot off bitErrors s
  | .rateWindow sample => Sys2Proof.Machine.execRateWindow sample s
  | .ticketModeChange part => Sys2Proof.Machine.execTicketModeChange part s
  | .adRegister p => Sys2Proof.Machine.execAdRegister p s
  | .adPublish p => Sys2Proof.Machine.execAdPublish p s
  | .adRevoke p => Sys2Proof.Machine.execAdRevoke p s
  | .adRemove p => Sys2Proof.Machine.execAdRemove p s
  | .adLoad p => Sys2Proof.Machine.execAdLoad p s
  | .adExport p => Sys2Proof.Machine.execAdExport p s
  | .adQuery p => Sys2Proof.Machine.execAdQuery p s
  | .adMode p => Sys2Proof.Machine.execAdMode p s
  | .rqAdmit p => Sys2Proof.Machine.execRqAdmit p s
  | .rqEnd p => Sys2Proof.Machine.execRqEnd p s
  | .baseLoad p => Sys2Proof.Machine.execBaseLoad p s
  | .baseSwitch p => Sys2Proof.Machine.execBaseSwitch p s
  | .baseRetire p => Sys2Proof.Machine.execBaseRetire p s
  | .resCreate p => Sys2Proof.Machine.execResCreate p s
  | .resAppend p => Sys2Proof.Machine.execResAppend p s
  | .resTake p => Sys2Proof.Machine.execResTake p s
  | .resClear p => Sys2Proof.Machine.execResClear p s
  | .serviceQueuePoll ctx => Sys2Proof.Machine.execServiceQueuePoll ctx s
  | .boundaryPoll => Sys2Proof.Machine.execBoundaryPoll s
  | .revokeGraceExpiry entry => Sys2Proof.Machine.execRevokeGraceExpiry entry s
  | .hiCrTail fn ring value => Sys2Proof.Machine.execHiCrTail fn ring value s
  | .ringEntryTake fn ring => Sys2Proof.Machine.execRingEntryTake fn ring s
  | .slotReserve p => Sys2Proof.Machine.execSlotReserve p s
  | .slotTeardown p => Sys2Proof.Machine.execSlotTeardown p s
  | .partCreate p => Sys2Proof.Machine.execPartCreate p s
  | .partDestroy p => Sys2Proof.Machine.execPartDestroy p s
  | .fnBind p => Sys2Proof.Machine.execFnBind p s
  | .grpSet p => Sys2Proof.Machine.execGrpSet p s
  | .ctxCreate p => Sys2Proof.Machine.execCtxCreate p s
  | .ctxLoad p => Sys2Proof.Machine.execCtxLoad p s
  | .ctxAddslot p => Sys2Proof.Machine.execCtxAddslot p s
  | .ctxEnd p => Sys2Proof.Machine.execCtxEnd p s
  | .migOffer p => Sys2Proof.Machine.execMigOffer p s
  | .migKey p => Sys2Proof.Machine.execMigKey p s
  | .migDirty p => Sys2Proof.Machine.execMigDirty p s
  | .migFreeze p => Sys2Proof.Machine.execMigFreeze p s
  | .migSave p => Sys2Proof.Machine.execMigSave p s
  | .migThaw p => Sys2Proof.Machine.execMigThaw p s
  | .migDiscard p => Sys2Proof.Machine.execMigDiscard p s
  | .migRestore p => Sys2Proof.Machine.execMigRestore p s
  | .migStart p => Sys2Proof.Machine.execMigStart p s
  | .hiCrCtrl fn ring value => Sys2Proof.Machine.execHiCrCtrl fn ring value s
  | .hiErCtrl fn ring value => Sys2Proof.Machine.execHiErCtrl fn ring value s
  | .hiErHead fn ring value => Sys2Proof.Machine.execHiErHead fn ring value s
  | .interruptModTimer fn ring => Sys2Proof.Machine.execInterruptModTimer fn ring s
  | .msixUnmask fn vector => Sys2Proof.Machine.execMsixUnmask fn vector s
  | .functionLevelReset fn => Sys2Proof.Machine.execFunctionLevelReset fn s
  | .configRequest fn => Sys2Proof.Machine.execConfigRequest fn s
  | .atsInvalidation fn addr len => Sys2Proof.Machine.execAtsInvalidation fn addr len s
  | .pcieFatalError => Sys2Proof.Machine.execPcieFatalError s
  | .keyReserve slot party => Sys2Proof.Machine.execKeyReserve slot party s
  | .keyInstall by_ slot secret => Sys2Proof.Machine.execKeyInstall by_ slot secret s
  | .keyRotate by_ slot secret => Sys2Proof.Machine.execKeyRotate by_ slot secret s
  | .keyRevoke by_ slot => Sys2Proof.Machine.execKeyRevoke by_ slot s
  | .keyZeroize by_ slot => Sys2Proof.Machine.execKeyZeroize by_ slot s
  | .keyFree by_ slot => Sys2Proof.Machine.execKeyFree by_ slot s
  | .setBind by_ slot record => Sys2Proof.Machine.execSetBind by_ slot record s
  | .getVersion c version => Sys2Proof.Machine.execGetVersion c version s
  | .getCapabilities c version => Sys2Proof.Machine.execGetCapabilities c version s
  | .negotiateAlgorithms c version offer => Sys2Proof.Machine.execNegotiateAlgorithms c version offer s
  | .getDigests c version => Sys2Proof.Machine.execGetDigests c version s
  | .getCertificate c version slot off len => Sys2Proof.Machine.execGetCertificate c version slot off len s
  | .challenge c version slot nonce => Sys2Proof.Machine.execChallenge c version slot nonce s
  | .getMeasurements c version index sign nonce => Sys2Proof.Machine.execGetMeasurements c version index sign nonce s
  | .keyExchange c version exchange kemDigest => Sys2Proof.Machine.execKeyExchange c version exchange kemDigest s
  | .finishMsg c version session verify => Sys2Proof.Machine.execFinishMsg c version session verify s
  | .heartbeat c version session => Sys2Proof.Machine.execHeartbeat c version session s
  | .keyUpdate c version session op => Sys2Proof.Machine.execKeyUpdate c version session op s
  | .endSession c version session => Sys2Proof.Machine.execEndSession c version session s
  | .chunkSend c version handle seq last chunk => Sys2Proof.Machine.execChunkSend c version handle seq last chunk s
  | .chunkGet c version handle seq => Sys2Proof.Machine.execChunkGet c version handle seq s
  | .hkPqsig c => Sys2Proof.Machine.execHkPqsig c s
  | .hkReport c nonce mask => Sys2Proof.Machine.execHkReport c nonce mask s
  | .hkKemkey c => Sys2Proof.Machine.execHkKemkey c s
  | .hkKemek c key => Sys2Proof.Machine.execHkKemek c key s
  | .hkKemct c session => Sys2Proof.Machine.execHkKemct c session s
  | .hkKeyop c session party op slot payload => Sys2Proof.Machine.execHkKeyop c session party op slot payload s
  | .getTdispVersion fn => Sys2Proof.Machine.execGetTdispVersion fn s
  | .getTdispCapabilities fn => Sys2Proof.Machine.execGetTdispCapabilities fn s
  | .lockInterface fn => Sys2Proof.Machine.execLockInterface fn s
  | .getDeviceInterfaceReport fn => Sys2Proof.Machine.execGetDeviceInterfaceReport fn s
  | .getDeviceInterfaceState fn => Sys2Proof.Machine.execGetDeviceInterfaceState fn s
  | .startInterfaceRequest fn => Sys2Proof.Machine.execStartInterfaceRequest fn s
  | .stopInterfaceRequest fn => Sys2Proof.Machine.execStopInterfaceRequest fn s
  | .flitRx link flit fec => Sys2Proof.Machine.execFlitRx link flit fec s
  | .streamRecordRx src vs => Sys2Proof.Machine.execStreamRecordRx src vs s
  | .rdRecordRx src vs => Sys2Proof.Machine.execRdRecordRx src vs s
  | .weirNoticeRx src => Sys2Proof.Machine.execWeirNoticeRx src s
  | .revokeRecordRx src => Sys2Proof.Machine.execRevokeRecordRx src s
  | .revokeAckRx src => Sys2Proof.Machine.execRevokeAckRx src s
  | .rdTimeout group seq => Sys2Proof.Machine.execRdTimeout group seq s
  | .rdCloseTimeout group => Sys2Proof.Machine.execRdCloseTimeout group s
  | .reGroupEpoch group value => Sys2Proof.Machine.execReGroupEpoch group value s
  | .linkEnable link en => Sys2Proof.Machine.execLinkEnable link en s
  | .linkTrainDone link => Sys2Proof.Machine.execLinkTrainDone link s
  | .linkTrainRetry link => Sys2Proof.Machine.execLinkTrainRetry link s
  | .linkIdentDone link peer => Sys2Proof.Machine.execLinkIdentDone link peer s
  | .linkDown link => Sys2Proof.Machine.execLinkDown link s
  | .streamEnable vs value => Sys2Proof.Machine.execStreamEnable vs value s
  | .vinSample vinDv droop railLow => Sys2Proof.Machine.execVinSample vinDv droop railLow s
  | .weirFall => Sys2Proof.Machine.execWeirFall s
  | .sagNEdge high => Sys2Proof.Machine.execSagNEdge high s
  | .weirLevel4Entry => Sys2Proof.Machine.execWeirLevel4Entry s
  | .weirLevel4Exit => Sys2Proof.Machine.execWeirLevel4Exit s
  | .unitStop u => Sys2Proof.Machine.execUnitStop u s
  | .unitEnable u => Sys2Proof.Machine.execUnitEnable u s
  | .unitGated u => Sys2Proof.Machine.execUnitGated u s
  | .unitStarted u => Sys2Proof.Machine.execUnitStarted u s
  | .calibrationPeriod sample => Sys2Proof.Machine.execCalibrationPeriod sample s
  | .calNow sample => Sys2Proof.Machine.execCalNow sample s
  | .copyCore basin pslot => Sys2Proof.Machine.execCopyCore basin pslot s
  | .deadCore basin pslot => Sys2Proof.Machine.execDeadCore basin pslot s
  | .testCore basin pslot pass => Sys2Proof.Machine.execTestCore basin pslot pass s
  | .bsCoreCtrl basin slot value => Sys2Proof.Machine.execBsCoreCtrl basin slot value s
  | .bsBasinCtrl basin value => Sys2Proof.Machine.execBsBasinCtrl basin value s
  | .glVcoreCtrl actor value => Sys2Proof.Machine.execGlVcoreCtrl actor value s
  | .tollhouseRailUp helperOk modId => Sys2Proof.Machine.execTollhouseRailUp helperOk modId s
  | .inrushDone => Sys2Proof.Machine.execInrushDone s
  | .pwrEnRise => Sys2Proof.Machine.execPwrEnRise s
  | .pwrEnFall => Sys2Proof.Machine.execPwrEnFall s
  | .perstNFall => Sys2Proof.Machine.execPerstNFall s
  | .perstNRise => Sys2Proof.Machine.execPerstNRise s
  | .refclkChange present => Sys2Proof.Machine.execRefclkChange present s
  | .currentLimitTrip => Sys2Proof.Machine.execCurrentLimitTrip s
  | .thermalSample dieC stackC => Sys2Proof.Machine.execThermalSample dieC stackC s
  | .telemetryPeriod powerW tjC vinDv => Sys2Proof.Machine.execTelemetryPeriod powerW tjC vinDv s
  | .bundleGo value => Sys2Proof.Machine.execBundleGo value s
  | .stageVerifyDone => Sys2Proof.Machine.execStageVerifyDone s
  | .stageConfigDone => Sys2Proof.Machine.execStageConfigDone s
  | .stageTrainDone result => Sys2Proof.Machine.execStageTrainDone result s
  | .stageInitDone => Sys2Proof.Machine.execStageInitDone s
  | .stageReleaseDone => Sys2Proof.Machine.execStageReleaseDone s
  | .telemetry src powerW tjC vinDv => Sys2Proof.Machine.execTelemetry src powerW tjC vinDv s
  | .report src => Sys2Proof.Machine.execReport src s
  | .zeroizeAll src => Sys2Proof.Machine.execZeroizeAll src s
  | .resetWarm src => Sys2Proof.Machine.execResetWarm src s
  | .resetModule src => Sys2Proof.Machine.execResetModule src s
  | .powerOff src => Sys2Proof.Machine.execPowerOff src s
  | .cfgWrite src => Sys2Proof.Machine.execCfgWrite src s
  | .setEndpointId eid => Sys2Proof.Machine.execSetEndpointId eid s
  | .i3cDynamicAddress method addr => Sys2Proof.Machine.execI3cDynamicAddress method addr s
  | .pldmSensorRead sensor => Sys2Proof.Machine.execPldmSensorRead sensor s
  | .platformEventMessage => Sys2Proof.Machine.execPlatformEventMessage s
  | .registerWrite actor off size value => Sys2Proof.Machine.execRegisterWrite actor off size value s
  | .commandComplete q => Sys2Proof.Machine.execCommandComplete q s
  | .tollhouseRailDown => Sys2Proof.Machine.execTollhouseRailDown s
  | .ideKm session stream op => Sys2Proof.Machine.execIdeKm session stream op s
  | .linkReturnTimeout vs => Sys2Proof.Machine.execLinkReturnTimeout vs s
  | .teardownAckTimeout slot peer => Sys2Proof.Machine.execTeardownAckTimeout slot peer s

end Sys2Proof.Machine
end

