-- ==== Sys2Proof/Machine/Time.lean ====
section
/-! DEFINITION. What a tick of the device timebase does when no command waits (assumption 18). -/

namespace Sys2Proof.Machine

/-- The 1/32 nJ that flow into a share's pool in one tick of 10 ns, at the share's sustained power (R899, R900). -/
def refill (s : Block) (k : Nat) : Nat := 10 * s.lock.sustainW.toNat * shareBasins s (k / 64) (k % 64)

/-- Every share's pool rises toward its capacity; what it lacks never falls below 0 (R900). -/
def refillPools (s : Block) : SMap Nat :=
  (s.lock.pools.map fun (e : Nat × Nat) => (e.1, e.2 - refill s e.1)).filter fun e => e.2 != 0

/-- The counters that parties see change at the 1 ms boundaries of the timebase (R811). -/
def showMs (s : Block) : Block := if s.gl.timebase.toNat % 100000 = 0 then showCounters s else s

/-- A tick: the device timebase counts while the tollhouse rail is up and the reference clock is present (R93, R944). -/
def tickTime (s : Block) : Block :=
  if s.th.railUp && s.th.refclk then
    showMs { s with gl := { s.gl with timebase := s.gl.timebase + 1 }, lock := { s.lock with pools := refillPools s } }
  else s

end Sys2Proof.Machine
end

