-- ==== Sys2Proof/WellFormed.lean ====
section
/-! DEFINITION. Which commands are well formed: every operand that names a unit of the module (a thread, a core, a basin,
a queue, a function, a ring, a link, a stream, a group, a slot, an address) names one the spec gives it (R27-R30, R43, R44,
R173, R512, R740, R790, R834, R882, R1018). -/

namespace Sys2Proof

open Sys2Proof.Machine

/-- A thread number of a compute-die core or of a system core (R28). -/
def threadOk (th : Nat) : Bool := decide (th < threadCount)

/-- A code that the first row of a unit stands for: its own, or one that no row of the unit has. -/
def firstCode (unit own : Nat) (code : BitVec 8) : Bool := code.toNat == own || !(unitCodes unit).contains code.toNat

/-- Every operand of a command names a unit of the module. -/
def Instr.wellFormed : Instr → Bool
  | .add th _ _ _ => threadOk th
  | .sub th _ _ _ => threadOk th
  | .mul th _ _ _ => threadOk th
  | .mulh th _ _ _ => threadOk th
  | .mulhu th _ _ _ => threadOk th
  | .div th _ _ _ => threadOk th
  | .divu th _ _ _ => threadOk th
  | .rem th _ _ _ => threadOk th
  | .remu th _ _ _ => threadOk th
  | .andd th _ _ _ => threadOk th
  | .orr th _ _ _ => threadOk th
  | .xor th _ _ _ => threadOk th
  | .andn th _ _ _ => threadOk th
  | .sll th _ _ _ => threadOk th
  | .srl th _ _ _ => threadOk th
  | .sra th _ _ _ => threadOk th
  | .minS th _ _ _ => threadOk th
  | .maxS th _ _ _ => threadOk th
  | .minu th _ _ _ => threadOk th
  | .maxu th _ _ _ => threadOk th
  | .clz th _ _ => threadOk th
  | .ctz th _ _ => threadOk th
  | .popc th _ _ => threadOk th
  | .sextB th _ _ => threadOk th
  | .sextH th _ _ => threadOk th
  | .sextW th _ _ => threadOk th
  | .zextW th _ _ => threadOk th
  | .addi th _ _ _ => threadOk th
  | .andi th _ _ _ => threadOk th
  | .ori th _ _ _ => threadOk th
  | .xori th _ _ _ => threadOk th
  | .shiLeft th _ _ _ => threadOk th
  | .shiLogicalRight th _ _ _ => threadOk th
  | .shiArithRight th _ _ _ => threadOk th
  | .lui th _ _ => threadOk th
  | .cmp th _ _ _ _ _ => threadOk th
  | .cmpi th _ _ _ _ _ => threadOk th
  | .pand th _ _ _ => threadOk th
  | .por th _ _ _ => threadOk th
  | .pxor th _ _ _ => threadOk th
  | .pandn th _ _ _ => threadOk th
  | .pnot th _ _ _ => threadOk th
  | .pmov th _ _ _ => threadOk th
  | .pset th _ _ _ => threadOk th
  | .pclr th _ _ _ => threadOk th
  | .sel th _ _ _ _ => threadOk th
  | .branch th _ _ _ => threadOk th
  | .jump th _ => threadOk th
  | .call th _ => threadOk th
  | .jr th _ _ => threadOk th
  | .jl th _ _ => threadOk th
  | .li th _ _ => threadOk th
  | .lih th _ _ => threadOk th
  | .addil th _ _ _ => threadOk th
  | .illegalOp th => threadOk th
  | .ldt th _ _ _ _ _ => threadOk th
  | .stt th _ _ _ _ => threadOk th
  | .ldv th _ _ _ _ _ => threadOk th
  | .stv th _ _ _ _ => threadOk th
  | .amoAdd th _ _ _ _ => threadOk th
  | .amoAnd th _ _ _ _ => threadOk th
  | .amoOr th _ _ _ _ => threadOk th
  | .amoXor th _ _ _ _ => threadOk th
  | .amoMin th _ _ _ _ => threadOk th
  | .amoMax th _ _ _ _ => threadOk th
  | .amoMinu th _ _ _ _ => threadOk th
  | .amoMaxu th _ _ _ _ => threadOk th
  | .amoSwap th _ _ _ _ => threadOk th
  | .amoCas th _ _ _ _ => threadOk th
  | .ldvDataReturn th => threadOk th
  | .icacheFill th => threadOk th
  | .thPark th => threadOk th
  | .thWake th _ => threadOk th
  | .thStart th _ _ _ => threadOk th
  | .thExit th => threadOk th
  | .thYield th => threadOk th
  | .yieldExpiry th => threadOk th
  | .thBrk th => threadOk th
  | .thParkt th _ => threadOk th
  | .parktTimeout th => threadOk th
  | .rdst th _ _ => threadOk th
  | .syWait th _ _ => threadOk th
  | .syFence th _ => threadOk th
  | .sysTstop th _ _ => threadOk th
  | .sysTsave th _ _ _ => threadOk th
  | .sysTrest th _ _ _ => threadOk th
  | .sysTgo th _ _ => threadOk th
  | .sysTfree th _ _ => threadOk th
  | .sysCtxbind th _ _ _ => threadOk th
  | .sysPtroot th _ _ _ => threadOk th
  | .sysTlbinv th _ _ _ => threadOk th
  | .sysScrub th _ _ => threadOk th
  | .mxFwd th _ _ w => threadOk th && firstCode 1 1 w.code
  | .mxRev th _ _ _ => threadOk th
  | .mxFwd3 th _ _ _ => threadOk th
  | .mxRev3 th _ _ _ => threadOk th
  | .mxDrain th _ _ _ => threadOk th
  | .gatherWindowExpiry core _ => decide (core < 4096)
  | .cxDown th _ _ w => threadOk th && firstCode 2 1 w.code
  | .cxBack th _ _ _ => threadOk th
  | .cxGrad th _ _ _ => threadOk th
  | .mvFwd th _ _ w => threadOk th && firstCode 3 1 w.code
  | .mvRev th _ _ _ => threadOk th
  | .mvFwd3 th _ _ _ => threadOk th
  | .vxRun th _ _ w => threadOk th && firstCode 4 1 w.code
  | .vxSum th _ _ _ => threadOk th
  | .vxStep th _ _ _ => threadOk th
  | .vxTload th _ _ _ => threadOk th
  | .vxComb th _ _ _ => threadOk th
  | .vxMov th _ _ _ => threadOk th
  | .vxAdd th _ _ _ => threadOk th
  | .vxSub th _ _ _ => threadOk th
  | .vxMul th _ _ _ => threadOk th
  | .vxFma th _ _ _ => threadOk th
  | .vxDiv th _ _ _ => threadOk th
  | .vxRecip th _ _ _ => threadOk th
  | .vxSqrt th _ _ _ => threadOk th
  | .vxRsqrt th _ _ _ => threadOk th
  | .vxExp th _ _ _ => threadOk th
  | .vxExp2 th _ _ _ => threadOk th
  | .vxLog th _ _ _ => threadOk th
  | .vxLog2 th _ _ _ => threadOk th
  | .vxMin th _ _ _ => threadOk th
  | .vxMax th _ _ _ => threadOk th
  | .vxAbs th _ _ _ => threadOk th
  | .vxNeg th _ _ _ => threadOk th
  | .vxClamp th _ _ _ => threadOk th
  | .vxCvt th _ _ _ => threadOk th
  | .vxLut th _ _ _ => threadOk th
  | .vxShuf th _ _ _ => threadOk th
  | .vxRsum th _ _ _ => threadOk th
  | .vxRmax th _ _ _ => threadOk th
  | .vxRmin th _ _ _ => threadOk th
  | .twArm th _ _ w => threadOk th && firstCode 5 1 w.code
  | .twFlip th _ _ _ => threadOk th
  | .flipSwap core => decide (core < 4096)
  | .twPair th _ _ _ => threadOk th
  | .pairSet core => decide (core < 4096)
  | .programActivate core _ => decide (core < 4096)
  | .move core _ => decide (core < 4096)
  | .adds core _ => decide (core < 4096)
  | .loopBack core _ => decide (core < 4096)
  | .waitc core _ => decide (core < 4096)
  | .signal core _ => decide (core < 4096)
  | .endProg core _ => decide (core < 4096)
  | .transferIssue core _ => decide (core < 4096)
  | .transferComplete core _ _ => decide (core < 4096)
  | .atRun th _ _ w => threadOk th && firstCode 6 0x10 w.code
  | .atBack th _ _ _ => threadOk th
  | .atMerge th _ _ _ => threadOk th
  | .upTake th _ _ w => threadOk th && firstCode 7 1 w.code
  | .upNorm th _ _ _ => threadOk th
  | .upApply th _ _ _ => threadOk th
  | .upDigest th _ _ _ => threadOk th
  | .rdSum th _ _ w => threadOk th && firstCode 8 1 w.code
  | .rdClose th _ _ _ => threadOk th
  | .rdHash th _ _ _ => threadOk th
  | .tmMove th _ _ w => threadOk th && firstCode 9 1 w.code
  | .tmLayer th _ _ _ => threadOk th
  | .tmHome th _ _ _ => threadOk th
  | .ckRun th _ _ w => threadOk th && firstCode 10 1 w.code
  | .depSatisfied q => q.ok
  | .lockGrantSlot basin => decide (basin < 256)
  | .passStart q => q.ok
  | .engineStopPoint u => StopRef.ok u
  | .pageMove engine => decide (engine < 8)
  | .scheduleEntryStart ctx => decide (ctx < 65536)
  | .rekeyPage slot ctx _ => decide (slot < 4096) && decide (ctx < 65536)
  | .faultRecordTake die => decide (die < 8)
  | .bsFaultEnd basin _ => decide (basin < 256)
  | .patrolMem space addr _ => inSpace space addr
  | .patrolSram basin pslot off _ => decide (basin < 256) && decide (pslot < 17) && decide (off < 0xC0000)
  | .rateWindow _ => true
  | .ticketModeChange part => decide (part < 64)
  | .adRegister p => posterOk p
  | .adPublish p => posterOk p
  | .adRevoke p => posterOk p
  | .adRemove p => posterOk p
  | .adLoad p => posterOk p
  | .adExport p => posterOk p
  | .adQuery p => posterOk p
  | .adMode p => posterOk p
  | .rqAdmit p => posterOk p
  | .rqEnd p => posterOk p
  | .baseLoad p => posterOk p
  | .baseSwitch p => posterOk p
  | .baseRetire p => posterOk p
  | .resCreate p => posterOk p
  | .resAppend p => posterOk p
  | .resTake p => posterOk p
  | .resClear p => posterOk p
  | .serviceQueuePoll ctx => decide (ctx < 65536)
  | .boundaryPoll => true
  | .revokeGraceExpiry entry => decide (entry < 16777216)
  | .hiCrTail fn _ _ => decide (fn < 64)
  | .ringEntryTake fn _ => decide (fn < 64)
  | .slotReserve p => posterOk p
  | .slotTeardown p => posterOk p
  | .partCreate p => posterOk p
  | .partDestroy p => posterOk p
  | .fnBind p => posterOk p
  | .grpSet p => posterOk p
  | .ctxCreate p => posterOk p
  | .ctxLoad p => posterOk p
  | .ctxAddslot p => posterOk p
  | .ctxEnd p => posterOk p
  | .migOffer p => posterOk p
  | .migKey p => posterOk p
  | .migDirty p => posterOk p
  | .migFreeze p => posterOk p
  | .migSave p => posterOk p
  | .migThaw p => posterOk p
  | .migDiscard p => posterOk p
  | .migRestore p => posterOk p
  | .migStart p => posterOk p
  | .hiCrCtrl fn _ _ => decide (fn < 64)
  | .hiErCtrl fn _ _ => decide (fn < 64)
  | .hiErHead fn _ _ => decide (fn < 64)
  | .interruptModTimer fn _ => decide (fn < 64)
  | .msixUnmask fn _ => decide (fn < 64)
  | .functionLevelReset fn => decide (fn < 64)
  | .configRequest fn => decide (fn < 64)
  | .atsInvalidation fn _ _ => decide (fn < 64)
  | .pcieFatalError => true
  | .keyReserve slot _ => decide (slot < 4096)
  | .keyInstall _ slot _ => decide (slot < 4096)
  | .keyRotate _ slot _ => decide (slot < 4096)
  | .keyRevoke _ slot => decide (slot < 4096)
  | .keyZeroize _ slot => decide (slot < 4096)
  | .keyFree _ slot => decide (slot < 4096)
  | .setBind _ slot _ => decide (slot < 4096)
  | .getVersion _ _ => true
  | .getCapabilities _ _ => true
  | .negotiateAlgorithms _ _ _ => true
  | .getDigests _ _ => true
  | .getCertificate _ _ _ _ _ => true
  | .challenge _ _ _ _ => true
  | .getMeasurements _ _ _ _ _ => true
  | .keyExchange _ _ _ _ => true
  | .finishMsg _ _ _ _ => true
  | .heartbeat _ _ _ => true
  | .keyUpdate _ _ _ _ => true
  | .endSession _ _ _ => true
  | .chunkSend _ _ _ _ _ _ => true
  | .chunkGet _ _ _ _ => true
  | .hkPqsig _ => true
  | .hkReport _ _ _ => true
  | .hkKemkey _ => true
  | .hkKemek _ _ => true
  | .hkKemct _ _ => true
  | .hkKeyop _ _ _ _ _ _ => true
  | .getTdispVersion fn => decide (fn < 64)
  | .getTdispCapabilities fn => decide (fn < 64)
  | .lockInterface fn => decide (fn < 64)
  | .getDeviceInterfaceReport fn => decide (fn < 64)
  | .getDeviceInterfaceState fn => decide (fn < 64)
  | .startInterfaceRequest fn => decide (fn < 64)
  | .stopInterfaceRequest fn => decide (fn < 64)
  | .flitRx link _ fec => decide (link < 12) && decide (fec.corrected + fec.uncorrectable ≤ 2) && (fec.uncorrectable == 0 || fec.lost)
  | .streamRecordRx _ vs => decide (32 ≤ vs) && decide (vs < 1024)
  | .rdRecordRx src vs => decide (16 ≤ vs) && decide (vs < 32) && decide (src < 4096)
  | .weirNoticeRx src => decide (src < 4096)
  | .revokeRecordRx src => decide (src < 4096)
  | .revokeAckRx src => decide (src < 4096)
  | .rdTimeout group _ => decide (group < 16)
  | .rdCloseTimeout group => decide (group < 16)
  | .reGroupEpoch group _ => decide (group < 16)
  | .linkEnable link _ => decide (link < 12)
  | .linkTrainDone link => decide (link < 12)
  | .linkTrainRetry link => decide (link < 12)
  | .linkIdentDone link _ => decide (link < 12)
  | .linkDown link => decide (link < 12)
  | .streamEnable vs _ => decide (vs < 1024)
  | .vinSample _ _ _ => true
  | .weirFall => true
  | .sagNEdge _ => true
  | .weirLevel4Entry => true
  | .weirLevel4Exit => true
  | .unitStop u => GateRef.ok u
  | .unitEnable u => GateRef.ok u
  | .unitGated u => GateRef.ok u
  | .unitStarted u => GateRef.ok u
  | .calibrationPeriod _ => true
  | .calNow _ => true
  | .copyCore basin pslot => decide (basin < 256) && decide (pslot < 17)
  | .deadCore basin pslot => decide (basin < 256) && decide (pslot < 17)
  | .testCore basin pslot _ => decide (basin < 256) && decide (pslot < 17)
  | .bsCoreCtrl basin slot _ => decide (basin < 256) && decide (slot < 16)
  | .bsBasinCtrl basin _ => decide (basin < 256)
  | .glVcoreCtrl _ _ => true
  | .tollhouseRailUp _ _ => true
  | .inrushDone => true
  | .pwrEnRise => true
  | .pwrEnFall => true
  | .perstNFall => true
  | .perstNRise => true
  | .refclkChange _ => true
  | .currentLimitTrip => true
  | .thermalSample _ _ => true
  | .telemetryPeriod _ _ _ => true
  | .bundleGo _ => true
  | .stageVerifyDone => true
  | .stageConfigDone => true
  | .stageTrainDone _ => true
  | .stageInitDone => true
  | .stageReleaseDone => true
  | .telemetry _ _ _ _ => true
  | .report _ => true
  | .zeroizeAll _ => true
  | .resetWarm _ => true
  | .resetModule _ => true
  | .powerOff _ => true
  | .cfgWrite _ => true
  | .setEndpointId _ => true
  | .i3cDynamicAddress _ _ => true
  | .pldmSensorRead _ => true
  | .platformEventMessage => true
  | .registerWrite _ _ _ _ => true
  | .commandComplete q => q.ok
  | .tollhouseRailDown => true
  | .ideKm _ _ _ => true
  | .linkReturnTimeout vs => decide (32 ≤ vs) && decide (vs < 1024)
  | .teardownAckTimeout slot peer => decide (slot < 4096) && decide (peer < 4096)

end Sys2Proof
end

