-- ==== Sys2Proof/Safety.lean ====
section
/-! DEFINITION. What counts as a safe run, and the terms the statements are made in: a command that completes with a
given block, the bytes a store may change, and a queue of well-formed commands. -/

namespace Sys2Proof

open Sys2Proof.Machine

/-- Command `i` completes in block `b`: whatever commands wait, the next state holds `b'` and the same queue. -/
def Does (i : Instr) (b b' : Block) : Prop := ∀ q : List Instr, exec i ⟨b, q⟩ = .next ⟨b', q⟩

/-- Command `i`, an instruction that thread `th` issues, completes in block `b` with its effect `b'`, and the thread's core
notes that `th` issued last (R101). -/
def Issues (th : Nat) (i : Instr) (b b' : Block) : Prop := Does i b (noted th b')

/-- Command `i` stops in every state with this fault. -/
def Stops (i : Instr) (r : Fault) : Prop := ∀ s : State, exec i s = .fault r

/-- A safe state: every command that waits is well formed. -/
def Machine.State.safe (s : State) : Prop := ∀ c ∈ s.pending, c.wellFormed = true

/-- A thread with its g registers and its program counter put aside: what an instruction that writes one g register
leaves alone. -/
def Machine.Thread.rest (t : Thread) : Thread := { t with g := [], pc := 0 }

/-- A core with its threads put aside. -/
def Machine.Core.rest (c : Core) : Core := { c with threads := [] }

/-- Block `b'` differs from `b` in thread `th` at most. -/
def onlyThread (th : Nat) (b b' : Block) : Prop :=
  (∀ n, n ≠ th → b'.thread n = b.thread n) ∧ (∀ c, (b'.core c).rest = (b.core c).rest) ∧ { b' with cores := b.cores } = b

/-- The entry `t` of a command ring or service queue may run: poster `p` names it among those firmware has taken, it is an
entry of operation `op` that has not started, its turn has come, and its poster may name the objects it names (R629, R840, R844, R845). -/
structure opReady (b : Block) (p : Poster) (op : Nat) (t : Taken) : Prop where
  poster : posterOk p = true
  taken : b.host.taken.find? (fun x => x.poster == p) = some t
  names : t.poster = p
  op : t.op = op
  fresh : t.started = false
  up : fwUp b = true
  turn : mayBegin t b = true
  may : posterMay t b = true

end Sys2Proof
end

