-- ==== Sys2Proof/Certificates/Slice0/Obligations.lean ====
section
/-! DEFINITION. The statements for the provers. `Does i b b'` says that command `i` completes in block `b` with block `b'`, and
`Issues th i b b'` that thread `th` issues it there, with the note that `th` issued last (R101); a statement's docstring names the rules of spec/ it formalises. -/

open Sys2Proof Sys2Proof.Machine

/-! ### The queue and the step -/

/-- A step takes the command at the front of the queue and is its `exec` with the queue's rest. -/
def Obligations.StepRunsFrontCommand : Prop :=
  ∀ (c : Instr) (b : Block) (rest : List Instr), step ⟨b, c :: rest⟩ = exec c ⟨b, rest⟩

/-- On an empty queue a step is one tick of 10 ns of the device timebase while the tollhouse rail is up and the reference clock
is present, and changes nothing else but the energy shares it refills and what parties are shown of the counters at a boundary
of 1 ms (the model's choice, assumption 18; R93, R811, R900). -/
def Obligations.EmptyQueueStepIsATick : Prop :=
  ∀ b : Block, ∃ b', step ⟨b, []⟩ = .next ⟨b', []⟩
    ∧ b'.gl.timebase = (if b.th.railUp && b.th.refclk then b.gl.timebase + 1 else b.gl.timebase)
    ∧ { b' with gl := { b'.gl with timebase := b.gl.timebase }, lock := { b'.lock with pools := b.lock.pools },
                   host := { b'.host with shown := b.host.shown } } = b
    ∧ (b'.gl.timebase.toNat % 100000 ≠ 0 → b'.host = b.host)

/-- A command completes exactly when every operand that names a unit names one of the module, and nothing is refused. -/
def Obligations.CommandsCompleteExactlyWhenWellFormed : Prop :=
  ∀ (c : Instr) (s : State), ((∃ t, exec c s = .next t) ↔ c.wellFormed = true)
    ∧ (c.wellFormed = false → exec c s = .fault .noSuchUnit)

/-- HEADLINE. From every state whose waiting commands are well formed, a step answers a next state, it leaves the rest of
the queue as it was, and that queue is again well formed: no run from a safe state stops. -/
def Obligations.SafeStatesStepToSafeStates : Prop :=
  ∀ s : State, s.safe → ∃ t : State, step s = .next t ∧ t.pending = s.pending.tail ∧ t.safe

/-- The state after reset is safe: no command waits. -/
def Obligations.ResetIsSafe : Prop := State.reset.pending = [] ∧ State.reset.safe

/-- Reset leaves what the spec states for it: the tollhouse at a cold start, every function unbound and its rings
disabled, every key slot FREE, every link down, no partition, no context, memory with nothing in it. -/
def Obligations.ResetValues : Prop :=
  let b := State.reset.block
  b.th.stage = .link ∧ b.th.railUp = false ∧ b.th.mainUp = false
    ∧ (∀ f, (b.func f).bound = none ∧ (b.func f).tdi = .unlocked ∧ ∀ r, ((b.func f).cr r).en = false ∧ ((b.func f).er r).en = false)
    ∧ (∀ k, (b.slot k).st = .free) ∧ (∀ l, (b.link l).st = .disabled)
    ∧ b.parts = [] ∧ b.contexts = [] ∧ b.gl.timebase = 0 ∧ b.revokedDrops = 0 ∧ b.slotSel = 0
    ∧ (∀ c t, ((b.core c).thread t).st = .free) ∧ (∀ a, b.mem.t1.byte a = 0 ∧ b.mem.t2.byte a = 0 ∧ b.mem.host.byte a = 0)
    ∧ b.mem.t1.wf = true ∧ b.mem.t2.wf = true ∧ b.mem.host.wf = true

/-! ### The integer group (R108, R110–R112) -/

/-- The two-operand integer rows write gD with the value of R110's table, R111 giving the corners of division. -/
def Obligations.IntegerTwoOperandResults : Prop :=
  ∀ (b : Block) (th : Nat) (d x y : Reg), canIssue b th false = true →
    let u := b.g th x
    let v := b.g th y
    let n := v.toNat % 64
    let gives := fun (i : Instr) (r : U64) => Issues th i b (finishG th d r b)
    gives (.add th d x y) (u + v) ∧ gives (.sub th d x y) (u - v) ∧ gives (.mul th d x y) (u * v)
    ∧ gives (.mulh th d x y) (BitVec.ofInt 64 (u.toInt * v.toInt / 2 ^ 64))
    ∧ gives (.mulhu th d x y) (BitVec.ofNat 64 (u.toNat * v.toNat / 2 ^ 64))
    ∧ gives (.div th d x y) (if v = 0 then BitVec.allOnes 64 else BitVec.ofInt 64 (u.toInt.tdiv v.toInt))
    ∧ gives (.divu th d x y) (if v = 0 then BitVec.allOnes 64 else BitVec.ofNat 64 (u.toNat / v.toNat))
    ∧ gives (.rem th d x y) (if v = 0 then u else BitVec.ofInt 64 (u.toInt.tmod v.toInt))
    ∧ gives (.remu th d x y) (if v = 0 then u else BitVec.ofNat 64 (u.toNat % v.toNat))
    ∧ gives (.andd th d x y) (u &&& v) ∧ gives (.orr th d x y) (u ||| v) ∧ gives (.xor th d x y) (u ^^^ v)
    ∧ gives (.andn th d x y) (u &&& ~~~v)
    ∧ gives (.sll th d x y) (BitVec.ofNat 64 (u.toNat * 2 ^ n)) ∧ gives (.srl th d x y) (BitVec.ofNat 64 (u.toNat / 2 ^ n))
    ∧ gives (.sra th d x y) (BitVec.ofInt 64 (u.toInt / 2 ^ n))
    ∧ gives (.minS th d x y) (if u.toInt ≤ v.toInt then u else v) ∧ gives (.maxS th d x y) (if u.toInt ≤ v.toInt then v else u)
    ∧ gives (.minu th d x y) (if u.toNat ≤ v.toNat then u else v) ∧ gives (.maxu th d x y) (if u.toNat ≤ v.toNat then v else u)

/-- The one-operand integer rows, counts of zeros and ones and extensions, and the rows with an immediate, of one word and of two; a
two-word row moves the program counter by 8 (R108, R110, R112). -/
def Obligations.OneOperandAndImmediateResults : Prop :=
  ∀ (b : Block) (th : Nat) (d x : Reg) (i : U16) (m : BitVec 6) (l : BitVec 48) (w : U32),
    let u := b.g th x
    (canIssue b th false = true →
      let gives := fun (c : Instr) (r : U64) => Issues th c b (finishG th d r b)
      gives (.addi th d x i) (u + BitVec.ofInt 64 i.toInt) ∧ gives (.andi th d x i) (u &&& BitVec.ofNat 64 i.toNat)
      ∧ gives (.ori th d x i) (u ||| BitVec.ofNat 64 i.toNat) ∧ gives (.xori th d x i) (u ^^^ BitVec.ofNat 64 i.toNat)
      ∧ gives (.shiLeft th d x m) (BitVec.ofNat 64 (u.toNat * 2 ^ m.toNat))
      ∧ gives (.shiLogicalRight th d x m) (BitVec.ofNat 64 (u.toNat / 2 ^ m.toNat))
      ∧ gives (.shiArithRight th d x m) (BitVec.ofInt 64 (u.toInt / 2 ^ m.toNat))
      ∧ gives (.lui th d i) (BitVec.ofInt 64 (i.toInt * 65536))
      ∧ (∃ k, k ≤ 64 ∧ u.toNat < 2 ^ (64 - k) ∧ (k < 64 → 2 ^ (63 - k) ≤ u.toNat) ∧ gives (.clz th d x) (BitVec.ofNat 64 k))
      ∧ (∃ k, k ≤ 64 ∧ 2 ^ k ∣ u.toNat ∧ (k < 64 → ¬ 2 ^ (k + 1) ∣ u.toNat) ∧ gives (.ctz th d x) (BitVec.ofNat 64 k))
      ∧ gives (.popc th d x) (BitVec.ofNat 64 ((List.range 64).filter fun i => u.toNat / 2 ^ i % 2 = 1).length)
      ∧ gives (.sextB th d x) (BitVec.ofInt 64 (sextInt 8 u.toNat)) ∧ gives (.sextH th d x) (BitVec.ofInt 64 (sextInt 16 u.toNat))
      ∧ gives (.sextW th d x) (BitVec.ofInt 64 (sextInt 32 u.toNat)) ∧ gives (.zextW th d x) (BitVec.ofNat 64 (u.toNat % 2 ^ 32)))
    ∧ (canIssue b th true = true →
      let gives := fun (c : Instr) (r : U64) => Issues th c b (b.modThread th fun t => (t.setG d r).next 8)
      gives (.li th d l) (BitVec.ofInt 64 l.toInt)
      ∧ gives (.lih th d w) (BitVec.ofNat 64 (w.toNat * 2 ^ 32 + (b.g th d).toNat % 2 ^ 32))
      ∧ gives (.addil th d x w) (u + BitVec.ofInt 64 w.toInt))

/-- What writing gD, or a predicate, and moving on changes, and the FRAME of every row that does so: g0 and p0 discard the write; no
other register or predicate, no other field of the thread, no other thread, no byte of memory and nothing else of the block changes (R97, R111, R113). -/
def Obligations.RegisterAndPredicateWritesChangeOne : Prop :=
  ∀ (b : Block) (th : Nat),
    (∀ (d : Reg) (v : U64), let b' := finishG th d v b
      (∀ r, b'.g th r = if r = d ∧ d ≠ 0 then v else b.g th r) ∧ (b'.thread th).pc = (b.thread th).pc + 4
        ∧ (b'.thread th).rest = (b.thread th).rest ∧ onlyThread th b b')
    ∧ ∀ (pd : Pred) (v : Bool), let b' := b.modThread th fun t => (t.setP pd v).next 4
      (∀ p, (b'.thread th).getP p = if p = pd ∧ pd ≠ 0 then v else (b.thread th).getP p)
        ∧ (b'.thread th).pc = (b.thread th).pc + 4
        ∧ { b'.thread th with p := 0, pc := 0 } = { b.thread th with p := 0, pc := 0 } ∧ onlyThread th b b'

/-! ### Predicates, select and control flow (R113–R122) -/

/-- Compares combine their condition into pd, predicate logic writes pd, `sel` writes gA or gB to gD by its predicate, and nothing
else but the program counter changes; p0 discards the write (R97, R113–R117). -/
def Obligations.PredicateAndSelectResults : Prop :=
  ∀ (b : Block) (th : Nat) (k : Combine) (pd pa pb : Pred) (c : Cond) (d x y : Reg) (i : BitVec 11), canIssue b th false = true →
    let t := b.thread th
    let gives := fun (n : Instr) (v : Bool) => Issues th n b (b.modThread th fun t => (t.setP pd v).next 4)
    let holds := fun (u v : U64) => match c with
      | .eq => decide (u = v) | .ne => decide (u ≠ v) | .lt => decide (u.toInt < v.toInt) | .ge => decide (v.toInt ≤ u.toInt)
      | .ltu => decide (u.toNat < v.toNat) | .geu => decide (v.toNat ≤ u.toNat)
      | .tst => decide (u &&& v ≠ 0) | .ntst => decide (u &&& v = 0)
    let into := fun (v : Bool) => match k with
      | .set => v | .and => t.getP pd && v | .or => t.getP pd || v
    (predsReady b th [pd] = true →
      gives (.cmp th k pd c x y) (into (holds (b.g th x) (b.g th y)))
      ∧ gives (.cmpi th k pd c x i) (into (holds (b.g th x) (BitVec.ofInt 64 i.toInt)))
      ∧ gives (.pset th pd pa pb) true ∧ gives (.pclr th pd pa pb) false)
    ∧ (predsReady b th [pd, pa] = true → gives (.pnot th pd pa pb) (!t.getP pa) ∧ gives (.pmov th pd pa pb) (t.getP pa))
    ∧ (predsReady b th [pd, pa, pb] = true →
      gives (.pand th pd pa pb) (t.getP pa && t.getP pb) ∧ gives (.por th pd pa pb) (t.getP pa || t.getP pb)
      ∧ gives (.pxor th pd pa pb) (t.getP pa != t.getP pb) ∧ gives (.pandn th pd pa pb) (t.getP pa && !t.getP pb))
    ∧ (predsReady b th [pa] = true → Issues th (.sel th d x y pa) b (finishG th d (b.g th (if t.getP pa then x else y)) b))

/-- Branches, jumps and calls go to their targets, where a call first writes the address of the next instruction to
g31, when the target may be fetched (R118–R121). -/
def Obligations.JumpsReachTheirTargets : Prop :=
  ∀ (b : Block) (th : Nat) (i : U16) (w : U32) (p : Pred) (sense link : Bool) (x : Reg),
    let t := b.thread th
    let far := fun (n : Int) => BitVec.ofInt 48 (t.pc.toNat + 4 * n) &&& ~~~3#48
    let goes := fun (n : Instr) (dest : BitVec 48) (f : Thread → Thread) =>
      fetchStatus b th dest.toNat = none → Issues th n b (b.modThread th fun t => { f t with pc := dest })
    let linked := fun (n : Nat) (t : Thread) => t.setG 31 (BitVec.ofNat 64 ((t.pc.toNat + n) % 2 ^ 48))
    (canIssue b th false = true →
      (predsReady b th [p] = true →
        (t.getP p = sense → goes (.branch th sense p i) (far i.toInt) id)
        ∧ (t.getP p ≠ sense → Issues th (.branch th sense p i) b (b.modThread th fun t => t.next 4)))
      ∧ goes (.jump th i) (far i.toInt) id ∧ goes (.call th i) (far i.toInt) (linked 4)
      ∧ goes (.jr th x link) (BitVec.ofNat 48 (b.g th x).toNat &&& ~~~3#48) (if link then linked 4 else id))
    ∧ (canIssue b th true = true → goes (.jl th link w) (far w.toInt) (if link then linked 8 else id))

/-! ### Traps (R109, R124–R126, R134, R147, R150–R155) -/

/-- A reserved encoding traps with ILLEGAL_OP, `th.brk` with BREAK, a `sys` word outside the system class with PRIV_OP; a
misaligned access with MISALIGNED and a tile-store access past the end with TS_RANGE, making no access. -/
def Obligations.TrapsAreTaken : Prop :=
  ∀ (b : Block) (th : Nat) (d x y : Reg) (size : BitVec 2) (sx wide : Bool) (off : BitVec 11), canIssue b th false = true →
    let ea := (effAddr b th x size off).toNat
    let n := sizeBytes size
    Issues th (.illegalOp th) b (takeTrap th .illegalOp .ok 0 b) ∧ Issues th (.thBrk th) b (takeTrap th .brk .ok 0 (landOwn th b))
    ∧ (th < 65536 → ∀ i, i ∈ [Instr.sysTstop th d x, .sysTsave th d x y, .sysTrest th d x y, .sysTgo th d x, .sysTfree th d x,
        .sysCtxbind th d x y, .sysPtroot th d x y, .sysTlbinv th d x y, .sysScrub th d x] → Issues th i b (takeTrap th .privOp .ok 0 b))
    ∧ (ea % n ≠ 0 → ∀ i, i ∈ [Instr.ldv th d x size sx off, .stv th d x size off] ∨
        (th < 65536 ∧ i ∈ [Instr.ldt th d x size sx off, .stt th d x size off]) → Issues th i b (takeTrap th .misaligned .ok 0 b))
    ∧ (ea % n = 0 → th < 65536 → 0x7FFFF - n + 1 < ea →
        ∀ i, i ∈ [Instr.ldt th d x size sx off, .stt th d x size off] → Issues th i b (takeTrap th .tsRange .ok 0 b))
    ∧ ((b.g th x).toNat % (if wide then 8 else 4) ≠ 0 → ∀ i, i ∈ [Instr.amoAdd th d x y wide, .amoAnd th d x y wide,
        .amoOr th d x y wide, .amoXor th d x y wide, .amoMin th d x y wide, .amoMax th d x y wide, .amoMinu th d x y wide,
        .amoMaxu th d x y wide, .amoSwap th d x y wide, .amoCas th d x y wide] → Issues th i b (takeTrap th .misaligned .ok 0 b))

/-- What taking a trap does: the thread is STOPPED for BREAK, PARKED for the pager on NOT_RESIDENT, else HALTED; it keeps its
registers and its program counter, its cause, status and address say why, and no other thread, no other part of a core and
no byte of T1 or T2 changes (R150, R152). -/
def Obligations.TrapStopsTheThreadAtItsInstruction : Prop :=
  ∀ (b : Block) (th : Nat) (cause : TrapCause) (st : Status) (va : Nat),
    let b' := takeTrap th cause st va b
    let t := b.thread th
    let t' := b'.thread th
    t'.st = (if cause = .brk then TState.stopped else if (cause = .memFault ∨ cause = .fetchFault) ∧ st = .notResident then .parked
             else .halted)
      ∧ t'.cause = cause ∧ t'.status = st ∧ t'.faultVa = BitVec.ofNat 64 va ∧ t'.g = t.g ∧ t'.p = t.p ∧ t'.pc = t.pc
      ∧ (∀ n, n ≠ th → b'.thread n = b.thread n) ∧ (∀ c, (b'.core c).rest = (b.core c).rest)
      ∧ b'.mem.t1 = b.mem.t1 ∧ b'.mem.t2 = b.mem.t2

/-- An instruction issues nothing while its thread is not READY; one whose words are not in the instruction cache leaves its
thread WAITING for the line, and no register changes; one out of its turn among the READY threads of its core, which go in
ascending number after the last that issued, changes nothing (R100, R101, R104). -/
def Obligations.NotReadyThreadsIssueNothing : Prop :=
  ∀ (b : Block) (th : Nat) (d x y : Reg), th < 65664 →
    ((b.thread th).st ≠ .ready → Does (.add th d x y) b b ∧ Does (.thPark th) b b ∧ Does (.illegalOp th) b b)
    ∧ ((b.thread th).st = .ready → fetchHits b th false = false →
        ∃ b', Does (.add th d x y) b b' ∧ Does (.thPark th) b b' ∧ (b'.thread th).st = .waiting
          ∧ (b'.thread th).g = (b.thread th).g ∧ (b'.thread th).pc = (b.thread th).pc)
    ∧ (fetchHits b th false = true → issueTurn b th = false → Does (.add th d x y) b b ∧ Does (.thPark th) b b)
    ∧ (∀ k, k < 16 → ((b.core (th / 16)).thread k).st = .ready →
        (∀ i, i < 16 → i ≠ k → ((b.core (th / 16)).thread i).st = .ready →
          (k + 15 - b.lastThread (th / 16) % 16) % 16 < (i + 15 - b.lastThread (th / 16) % 16) % 16) →
        issueTurn b (th / 16 * 16 + k) = true)

/-! ### Loads, stores and atomics (R123–R134) -/

/-- `ldt` writes gD with the bytes at gA + sext(F) × size, sign- or zero-extended, when the access is aligned, inside the tile
store, outside every stream chamber and free of uncorrectable words; the core notes the touch for queued commands. -/
def Obligations.TileLoadReadsItsBytes : Prop :=
  ∀ (b : Block) (th : Nat) (d x : Reg) (size : BitVec 2) (sx : Bool) (off : BitVec 11),
    let ea := (b.g th x + off.signExtend 64 * BitVec.ofNat 64 (2 ^ size.toNat)).toNat
    let n := 2 ^ size.toNat
    let c := b.core (th / 16)
    let v := leNat (c.ts.read ea n)
    canIssue b th false = true → th < 65536 → ea % n = 0 → ea ≤ 0x7FFFF - n + 1 → c.streamTouch ea n = none → c.badIn ea n = none →
      Issues th (.ldt th d x size sx off) b
        (finishG th d (if sx then BitVec.ofInt 64 (sextInt (8 * n) v) else BitVec.ofNat 64 v) (b.modCore (th / 16) (·.touchGuard false ea n)))

/-- `stt` stores the low bytes of gD at gA + sext(F) × size, and that range of that core's tile store is all the memory it
changes: the bytes read back, every byte outside the range reads as before, in T1, T2 and host memory every byte does, and
every register keeps its value; running commands of the core's engines take note of the bytes (R420). -/
def Obligations.TileStoreWritesItsBytesOnly : Prop :=
  ∀ (b : Block) (th : Nat) (d x : Reg) (size : BitVec 2) (off : BitVec 11),
    let ea := (b.g th x + off.signExtend 64 * BitVec.ofNat 64 (2 ^ size.toNat)).toNat
    let n := 2 ^ size.toNat
    let c := b.core (th / 16)
    canIssue b th false = true → th < 65536 → ea % n = 0 → ea ≤ 0x7FFFF - n + 1 → c.streamTouch ea n = none → c.tsWriteBad ea n = none →
      ∃ b', Issues th (.stt th d x size off) b b'
        ∧ (b'.core (th / 16)).ts.read ea n = leBytes n (b.g th d).toNat
        ∧ (∀ a, a < ea ∨ ea + n ≤ a → (b'.core (th / 16)).ts.byte a = c.ts.byte a)
        ∧ (∀ k, k ≠ th / 16 → b'.core k = b.core k) ∧ b'.mem = b.mem
        ∧ (b'.thread th).g = (b.thread th).g ∧ (b'.thread th).p = (b.thread th).p ∧ (b'.thread th).pc = (b.thread th).pc + 4
        ∧ (∀ k, k ≠ th → b'.thread k = b.thread k)
        ∧ (let c' := b'.core (th / 16); { c' with threads := c.threads, ts := c.ts, bad := c.bad, tw := c.tw, q := c.q } = c)
        ∧ (∀ k, { b'.basin k with mv := (b.basin k).mv, up := (b.basin k).up, rd := (b.basin k).rd } = b.basin k)
        ∧ { b' with cores := b.cores, basins := b.basins } = b

/-- An `ldt` or `stt` that touches a stream chamber leaves its thread WAITING and changes nothing else (R427). -/
def Obligations.TileAccessWaitsForItsChamber : Prop :=
  ∀ (b : Block) (th : Nat) (d x : Reg) (size : BitVec 2) (sx : Bool) (off : BitVec 11) (k : Nat) (u : Bool),
    let ea := (b.g th x + off.signExtend 64 * BitVec.ofNat 64 (2 ^ size.toNat)).toNat
    let n := 2 ^ size.toNat
    canIssue b th false = true → th < 65536 → ea % n = 0 → ea ≤ 0x7FFFF - n + 1 → (b.core (th / 16)).streamTouch ea n = some (k, u) →
      ∀ i, i ∈ [Instr.ldt th d x size sx off, .stt th d x size off] →
        Issues th i b (b.modThread th fun t => { t with st := .waiting, wait := .chamber k u })

/-- An `ldv` whose access translates leaves its thread WAITING for the data of the translated address, with the thread's own
earlier stores to it in memory (R127); when the data returns, as T1's error correction gives it, gD takes it, sign- or
zero-extended, and the thread goes on past the word (R104, R126, R545); only threads that wait for that access in
`sys.tlbinv` change beside it. -/
def Obligations.DeviceLoadReturnsItsBytes : Prop :=
  (∀ (b b₁ : Block) (th : Nat) (d x : Reg) (size : BitVec 2) (sx : Bool) (off : BitVec 11) (p : Xlate),
    let ea := (b.g th x + off.signExtend 64 * BitVec.ofNat 64 (2 ^ size.toNat)).toNat
    let n := 2 ^ size.toNat
    canIssue b th false = true → ea % n = 0 →
    translate (tlbOf (th / 16)) ((b.ctxOf (th / 16)).getD 0xFFFF) ea accRead b = (.ok p, b₁) →
      ∃ b', Issues th (.ldv th d x size sx off) b b' ∧ (b'.thread th).st = .waiting
        ∧ (b'.thread th).wait = .load d.toNat ea p.pa n sx (prevEpochOf b₁ p.leaf) (leafSlot p.leaf)
        ∧ b'.mem = (landMine th p.pa n b₁).mem ∧ (b'.thread th).g = (b₁.thread th).g ∧ (b'.thread th).pc = (b₁.thread th).pc)
  ∧ ∀ (b : Block) (th d va pa n slot : Nat) (sx prev : Bool), th < 65664 → (b.thread th).st = .waiting →
      (b.thread th).wait = .load d va pa n sx prev slot → (b.thread th).stopAsked = false → (b.thread th).pagerDue = false →
      let s := landLook pa n b
      t1BadIn s pa n = none →
      let v := leNat (t1Data s pa n)
      (wrongIn s.mem.t1Bad pa n = [] → v = leNat (s.mem.t1.read pa n))
      ∧ ∃ b', Does (.ldvDataReturn th) b b' ∧ (b'.thread th).st = .ready ∧ (b'.thread th).pc = (b.thread th).pc + 4
        ∧ (b'.thread th).g = ((b.thread th).setG (BitVec.ofNat 5 d) (extendTo64 n sx v)).g
        ∧ (∀ k, k ≠ th → (∀ l r, (b.thread k).wait ≠ .inval l r) → b'.thread k = b.thread k)
        ∧ b'.mem.t1 = s.mem.t1 ∧ b'.mem.t2 = b.mem.t2

/-- An `stv` whose access translates, to a page that is not MOVING, stores the low bytes of gD at the translated address, marks
the page dirty, and goes on; the bytes are in memory once the thread's stores are (R131, R200), and where no other store is
under way and no codeword there holds errors, every byte of T1 outside the stored bytes and the page's table entry reads as
before (R126, R466, R523). -/
def Obligations.DeviceStoreWritesItsBytesOnly : Prop :=
  ∀ (b b₁ : Block) (th : Nat) (d x : Reg) (size : BitVec 2) (off : BitVec 11) (p : Xlate),
    let ea := (b.g th x + off.signExtend 64 * BitVec.ofNat 64 (2 ^ size.toNat)).toNat
    let n := 2 ^ size.toNat
    let ctx := (b.ctxOf (th / 16)).getD 0xFFFF
    let b₂ := setDirty (tlbOf (th / 16)) ctx ea p b₁
    canIssue b th false = true → ea % n = 0 → writeHeld b ctx ea n accWrite = false →
    translate (tlbOf (th / 16)) ctx ea accWrite b = (.ok p, b₁) → t1WriteBad b₂ p.pa n = none →
      ∃ b', Issues th (.stv th d x size off) b b' ∧ (landOwn th b').mem.t1.read p.pa n = leBytes n (b₁.g th d).toNat
        ∧ (b₁.stores = [] → wrongIn b₁.mem.t1Bad p.pa n = [] → wrongIn b₁.mem.t1Bad p.leafAddr 8 = [] →
            (∀ a, (a < p.pa ∨ p.pa + n ≤ a) → (a < p.leafAddr ∨ p.leafAddr + 8 ≤ a) → b'.mem.t1.byte a = b₁.mem.t1.byte a)
            ∧ b'.mem.host = b₁.mem.host)
        ∧ b'.mem.t2 = b₁.mem.t2 ∧ (b'.thread th).pc = (b₁.thread th).pc + 4
        ∧ (b'.thread th).g = (b₁.thread th).g ∧ ∀ k, k ≠ th → b'.thread k = b₁.thread k

/-- Every atomic whose access translates, to a page that is not MOVING, leaves its thread WAITING; when the memory controller
answers, no older atomic of a partition in ticket mode standing before it (R89), the location takes the new value of R132's
table and gD the old one, sign-extended, in one step, and where no codeword there holds errors no other byte of T1 changes
(R132–R134, R466). -/
def Obligations.AtomicsUpdateOneLocation : Prop :=
  (∀ (b b₁ : Block) (th : Nat) (d x y : Reg) (wide : Bool) (p : Xlate),
    let ea := (b.g th x).toNat
    let ctx := (b.ctxOf (th / 16)).getD 0xFFFF
    canIssue b th false = true → ea % (if wide then 8 else 4) = 0 → writeHeld b ctx ea (if wide then 8 else 4) accAtomic = false →
    translate (tlbOf (th / 16)) ctx ea accAtomic b = (.ok p, b₁) →
      let waits := fun (i : Instr) (op : AmoOp) => ∃ b', Issues th i b b' ∧ (b'.thread th).st = .waiting
        ∧ (b'.thread th).wait = .amo op d.toNat ea p.pa wide (b₁.g th y) (b₁.g th d) (prevEpochOf b₁ p.leaf) (leafSlot p.leaf) b₁.nextId
      waits (.amoAdd th d x y wide) .add ∧ waits (.amoAnd th d x y wide) .and ∧ waits (.amoOr th d x y wide) .or
      ∧ waits (.amoXor th d x y wide) .xor ∧ waits (.amoMin th d x y wide) .min ∧ waits (.amoMax th d x y wide) .max
      ∧ waits (.amoMinu th d x y wide) .minu ∧ waits (.amoMaxu th d x y wide) .maxu ∧ waits (.amoSwap th d x y wide) .swap
      ∧ waits (.amoCas th d x y wide) .cas)
  ∧ ∀ (b : Block) (op : AmoOp) (th d va pa slot order : Nat) (wide prev : Bool) (u e : U64), th < 65664 → (b.thread th).st = .waiting →
      (b.thread th).wait = .amo op d va pa wide u e prev slot order → (b.thread th).stopAsked = false → (b.thread th).pagerDue = false →
      let n := if wide then 8 else 4
      let w := 8 * n
      let s := landLook pa n b
      let old := leNat (t1Data s pa n)
      let new := match op with
        | .add => old + u.toNat | .and => old &&& u.toNat | .or => old ||| u.toNat % 2 ^ w | .xor => old ^^^ u.toNat % 2 ^ w
        | .min => if sextInt w u.toNat < sextInt w old then u.toNat else old
        | .max => if sextInt w old < sextInt w u.toNat then u.toNat else old
        | .minu => if u.toNat % 2 ^ w < old then u.toNat else old | .maxu => if old < u.toNat % 2 ^ w then u.toNat else old
        | .swap => u.toNat | .cas => if old = e.toNat % 2 ^ w then u.toNat else old
      atomicHeld b th pa n order = false → t1BadIn s pa n = none →
      ∃ b', Does (.ldvDataReturn th) b b' ∧ (b'.thread th).st = .ready ∧ b'.mem.t1.read pa n = leBytes n (new % 2 ^ w)
        ∧ (b'.thread th).g = ((b.thread th).setG (BitVec.ofNat 5 d) (BitVec.ofInt 64 (sextInt w old))).g
        ∧ (wrongIn s.mem.t1Bad pa n = [] → ∀ a, a < pa ∨ pa + n ≤ a → b'.mem.t1.byte a = s.mem.t1.byte a)

/-- An instruction-cache fill completes in every state. For a thread that waits for a line, and for a READY thread whose line is
not in the cache, it reads the line when the instruction's bytes may be executed and the line's codewords are sound: the
line's 64 bytes, as error correction gives them, stand in the core's cache, a thread that waited is READY (PARKED while a
fault of a queue it armed is due), and no byte of T1 or T2 changes; a thread in any other state, and one whose line is held, is left as it
is (R104, R122, R1009, R1016). -/
def Obligations.InstructionCacheFillReleasesTheThread : Prop :=
  ∀ (b : Block) (th : Nat), th < 65664 →
    let t := b.thread th
    let core := th / 16
    let ctx := (b.ctxOf core).getD 0xFFFF
    let pc := t.pc.toNat
    let fills := fun (va last : Nat) =>
      let r := translateAccess (tlbOf core) ctx accExec va (last + 4 - va) b
      let line := (r.1.2.head?.map fun p => p.x.pa / 64 * 64).getD 0
      let s := landLook line 64 r.2
      va ≤ last → r.1.1 = none → t1BadIn s line 64 = none →
        ∃ b', Does (.icacheFill th) b b'
          ∧ (b'.thread th).st = (if t.st = .waiting then (if t.pagerDue then TState.parked else .ready) else t.st)
          ∧ (b'.thread th).pc = t.pc ∧ (b'.thread th).g = t.g ∧ (b'.core core).holdsLine ctx va = true
          ∧ (∃ l ∈ (b'.core core).icache, l.ctx = ctx ∧ l.va = va / 64 * 64 ∧ l.data = t1Data s line 64)
          ∧ b'.mem.t1 = s.mem.t1 ∧ b'.mem.t2 = b.mem.t2 ∧ ∀ k, k ≠ th → b'.thread k = b.thread k
    (∃ b', Does (.icacheFill th) b b')
    ∧ (∀ va ecc last, t.st = .waiting → t.wait = .fetch va ecc last → fills (if va = pc / 64 * 64 then pc else va) last)
    ∧ (t.st = .ready → (b.core core).holdsLine ctx pc = false → fills pc pc)
    ∧ (t.st = .ready → (b.core core).holdsLine ctx pc = true → Does (.icacheFill th) b b)
    ∧ (t.st ≠ .ready → (∀ va ecc last, t.wait ≠ .fetch va ecc last) → Does (.icacheFill th) b b)

/-! ### Threads (R135–R140, R190–R206) -/

/-- The thread-control rows, as R135's table gives them. -/
def Obligations.ThreadControlEffects : Prop :=
  ∀ (b : Block) (th : Nat) (d x y : Reg), canIssue b th false = true →
    let t := b.thread th
    let n := th / 16 * 16 + (b.g th x).toNat % 16
    let target := b.thread n
    (t.wake = true → Issues th (.thPark th) b (b.modThread th fun t => ({ t with wake := false }).next 4)
      ∧ Issues th (.thParkt th x) b (b.modThread th fun t => ({ t with wake := false }).next 4))
    ∧ (t.wake = false → Issues th (.thPark th) b (b.modThread th fun t => { t with st := .parked, reason := .park, parkArg := 0 })
      ∧ Issues th (.thParkt th x) b (b.modThread th fun t => { t with st := .parked, reason := .parkt, parkArg := b.g th x }))
    ∧ Issues th (.thWake th x) b ((wakeThread n b).modThread th fun t => t.next 4)
    ∧ (target.st = .free → Issues th (.thStart th d x y) b (finishG th d 0 (b.setThread n
        { Thread.init with g := t.g, pc := BitVec.ofNat 48 (b.g th y).toNat &&& ~~~3#48, st := .ready })))
    ∧ (target.st ≠ .free → Issues th (.thStart th d x y) b (finishG th d 1 b))
    ∧ Issues th (.thExit th) b (b.modThread th fun t => { t.next 4 with st := .free })
    ∧ Issues th (.thYield th) b (b.modThread th fun t => { t.next 4 with st := .waiting, wait := .yield })

/-- A wake is never lost and releases one park: it is kept as wake pending for a thread that is not parked, and a thread
PARKED by `th.park` or `th.parkt` goes on past its word at once (R136, R137, R138). -/
def Obligations.WakesAreNeverLost : Prop :=
  ∀ (b : Block) (n : Nat),
    let t := b.thread n
    let b' := wakeThread n b
    ((t.st = .parked ∧ (t.reason = .park ∨ t.reason = .parkt)) → t.pagerDue = false →
      (b'.thread n).st = .ready ∧ (b'.thread n).pc = t.pc + 4 ∧ (b'.thread n).wake = t.wake)
    ∧ (¬ (t.st = .parked ∧ (t.reason = .park ∨ t.reason = .parkt)) →
      (b'.thread n).wake = true ∧ wakeThread n b' = b'.modThread n id ∧ (b'.thread n).pc = t.pc ∧ (b'.thread n).st = t.st)
    ∧ onlyThread n b b'

/-- The time-driven ends of a park and a yield: a thread leaves its yield, and a thread parked by `th.parkt` goes on once the
coarse tick it can read passes its limit; which of the times within 1 µs it reads is free (R96, R135, R140). -/
def Obligations.ParkAndYieldExpire : Prop :=
  (∀ (b : Block) (th : Nat), th < 65664 → (b.thread th).st = .waiting → (b.thread th).wait = .yield → (b.thread th).pagerDue = false →
    Does (.yieldExpiry th) b (b.modThread th fun t => { t with st := .ready, reason := .none, wait := .none, parkArg := 0 }))
  ∧ ∀ (b : Block) (th : Nat), th < 65664 → (b.thread th).st = .parked → (b.thread th).reason = .parkt → (b.thread th).pagerDue = false →
    let (now, b₁) := tick b (th / 16)
    ((b.thread th).parkArg.toNat < now.toNat → Does (.parktTimeout th) b
      (b₁.modThread th fun t => { t.next 4 with st := .ready, reason := .none, wait := .none, parkArg := 0 }))
    ∧ (now.toNat ≤ (b.thread th).parkArg.toNat → Does (.parktTimeout th) b b₁)

/-- `rdst` writes gD with the identity its selector names (R139); the tick a compute-die thread reads is the timebase's bits
[63:17], at most 1 µs old (R96, R140), plus a migrated context's offset (R871). -/
def Obligations.IdentityReads : Prop :=
  ∀ (b : Block) (th : Nat) (d : Reg), canIssue b th false = true →
    let c := th / 16
    let gives := fun (s : RdstSel) (v : Nat) => Issues th (.rdst th d s) b (finishG th d (BitVec.ofNat 64 v) b)
    gives .context ((b.ctxOf c).getD 0) ∧ gives .thread th ∧ gives .threadLocal (th % 16) ∧ gives .core c
    ∧ gives .partition ((b.partOfBasin (c / 16)).getD 0) ∧ gives .pc (b.thread th).pc.toNat
    ∧ gives .coreInContext ((((b.ctxOf c).bind b.context).map fun x => (x.cores.filter fun k => decide (k < c)).length).getD 0)
    ∧ ∃ n, n ≤ 100 ∧
        let base := b.gl.timebase.toNat - n
        let off := (((b.ctxOf c).bind b.context).map (·.tickOffset)).getD 0
        Issues th (.rdst th d .tick) b (finishG th d (BitVec.ofNat 64 (if isSystem c then base else base / 2 ^ 17 + off)) (b.spent 1))

/-- `sy.wait` answers at once for the null ticket (OK), a reserved or stale ticket (INTERNAL) and a completed command (its
status); for a command still to complete the thread is PARKED (R190–R194). `sy.fence` makes the thread's stores visible and, for
a thread with no queued command, goes on at once, else the thread is PARKED until its commands complete; the scope `st` waits
for no command (R131, R200). -/
def Obligations.WaitAndFenceEffects : Prop :=
  ∀ (b : Block) (th : Nat) (d x : Reg) (scope : FenceScope), canIssue b th false = true →
    let ticket := (b.g th x).toNat % 65536
    let mine := (allQueues b).filter fun e => e.2.thread == th
    let gives := fun (st : Status) => Issues th (.syWait th d x) b (finishG th d (BitVec.ofNat 64 st.code) b)
    (ticket = 0 → gives .ok) ∧ (ticketIs b (th / 16) ticket = .invalid ∨ ticketIs b (th / 16) ticket = .stale → gives .internal)
    ∧ (∀ st, ticketIs b (th / 16) ticket = .done st → gives st)
    ∧ (∀ k, ticketIs b (th / 16) ticket = .waiting k → ∃ b', Issues th (.syWait th d x) b b' ∧ (b'.thread th).st = .parked
        ∧ (b'.thread th).wait = .ticket (ticket / 4096) k d.toNat ∧ onlyThread th b b')
    ∧ (scope = .st ∨ mine = [] → Issues th (.syFence th scope) b ((landOwn th b).modThread th fun t => t.next 4))
    ∧ (scope ≠ .st → mine ≠ [] → ∃ b', Issues th (.syFence th scope) b b' ∧ (b'.thread th).st = .parked
        ∧ (b'.thread th).wait = .fence (mine.map fun e => e.2.id) ∧ (∀ x ∈ b'.stores, x.th ≠ th) ∧ b'.mem.t1 = (landOwn th b).mem.t1)
    ∧ (∀ x ∈ (landOwn th b).stores, x.th ≠ th)

/-! ### The system class (R146–R149, R158–R164, R525–R528, R541, R542) -/

/-- The privileged rows of a system core's thread, each where it completes with OK: a stopped thread's stores are made first, a
core that is bound joins its context's cores and one that is scrubbed leaves them, and `sys.tlbinv` completes once no access
through the entries it drops is outstanding (R46, R148, R159, R528, R541). -/
def Obligations.SystemOperationsComplete : Prop :=
  ∀ (b : Block) (th : Nat) (d x y : Reg), canIssue b th false = true → 65536 ≤ th →
    let n := (b.g th x).toNat
    let t := b.thread n
    let ok := fun (i : Instr) (b' : Block) => Issues th i b (finishG th d 0 b')
    (n < 65536 → t.st ≠ .free → t.st ≠ .stopped → t.st ≠ .halted →
      (∀ a₁ a₂ a₃ a₄ a₅ a₆ a₇, t.wait ≠ .load a₁ a₂ a₃ a₄ a₅ a₆ a₇) → (∀ a₁ a₂ a₃ a₄ a₅ a₆ a₇ a₈ a₉ a₁₀, t.wait ≠ .amo a₁ a₂ a₃ a₄ a₅ a₆ a₇ a₈ a₉ a₁₀) →
      let kept := match t.wait with
        | .ticket u k a => WaitOp.ticket u k a
        | _ => .none
      ok (.sysTstop th d x) ((landOwn n b).modThread n fun t => { t with st := .stopped, wait := kept, stopAsked := false }))
    ∧ (n < 65536 → t.st = .stopped ∨ t.st = .halted →
        (writeHeld b 0 (b.g th y).toNat 320 accWrite = false → ∀ b₁, vwrite (whoThread b th 1) none (b.g th y).toNat (saveRecord t) b = (.ok (), b₁) → ok (.sysTsave th d x y) b₁)
        ∧ ok (.sysTfree th d x) (b.modThread n fun t => { t with st := .free, reason := .none, wait := .none }))
    ∧ (n < 65536 → t.st = .free → ∀ b₁ r u, vread (whoThread b th 1) none (b.g th y).toNat 320 b = (.ok r, b₁) →
        readRecord r = some u → ok (.sysTrest th d x y) (b₁.setThread n u))
    ∧ (n < 65536 → t.st = .stopped → t.reason = .none → t.pagerDue = false →
        ok (.sysTgo th d x) (b.setThread n { t with st := .ready, wait := .none, parkArg := 0, weirSaved := none }))
    ∧ (∀ b₁, bindCore n (b.g th y).toNat b = some b₁ → ok (.sysCtxbind th d x y) b₁)
    ∧ (∀ c, b.context n = some c → ok (.sysPtroot th d x y)
        (b.modContext n fun c => { c with ptRoot := (b.g th y).toNat % 2 ^ 48 / 4096 * 4096, direct := false }))
    ∧ (∀ va, va = (if b.g th y = BitVec.allOnes 64 then none else some (b.g th y).toNat) → accessThreads b n va = [] →
        ok (.sysTlbinv th d x y) (tlbInvalidate n va (landPage n va b)))
    ∧ (n < 4096 → (b.core n).allFree = true → coreIdle b n = true →
        ok (.sysScrub th d x) (leaveContext n (b.modCore n Core.scrub)))

/-- A thread's save record brings back what it holds: every register and predicate, the program counter, the wake, why it
last stopped and what it waited with; the restored thread is STOPPED (R148, R163, R164). -/
def Obligations.SaveRecordRoundTrip : Prop :=
  ∀ t : Thread, t.pc.toNat % 4 = 0 → t.st ≠ .free →
    ∃ u, readRecord (saveRecord t) = some u ∧ u.st = .stopped ∧ (∀ r, u.getG r = t.getG r) ∧ (∀ p, u.getP p = t.getP p)
      ∧ u.pc = t.pc ∧ u.wake = t.wake ∧ u.cause = t.cause ∧ u.status = t.status ∧ u.reason = t.reason ∧ u.faultVa = t.faultVa
      ∧ u.parkArg = t.parkArg ∧ (saveRecord t).length = 320

/-- A scrub, from whatever the core held, leaves no byte of its tile store, accumulator store, gradient hold, vector
buffers, tables or instruction cache, every thread FREE with registers 0, every chamber pair disabled, no queued command, no
context and no stochastic seed (R542). -/
def Obligations.ScrubLeavesNothing : Prop :=
  ∀ c : Core,
    let c' := c.scrub
    (∀ a, c'.ts.byte a = 0 ∧ c'.sums.acc.byte a = 0 ∧ c'.sums.gh.byte a = 0 ∧ c'.vec.buffers.byte a = 0 ∧ c'.vec.tableMem.byte a = 0
        ∧ c'.vec.lanes.byte a = 0)
      ∧ (∀ t, (c'.thread t).st = .free ∧ ∀ r, (c'.thread t).getG r = 0) ∧ (∀ k, (c'.pair k).enabled = false)
      ∧ c'.sums.ghActive = 0 ∧ c'.icache = [] ∧ c'.ctx = none ∧ c'.seed = 0 ∧ c'.step = 0 ∧ c'.bad = [] ∧ c'.scrubbed = true
      ∧ c'.q.mx = [] ∧ c'.q.cx = [] ∧ c'.q.vx = [] ∧ c'.q.tw = [] ∧ c'.q.groups = [] ∧ c'.q.summaries = []
      ∧ ∀ q, (c'.twq q).active = none ∧ (c'.twq q).pending = none ∧ (c'.twq q).emitted = [] ∧ (c'.twq q).issued = []

/-! ### Engine commands (R141–R145, R173–R200, R902–R914) -/

/-- The `eng` rows that take a ticket. A block whose tile-store (or, on a system core, virtual) address is aligned and in
range, that can be read and whose queue has room and grant is its turn, enters the queue of its unit: with INTERNAL unless
its header is sound, else with what the unit's entry checks make of it; a reserved code of the unit, or a grant number that
repeats one already granted, enters with INTERNAL and nothing else. A full queue, or a grant number whose turn has not come,
parks the thread on the word, and a unit that is not valid on the core makes the word an illegal operation. -/
def Obligations.EngineCommandsEnterTheirQueues : Prop :=
  ∀ (b : Block) (th : Nat) (d a : Reg) (pk : Pred), canIssue b th false = true → predsReady b th [pk] = true →
    let row := fun (i : Instr) (unit code : Nat) (entry : Block → List Byte → Entry)
        (enter : QueueRef → List Byte → Entry → Block → Block) =>
      (queueOf (th / 16) unit = none → Issues th i b (takeTrap th .illegalOp .ok 0 b))
      ∧ ∀ q, queueOf (th / 16) unit = some q → blockTrap th (b.g th a) = none →
        (q.depth ≤ (b.queue q).length → Issues th i b (parkOnQueue th q b))
        ∧ ((b.queue q).length < q.depth → ∀ block b₁, readBlock th (b.g th a) b = (some block, b₁) →
          (grantState b₁ q (fld block 8 4) = some false →
            Issues th i b (enter q block (if headerOk block unit code then entry b₁ block else .bad .internal)
              (grantTaken q (fld block 8 4) b₁)))
          ∧ (grantState b₁ q (fld block 8 4) = some true → Issues th i b (enter q block (.bad .internal) b₁))
          ∧ (grantState b₁ q (fld block 8 4) = none → Issues th i b (parkOnQueue th q b₁)))
    let plain := fun (unit code : Nat) (q : QueueRef) (block : List Byte) (e : Entry) => enterCmd th d pk unit code q block e
    let mx := fun (i : Instr) (code : Nat) (rev split : Bool) => row i 1 code
      (fun b x => mxEntry rev split (bitOf (fld x 2 1) 3 || depReady b (th / 16) x) b (th / 16) x) (enterMx th d pk code)
    let vx := fun (i : Instr) (code : Nat) => row i 4 code (fun _ x => vxEntry code x) (plain 4 code)
    let cx := fun (i : Instr) (code : Nat) => row i 2 code (fun b x => cxEntry code (depReady b (th / 16) x) b (th / 16) x) (plain 2 code)
    let mv := fun (i : Instr) (code : Nat) => row i 3 code (fun b x => mvEntry code (depReady b (th / 16) x) b (th / 16) x) (plain 3 code)
    let tw := fun (i : Instr) (code : Nat) => row i 5 code (fun _ x => twEntry code x) (enterTw th d pk code)
    let at_ := fun (i : Instr) (code : Nat) => row i 6 code (fun b x => atEntry code (depReady b (th / 16) x) b (th / 16) x) (enterAt th d pk code)
    let up := fun (i : Instr) (code : Nat) => row i 7 code (fun b x => upEntry code (depReady b (th / 16) x) b (th / 16) x) (enterUp th d pk code)
    let rd := fun (i : Instr) (code : Nat) => row i 8 code (fun b x => rdEntry code b (th / 16) x) (enterRd th d pk code)
    let tm := fun (i : Instr) (code : Nat) => row i 9 code (fun b x => tmEntry code b (th / 16) x) (enterTm th d pk code)
    (mx (.mxFwd th d a ⟨pk, 1⟩) 1 false false ∧ mx (.mxRev th d a pk) 2 true false ∧ mx (.mxFwd3 th d a pk) 3 false true
      ∧ mx (.mxRev3 th d a pk) 4 true true ∧ row (.mxDrain th d a pk) 1 5 (fun _ x => drainEntry x) (plain 1 5))
    ∧ (cx (.cxDown th d a ⟨pk, 1⟩) 1 ∧ cx (.cxBack th d a pk) 2 ∧ cx (.cxGrad th d a pk) 3)
    ∧ (mv (.mvFwd th d a ⟨pk, 1⟩) 1 ∧ mv (.mvRev th d a pk) 2 ∧ mv (.mvFwd3 th d a pk) 3)
    ∧ (vx (.vxRun th d a ⟨pk, 1⟩) 1 ∧ vx (.vxStep th d a pk) 3 ∧ vx (.vxTload th d a pk) 4 ∧ vx (.vxComb th d a pk) 5
      ∧ vx (.vxMov th d a pk) 0x41 ∧ vx (.vxAdd th d a pk) 0x42 ∧ vx (.vxSub th d a pk) 0x43 ∧ vx (.vxMul th d a pk) 0x44
      ∧ vx (.vxFma th d a pk) 0x45 ∧ vx (.vxDiv th d a pk) 0x46 ∧ vx (.vxRecip th d a pk) 0x47 ∧ vx (.vxSqrt th d a pk) 0x48
      ∧ vx (.vxRsqrt th d a pk) 0x49 ∧ vx (.vxExp th d a pk) 0x4A ∧ vx (.vxExp2 th d a pk) 0x4B ∧ vx (.vxLog th d a pk) 0x4C
      ∧ vx (.vxLog2 th d a pk) 0x4D ∧ vx (.vxMin th d a pk) 0x4E ∧ vx (.vxMax th d a pk) 0x4F ∧ vx (.vxAbs th d a pk) 0x50
      ∧ vx (.vxNeg th d a pk) 0x51 ∧ vx (.vxClamp th d a pk) 0x52 ∧ vx (.vxCvt th d a pk) 0x58 ∧ vx (.vxLut th d a pk) 0x59
      ∧ vx (.vxShuf th d a pk) 0x5A ∧ vx (.vxRsum th d a pk) 0x5B ∧ vx (.vxRmax th d a pk) 0x5C ∧ vx (.vxRmin th d a pk) 0x5D)
    ∧ (tw (.twArm th d a ⟨pk, 1⟩) 1 ∧ tw (.twFlip th d a pk) 2 ∧ tw (.twPair th d a pk) 3)
    ∧ (at_ (.atRun th d a ⟨pk, 0x10⟩) 0x10 ∧ at_ (.atBack th d a pk) 0x11 ∧ at_ (.atMerge th d a pk) 0x12)
    ∧ (up (.upTake th d a ⟨pk, 1⟩) 1 ∧ up (.upNorm th d a pk) 2 ∧ up (.upApply th d a pk) 3 ∧ up (.upDigest th d a pk) 4)
    ∧ (rd (.rdSum th d a ⟨pk, 1⟩) 1 ∧ rd (.rdClose th d a pk) 2 ∧ rd (.rdHash th d a pk) 3)
    ∧ (tm (.tmMove th d a ⟨pk, 1⟩) 1 ∧ tm (.tmLayer th d a pk) 2)
    ∧ row (.ckRun th d a ⟨pk, 1⟩) 10 1 (fun _ x => ckEntry x) (plain 10 1)
    ∧ ∀ k : BitVec 8,
        let reserved := fun (i : Instr) (unit : Nat) =>
          k.toNat ∉ unitCodes unit → row i unit k.toNat (fun _ _ => .bad .internal) (plain unit k.toNat)
        reserved (.mxFwd th d a ⟨pk, k⟩) 1 ∧ reserved (.cxDown th d a ⟨pk, k⟩) 2 ∧ reserved (.mvFwd th d a ⟨pk, k⟩) 3
          ∧ reserved (.vxRun th d a ⟨pk, k⟩) 4 ∧ reserved (.twArm th d a ⟨pk, k⟩) 5 ∧ reserved (.atRun th d a ⟨pk, k⟩) 6
          ∧ reserved (.upTake th d a ⟨pk, k⟩) 7 ∧ reserved (.rdSum th d a ⟨pk, k⟩) 8 ∧ reserved (.tmMove th d a ⟨pk, k⟩) 9
          ∧ reserved (.ckRun th d a ⟨pk, k⟩) 10

/-- What entering a queue does to the core: the command stands last in the queue of its unit with its block, gD takes its
ticket (the unit's code and the low 12 bits of its number), the unit's count moves on by 1, the predicate it names is
pending, and the thread goes on past the word; no other thread and no byte of memory or tile store changes (R141, R174, R188, R189). -/
def Obligations.EnteringTakesTheNextTicket : Prop :=
  ∀ (b : Block) (th : Nat) (d : Reg) (pk : Pred) (unit code : Nat) (q : QueueRef) (block : List Byte) (e : Entry),
    queueOf (th / 16) unit = some q →
    let b' := enterCmd th d pk unit code q block e b
    let n := (b.core (th / 16)).entered unit
    let t := b.thread th
    let t' := b'.thread th
    (b'.queue q).length = (b.queue q).length + 1
      ∧ (∃ c, (b'.queue q).getLast? = some c ∧ c.id = b.nextId ∧ c.unit = unit ∧ c.code = code ∧ c.block = block ∧ c.index = n
          ∧ c.thread = th ∧ c.core = th / 16 ∧ c.refuse = e.refuse ∧ c.pk = pk.toNat)
      ∧ (b'.core (th / 16)).entered unit = n + 1
      ∧ t'.g = (t.setG d (BitVec.ofNat 64 (unit * 4096 + n % 4096))).g ∧ t'.pc = t.pc + 4 ∧ t'.p = t.p ∧ t'.st = t.st
      ∧ t'.pPend = (if pk = 0 then t.pPend else t.pPend ||| (1#8 <<< pk.toNat))
      ∧ (∀ k, k ≠ th → b'.thread k = b.thread k) ∧ b'.mem = b.mem ∧ ∀ c, (b'.core c).ts = (b.core c).ts

/-- The two `eng` words that enter no queue: `vx.sum` answers with a field of the summary of a completed command, waits for
a command still to complete, and answers 0 with a false predicate where no summary is held (R211–R217); `tm.home` answers a
page's home and state, or 0 with a false predicate (R486). -/
def Obligations.WordsThatAnswerAtOnce : Prop :=
  ∀ (b : Block) (th : Nat) (d a : Reg) (pk : Pred), canIssue b th false = true → predsReady b th [pk] = true →
    blockTrap th (b.g th a) = none → ∀ block b₁, readBlock th (b.g th a) b = (some block, b₁) →
    let answers := fun (i : Instr) (v : Option Nat) =>
      Issues th i b (b₁.modThread th fun t => ((t.setG d (BitVec.ofNat 64 (v.getD 0))).setP pk v.isSome).next 4)
    let core := th / 16
    let ticket := fld block 0x18 2
    (th < 65536 →
      let sound := headerOk block 4 2 && allZero block 0x1B 37 && (ticket / 4096 == 4 || ticket / 4096 == 6)
      (sound = true →
        (∀ st index, ticketIs b₁ core ticket = .done st → index < (b₁.core core).entered (ticket / 4096) →
          (b₁.core core).entered (ticket / 4096) - index ≤ 256 → index % 4096 = ticket % 4096 →
          answers (.vxSum th d a pk) (((b₁.core core).summary (ticket / 4096) index).bind (·.field (fld block 0x1A 1))))
        ∧ (∀ index, ticketIs b₁ core ticket = .waiting index → ∃ b', Issues th (.vxSum th d a pk) b b'
          ∧ (b'.thread th).st = .waiting ∧ (b'.thread th).pc = (b₁.thread th).pc ∧ onlyThread th b₁ b')
        ∧ (ticketIs b₁ core ticket = .stale → answers (.vxSum th d a pk) none))
      ∧ (sound = false → answers (.vxSum th d a pk) none))
    ∧ (headerOk block 9 3 = true → allZero block 0x20 32 = true →
        answers (.tmHome th d a pk) (homeOf b₁ ((b₁.ctxOf core).getD 0xFFFF) (fld block 0x18 8)))

/-- The life of a queued command. Its dependency, its pass and its start move it on; at COMMAND_COMPLETE the oldest command of
its core in the queue that may go does what work is left of it and ends with the work's status, with every member of its group
where it is one; a command a check refused ends with that status and does nothing, one whose operands make it heavy asks for its
pass, and one whose TLB grant number repeats one already granted ends with INTERNAL (R90, R175, R180–R187, R224–R229, R909–R912).
The rows of the towpath queue's flips and pairs are the same for its head. A stop point takes a running command to the end of its
next piece of work, where it stops if its unit is to stop, or to its fault (R536, R540). -/
def Obligations.QueuedCommandsComplete : Prop :=
  (∀ (b : Block) (q : QueueRef) (c : Cmd) (rest : List Cmd), q.ok = true → b.queue q = c :: rest →
    let ends := fun (b' : Block) => Does (.commandComplete q) b b'
      ∧ (∀ k, q = .tw k → c.code = 2 → Does (.flipSwap k) b b') ∧ (∀ k, q = .tw k → c.code = 3 → Does (.pairSet k) b b')
    let weighs := fun (e p : Nat) =>
      let c' := { c with heavy := true, energy := e, power := p }
      requestPass q c' (b.modCmd q c.id fun _ => c')
    (∀ st quiet, readiness b q c = .finish st quiet → ends (endAll q { c with quiet := quiet } st false b))
    ∧ (∀ e p, readiness b q c = .weigh e p → ends (weighs e p))
    ∧ (readiness b q c = .go → tlbGate b q c = some true → ends (endAll q { c with quiet := true } .internal false b))
    ∧ (readiness b q c = .go → tlbGate b q c = some false → mustStop b q c = false →
        (∀ st b₁, runCmd q c none b = .done st b₁ → ends (endAll q c st true b₁))
        ∧ (∀ va pos b₁, runCmd q c none b = .fault va pos b₁ → ends (stopCmd q c (some va) pos b₁)))
    ∧ (startable b q c = true ∨ startableLight b q c = true → Does (.passStart q) b (startCmd q c b))
    ∧ (c.phase = .running → c.cancel = none → c.unit ≠ 9 → (∀ k, q ≠ .tm k) → passAsked b c = false → tlbGate b q c = some false →
        (∀ pos carried b₁, runCmd q c (some 1) b = .point pos carried b₁ →
          Does (.engineStopPoint (.unit q)) b (reachPoint q c pos carried b₁))
        ∧ ∀ va pos b₁, runCmd q c (some 1) b = .fault va pos b₁ →
          Does (.engineStopPoint (.unit q)) b (stopCmd q c (some va) pos b₁))
    ∧ (rest = [] → c.gather = none → c.refuse = none → c.cancel = none → c.phase = .entered →
        (∃ k, q = .mx k ∨ q = .cx k ∨ q = .vx k ∨ q = .mv k ∨ q = .up k) →
        (∀ st quiet, readyEntered b q c = .finish st quiet →
          Does (.depSatisfied q) b (b.modCmd q c.id fun x => { x with cancel := some st, quiet := quiet }))
        ∧ ∀ e p, readyEntered b q c = .weigh e p → Does (.depSatisfied q) b (weighs e p)))
  ∧ (∀ (b : Block) (bs : Nat) (r : PassReq), bs < 256 → (b.basin bs).passes = [r] → b.ticketMode r.part = false → b.lock.level < 3 →
      1 ≤ r.cls → r.cls ≤ 20 → poolPays b (dieOfBasin bs) r.part r.cls = true →
      Does (.lockGrantSlot bs) b (grantPass bs (decide (r.since + 100 * b.lock.ageUs.toNat ≤ b.gl.timebase.toNat)) r b))
  ∧ ∀ (b : Block) (core g : Nat), core < 4096 → Does (.gatherWindowExpiry core g) b (closeGroup core g b)

/-! ### Towpath (R407–R426, R435–R446) -/

/-- The rows of a towpath program, each where its instruction is the next: MOVE emits its next transfer, to a 4 KiB boundary of the far
end or to the end of the move, and goes on after the last one, or stalls while the queue accepts none; ADDS adds the stride, LOOP counts and goes back or on, WAITC goes on when its chamber is the stream chamber, SIGNAL and END are noted; a
pending program becomes active in an empty slot with every counter 0 (R435–R441, R444). -/
def Obligations.TowpathProgramsRun : Prop :=
  ∀ (b : Block) (core : Nat) (q : BitVec 2) (p : TwProg), core < 4096 →
    let x := b.twq core q.toNat
    let k := fun (pair : Nat) => (b.core core).pair pair
    (∀ img, x.active = none → x.pending = some img →
      Does (.programActivate core q) b (b.setTwq core q.toNat { x with
        pending := none, serials := x.serials + 1
        active := some { img := img, a := img.a, index := 0, counters := [0, 0, 0, 0], serial := x.serials + 1, nextGrant := img.grantTlb,
                         moved := 0, ended := none } }))
    ∧ (∀ areg out pair hsel csel post str cidx len coff far,
        nextTw b core q.toNat = some (p, .move areg out pair hsel csel post str cidx len coff) →
        farOf q.toNat (p.a.getD areg 0).toNat = some far → (k pair).enabled = true →
        let n := 32 * len
        let off := 32 * coff + if cidx then p.counters.getD csel 0 * n else 0
        off + n ≤ (k pair).half →
        let len := min (n - p.moved) (4096 - (far + p.moved) % 4096)
        let piece : Transfer :=
          { id := x.nextId, serial := p.serial, far := far + p.moved, ts := (k pair).chamber (p.upper hsel csel) + off + p.moved, len := len,
            out := out, grants := [p.nextGrant], retried := false, sent := none, clash := [], farClash := [] }
        let a' := if post then p.a.set areg (p.a.getD areg 0 + p.img.strides.getD str 0) else p.a
        let p' := { p with nextGrant := p.nextGrant + 1 }
        let on := if p.moved + len < n then { p' with moved := p.moved + len } else { p' with index := p.index + 1, moved := 0, a := a' }
        (x.accepts = true → Does (.move core q) b (twSettle core q.toNat (putProg core q.toNat on (b.modTwq core q.toNat (emit · piece)))))
        ∧ (x.accepts = false → Does (.move core q) b b))
    ∧ (∀ areg str, nextTw b core q.toNat = some (p, .adds areg str) →
        Does (.adds core q) b (putProg core q.toNat { p.step with a := p.a.set areg (p.a.getD areg 0 + p.img.strides.getD str 0) } b))
    ∧ (∀ cnt target count, nextTw b core q.toNat = some (p, .loop cnt target count) →
        let n := p.counters.getD cnt 0 + 1
        Does (.loopBack core q) b (putProg core q.toNat (if n < count then { p with counters := p.counters.set cnt n, index := target }
          else { p with counters := p.counters.set cnt 0, index := p.index + 1 }) b))
    ∧ (∀ pair hsel csel, nextTw b core q.toNat = some (p, .waitc pair hsel csel) → (k pair).enabled = true →
        (p.upper hsel csel ≠ (k pair).upperCompute → Does (.waitc core q) b (putProg core q.toNat { p with index := p.index + 1 } b))
        ∧ (p.upper hsel csel = (k pair).upperCompute → Does (.waitc core q) b b))
    ∧ (∀ thread done, nextTw b core q.toNat = some (p, .signal thread done) →
        Does (.signal core q) b (twSettle core q.toNat ((putProg core q.toNat { p with index := p.index + 1 } b).modTwq core q.toNat fun x =>
          { x with signals := x.signals ++ [{ thread := thread, done := done, serial := p.serial, before := x.nextId }] })))
    ∧ (nextTw b core q.toNat = some (p, .endp) →
        Does (.endProg core q) b (twSettle core q.toNat (putProg core q.toNat { p with ended := some .ok } b)))

/-- A transfer issues when nothing holds its queue back: no fault, no stop, fewer issued than the queue's depth, none of them
touching the same tile store, and its range in no compute chamber; where it makes a TLB lookup in ticket mode its grant number
takes its turn, and one that repeats a number ends with INTERNAL (R90, R416–R419, R426, R458). A transfer that completes leaves the
issued ones. A T1 transfer moves its bytes: those read through the translation land at its tile-store range, or those of that
range are written through the translation (R408). -/
def Obligations.TransfersMoveTheirBytes : Prop :=
  ∀ (b : Block) (core : Nat) (q : BitVec 2) (t : Transfer), core < 4096 →
    let x := b.twq core q.toNat
    let grant := t.grants.headD 0
    (∀ rest, x.emitted = t :: rest → x.faulted = false → coreStopped b core = false →
      x.issued.length < ((b.core core).twDepth.getD q.toNat 0x10).toNat → (∀ u ∈ x.issued, overlap t.ts t.len u.ts u.len = false) →
      (b.core core).computeTouch t.ts t.len = none →
        (t.retried = true ∨ q.toNat = 3 → Does (.transferIssue core q) b (issueNow core q.toNat t b))
        ∧ (t.retried = false → q.toNat < 3 →
          (tlbTurn b (.tw core) grant = some false →
            Does (.transferIssue core q) b (issueNow core q.toNat t (tlbDone (.tw core) t.grants b)))
          ∧ (tlbTurn b (.tw core) grant = none → Does (.transferIssue core q) b b)
          ∧ (tlbTurn b (.tw core) grant = some true → Does (.transferIssue core q) b
              (faultTransfer core q.toNat { t with len := 0 } .internal t.far (b.modTwq core q.toNat fun x => { x with emitted := rest })))))
    ∧ (∀ index, x.issued[index]? = some t → q.toNat < 3 →
        let ends := fun (b' : Block) => (b'.twq core q.toNat).faulted = false →
          Does (.transferComplete core q index) b (twSettle core q.toNat (b'.modTwq core q.toNat fun x =>
            { x with issued := x.issued.eraseIdx index }))
        (t.out = false → t.clash = [] → ∀ bs b₁, bs.length = t.len →
          vread (whoCore b core 3 q.toNat) (some (core / 16)) t.far t.len b = (.ok bs, b₁) → (b₁.core core).tsWriteBad t.ts t.len = none →
          ends ((touchTile q.toNat core t.ts t.len (b₁.modCore core fun c => c.tsWrite t.ts bs)).noteLanded core t.ts bs))
        ∧ (t.out = true → writeHeld b ((b.ctxOf core).getD 0xFFFF) t.far t.len accWrite = false → ∀ bs b₁ b₂,
          takeTile core q.toNat t b = (some bs, b₁) → vwrite (whoCore b core 3 q.toNat) (some (core / 16)) t.far bs b₁ = (.ok (), b₂) →
          ends b₂))

/-! ### Tiers, faults and patrols (R464–R492, R529–R553, R802–R804) -/

/-- The tier engines and the pager. A page moves in four steps: an engine begins with its first request that may run, sets
MOVING in the page's entry, and a request that moves nothing has its result at once; once no write that translated before is
outstanding the page is copied; its entry then names the new home and its TLB entries are dropped, which resolves the waits for a
page that came to T1; and once no access to the old frame is outstanding the request has its result (R464–R472, R533). A
schedule entry within reach is taken; a page of a rotating slot is marked and then encrypted again in its place (R802); a fault
record is taken, and one of a page that is not resident asks for the page with the faulting basin charged; an ended wait halts
its thread. -/
def Obligations.PagesMoveAndFaultsResolve : Prop :=
  (∀ (b : Block) (e : Nat) (r : TierReq), e < 8 → b.lock.level < 3 → (b.tierEngine e).job = none →
    (b.tierEngine e).reqs.find? (fun r => r.result.isNone && !b.ctxFrozen r.ctx && ownerRuns b r) = some r →
    (∀ st, judgeMove r b = some (.error st) → Does (.pageMove e) b (putResult e r st false b))
    ∧ (∀ x, judgeMove r b = some (.ok x) → engineOf (some x) r.va r.dest = e →
        let va := pageBase x.big r.va
        Does (.pageMove e) b (markMoving true r.ctx va x (b.modTier e fun t =>
          { t with job := some { req := r, stage := 1, va := va, addr := x.addr, big := x.big, old := setMoving true x.l, new := 0 } }))))
  ∧ (∀ (b : Block) (e : Nat) (j : TierJob), e < 8 → (b.tierEngine e).job = some j →
    let ctx := j.req.ctx
    let size := pageSize j.big
    (∀ x, j.stage = 1 → stillMoving b j = some x → leafHome x.l ≠ 1 ∨ frameInUse b true (leafFrame x.l) size = false →
      let b₀ := if leafHome x.l = 1 then landRange (leafFrame x.l) size b else b
      (∀ l b₁, copyPage e j x b₀ = (.ok l, b₁) → Does (.pageMove e) b
        (turnDies j.req.owner l (b₁.modTier e fun t => { t with job := some { j with stage := 2, old := x.l, new := l } })))
      ∧ (∀ st b₁, copyPage e j x b₀ = (.error st, b₁) → Does (.pageMove e) b (giveUp e j st (st = .busy) b₁)))
    ∧ (∀ x, j.stage = 2 → stillMoving b j = some x → ∀ b₁,
        b₁ = (dropPage ctx j.va (putLeaf x j.new b)).modTier e (fun t => { t with job := some { j with stage := 3 } }) →
        let b₂ := releaseMoving (sharers b₁ ctx j.va) j.va (j.va + size) b₁
        Does (.pageMove e) b (if j.req.dest = 1 then resolvePage (sharers b₂ ctx j.va) j.va (j.va + size) b₂ else b₂))
    ∧ (3 ≤ j.stage → leafHome j.old ≠ 1 ∨ frameInUse b false (leafFrame j.old) size = false →
        Does (.pageMove e) b (putResult e j.req .ok false
          ((releaseHome { l := j.old, addr := j.addr, big := j.big } b).modTier e fun t => { t with job := none, pages := t.pages + 1 })))
    ∧ (∀ x, j.stage = 1 → stillMoving b j = some x → leafHome x.l = 1 → frameInUse b true (leafFrame x.l) size = true →
        Does (.pageMove e) b b))
  ∧ (∀ (b : Block) (ctx : Nat) (c : Context) (p : Partition) (e : SchedEntry), ctx < 65536 → b.context ctx = some c →
      SMap.find c.part b.parts = some p → c.sched[c.cursor]? = some e → p.schedEn = true → b.ctxFrozen ctx = false → b.lock.level < 3 →
      e.layer ≤ c.layer + p.lookaheadAct.toNat → Does (.scheduleEntryStart ctx) b (takeEntry ctx c e b))
  ∧ (∀ (b : Block) (slot ctx va : Nat) (x : Leaf), slot < 4096 → ctx < 65536 → leafOf b ctx va = some x → (b.slot slot).st = .rotating →
      leafSlot x.l = slot → leafEpoch x.l = ((b.slot slot).epoch - 1).toNat → b.lock.level < 3 →
      let page := pageBase x.big va
      let busy := leafHome x.l = 1 ∧ frameInUse b true (leafFrame x.l) (pageSize x.big) = true
      ((slot, ctx, page) ∉ b.rekeys → leafMoving x.l = false →
        Does (.rekeyPage slot ctx va) b (markMoving true ctx page x { b with rekeys := b.rekeys ++ [(slot, ctx, page)] }))
      ∧ ((slot, ctx, page) ∈ b.rekeys → busy → Does (.rekeyPage slot ctx va) b b)
      ∧ ((slot, ctx, page) ∈ b.rekeys → ¬ busy →
          let b₀ := if leafHome x.l = 1 then landRange (leafFrame x.l) (pageSize x.big) b else b
          let b₁ := { b₀ with rekeys := b₀.rekeys.erase (slot, ctx, page) }
          let done := fun (b' : Block) => Does (.rekeyPage slot ctx va) b (releaseMoving (sharers b₁ ctx page) page (page + pageSize x.big)
            ((dropPage ctx page (putLeaf x (setMoving false (setBits x.l 10 2 (b'.slot slot).epoch.toNat)) b')).modSlot slot
              fun k => KeySlot.retire { k with oldPages := k.oldPages - 1 }))
          (leafHome x.l ≠ 3 → done b₁)
          ∧ (leafHome x.l = 3 → ∀ c b₂ ct iv tag ep b₃, readCompressed 0 ctx page x b₁ = (.ok c, b₂) →
              sealUnder slot (t3Aad page (b₂.slot slot).epoch.toNat) c b₂ = (.ok (ct, iv, tag, ep), b₃) →
              done (hostWrite (leafFrame x.l) (ct ++ iv ++ tag) b₃))))
  ∧ (∀ (b : Block) (die : Nat) (bs : List Byte) (rest : List (List Byte)), die < 8 → SMap.get [] die b.faults = bs :: rest →
      let r := FaultRec.ofBytes bs
      let b₁ := { b with faults := SMap.put [] die rest b.faults }
      (r.status ≠ .notResident → Does (.faultRecordTake die) b b₁)
      ∧ (r.status = .notResident → b.tier = [] → b.rooms = [] → b.deferred = [] → Does (.faultRecordTake die) b
          (tierRequest { owner := .pager, ctx := r.ctx, va := (pageBounds b₁ r.ctx r.va).1, dest := 1, cfmt := 15, charge := r.basin, ord := 0,
                         rot := none, result := none } b₁)))
  ∧ ∀ (b : Block) (basin : Nat) (v : U64) (st : Status), basin < 256 →
      let w := v.toNat
      let th := (basin * 16 + w / 2 ^ 16 % 256) * 16 + w / 2 ^ 24 % 16
      let unit := w / 256 % 256
      let slot := w / 2 ^ 16 % 256
      Status.ofCode (w % 256) = some st → st ≠ .ok →
        (slot < 16 → (unit = 1 ∧ (b.thread th).cause = .memFault) ∨ (unit = 2 ∧ (b.thread th).cause = .fetchFault) →
          (b.thread th).status = .notResident → (b.thread th).reason = .pager →
          ∃ b', Does (.bsFaultEnd basin v) b b' ∧ (b'.thread th).st = .halted ∧ (b'.thread th).status = st
            ∧ (b'.thread th).pc = (b.thread th).pc ∧ (b'.thread th).g = (b.thread th).g)
        ∧ (slot < 16 → unit = 3 → w / 2 ^ 24 % 16 < 4 →
            Does (.bsFaultEnd basin v) b (endQueueWait (basin * 16 + slot) (w / 2 ^ 24 % 16) st (fun _ => true) b))
        ∧ ∀ q c, (unit = 4 ∧ q = .mv basin) ∨ (unit = 5 ∧ slot < 16 ∧ q = .mx (basin * 16 + slot)) ∨ (unit = 6 ∧ q = .up basin)
              ∨ (unit = 8 ∧ q = .rd basin) → waiterIn b q = some c →
            Does (.bsFaultEnd basin v) b (endCmdWait q c st b)

/-- A patrol read of a T1 or T2 codeword whose symbols went wrong counts what its decoder corrects and leaves the data of every
address, and no wrong symbol where it corrected them all; what the decoder cannot correct is counted as uncorrectable and stands
as it was (R545, R546, R551, R553). One of a core's SRAM word counts one wrong bit that it corrects; a word with two wrong bits
is counted as uncorrectable and keeps its error (R550, R552, R553). -/
def Obligations.PatrolReadsCountErrors : Prop :=
  ∀ (b : Block),
    (∀ addr errs, addr < 0xD8_0000_0000 → b.gl.patrolEn = true → b.mem.t1.wf = true → (∀ e ∈ b.mem.t1Bad, e.1 % 32 = 0) →
      let a := addr / 32 * 32
      let wrong := addSyms [] (errs.filter fun e => decide (e.1 < 36) && decide (e.2 < 256))
      let count := fun (b : Block) => SMap.get .init (stackOf a) b.gl.t1Ecc
      SMap.get [] a b.mem.t1Bad = [] →
      (rsRead wrong = some ([], true) → ∃ b', Does (.patrolMem .t1 addr errs) b b' ∧ (∀ x, b'.mem.t1.byte x = b.mem.t1.byte x)
        ∧ b'.mem.t2 = b.mem.t2 ∧ SMap.get [] a b'.mem.t1Bad = [] ∧ (count b').corrected = (count b).corrected + 1
        ∧ b'.cores = b.cores ∧ b'.basins = b.basins)
      ∧ (rsRead wrong = none → ∃ b', Does (.patrolMem .t1 addr errs) b b' ∧ b'.mem.t1 = b.mem.t1 ∧ b'.mem.t2 = b.mem.t2
        ∧ SMap.get [] a b'.mem.t1Bad = wrong ∧ (count b').uncorrectable = sat16 (count b).uncorrectable ∧ b'.gl.eccValid = true
        ∧ b'.cores = b.cores ∧ b'.basins = b.basins))
    ∧ (∀ addr errs, addr < 2 ^ 41 → b.gl.patrolEn = true → b.mem.t2.wf = true → (∀ e ∈ b.mem.t2Bad, e.1 % 32 = 0) →
      let a := addr / 32 * 32
      let wrong := addSyms [] (errs.filter fun e => decide (e.1 < 36) && decide (e.2 < 256))
      let count := fun (b : Block) => SMap.get .init (a / 2 ^ 40) b.gl.t2Ecc
      SMap.get [] a b.mem.t2Bad = [] →
      (rsRead wrong = some ([], true) → ∃ b', Does (.patrolMem .t2 addr errs) b b' ∧ (∀ x, b'.mem.t2.byte x = b.mem.t2.byte x)
        ∧ b'.mem.t1 = b.mem.t1 ∧ (count b').corrected = (count b).corrected + 1)
      ∧ (rsRead wrong = none → ∃ b', Does (.patrolMem .t2 addr errs) b b' ∧ b'.mem.t1 = b.mem.t1 ∧ b'.mem.t2 = b.mem.t2
        ∧ SMap.get [] a b'.mem.t2Bad = wrong ∧ (count b').uncorrectable = sat16 (count b).uncorrectable))
    ∧ ∀ basin pslot off c, basin < 256 → pslot < 17 → off < 0xC0000 → coreAt b basin pslot = some c →
        (b.core c).bad.contains (off / 8 * 8) = false →
        (∃ b', Does (.patrolSram basin pslot off 1) b b' ∧ (b'.core c).ts = (b.core c).ts ∧ (b'.core c).bad = (b.core c).bad
          ∧ (b'.core c).regs.sramCorrected = (b.core c).regs.sramCorrected + 1)
        ∧ ∃ b', Does (.patrolSram basin pslot off 2) b b' ∧ (b'.core c).ts = (b.core c).ts ∧ (off / 8 * 8) ∈ (b'.core c).bad
          ∧ (b'.core c).regs.sramUncorrectable = sat16 (b.core c).regs.sramUncorrectable

/-! ### Power, rates, gates and spares (R69–R81, R913–R939) -/

/-- Unit power states (R924–R926): a write of 0 stops a unit that is ON, a write of 1 starts one that is OFF and is held for
one that stops; a stopping unit with nothing running is OFF, or starts again, and a starting one is ON; no other unit's gate changes. -/
def Obligations.UnitGatesFollowTheirWrites : Prop :=
  ∀ (b : Block) (u : GateRef), GateRef.ok u = true →
    let g := b.gate u
    let turns := fun (i : Instr) (st : PwrState) => ∃ b', Does i b b' ∧ (b'.gate u).st = st ∧ b'.mem = b.mem
      ∧ (∀ v, v ≠ u → b'.gate v = b.gate v)
    (g.st = .on → turns (.unitStop u) .stopping) ∧ (g.st = .off → turns (.unitStop u) .off)
    ∧ (∃ b', Does (.unitStop u) b b' ∧ (b'.gate u).en = false)
    ∧ (g.st = .off → turns (.unitEnable u) .starting) ∧ (g.st = .on → turns (.unitEnable u) .on)
    ∧ (g.st = .stopping → turns (.unitEnable u) .stopping ∧ ∃ b', Does (.unitEnable u) b b' ∧ (b'.gate u).pendingEn = true)
    ∧ (∃ b', Does (.unitEnable u) b b' ∧ (b'.gate u).en = true)
    ∧ (g.st = .stopping → (∀ q ∈ gateQueues u, ∀ c ∈ b.queue q, c.phase ≠ .running) →
        turns (.unitGated u) (if g.pendingEn then .starting else .off))
    ∧ (g.st = .starting → turns (.unitStarted u) .on)

/-- Stop requests, the VCORE target, rate windows and ticket mode: the request bits and the clamped target are stored and a
host's write of the target does nothing (R69, R77); a window's samples show in the die registers (R1014); ticket mode changes
once the partition is at rest, and its grant sequences start again (R80, R208). -/
def Obligations.RatesAndModesChange : Prop :=
  (∀ (b : Block) (basin slot : Nat) (v : U64), basin < 256 → slot < 16 → v.getLsbD 0 = true →
    Does (.bsCoreCtrl basin slot v) b (b.modCore (basin * 16 + slot) fun x => { x with regs := { x.regs with stopReq := true } })
    ∧ Does (.bsBasinCtrl basin v) b (b.modBasin basin fun x => { x with stopReq := true }))
  ∧ (∀ (b : Block) (basin slot : Nat) (v : U64), basin < 256 → slot < 16 → v.getLsbD 0 = false →
    Does (.bsCoreCtrl basin slot v) b
      (resumeCore (basin * 16 + slot) (b.modCore (basin * 16 + slot) fun x => { x with regs := { x.regs with stopReq := false } }))
    ∧ Does (.bsBasinCtrl basin v) b (resumeBasin basin (b.modBasin basin fun x => { x with stopReq := false })))
  ∧ (∀ (b : Block) (v : U64) (f : Nat), Does (.glVcoreCtrl (.host f) v) b b
    ∧ ∃ b', Does (.glVcoreCtrl .fw v) b b' ∧ b'.gl.vcoreTarget.toNat = max 600 (min (v.toNat % 1024) 800) ∧ b'.lm = b.lm ∧ b'.cores = b.cores)
  ∧ (∀ (b : Block) (w : RateSample) (d : Nat), b.th.mainUp = true → d < 8 → ∃ b', Does (.rateWindow w) b b'
    ∧ ((SMap.get .init d b'.gl.dieRate).waves.toNat = w.waves.getD d 0 % 2 ^ 32) ∧ b'.cores = b.cores ∧ b'.mem = b.mem
    ∧ (w.vcoreMv.getD d 0 = 700 → w.waves.getD d 0 = 1600000 → b'.scale d = 0x1000))
  ∧ ∀ (b : Block) (p : Nat) (x : Partition), p < 64 → SMap.find p b.parts = some x → partQuiet b x = true →
      bitOf b.gl.ticketReq.toNat p ≠ bitOf b.gl.ticketAct.toNat p →
      ∃ b', Does (.ticketModeChange p) b b' ∧ b'.ticketMode p = bitOf b.gl.ticketReq.toNat p
        ∧ (∀ k, k < 64 → k ≠ p → b'.ticketMode k = b.ticketMode k)
        ∧ (∀ k ∈ partQueueKeys x, SMap.get 0 k b'.gl.grantQ = 0) ∧ (∀ d, SMap.get [] (shareKey d p) b'.gl.grantLk = [])
        ∧ ∀ k ∈ x.basins, SMap.get [] k b'.gl.grantTlb = []

/-- Weir levels. A sample below a level's threshold raises the level (R913, R915); a level whose trigger is gone falls by one
(R916); SAG_N low holds the level at SAG_LEVEL or above (R917); level 4 is entered from level 3 and left by a warm reset
(R919, R920). -/
def Obligations.WeirLevelsFollowTheSupply : Prop :=
  ∀ (b : Block), b.th.mainUp = true → b.th.railUp = true →
    (∀ dv droop, b.lock.level ≤ 3 →
      let h := (dv :: b.lock.vinHist).take 4
      let below := fun (v : Nat) => decide (h.sum < v * h.length)
      let n := if below 420 then 3 else if below 440 then 2 else if below 460 || droop then 1 else 0
      let floor := if b.lock.sagLow then max b.lock.sagLevel.toNat 1 else 0
      (below 360 = false → ∃ b', Does (.vinSample dv droop false) b b' ∧ b'.lock.level = max b.lock.level (max n floor)
        ∧ b'.lock.vinDv = h.sum / h.length ∧ b'.lock.vinHist = h ∧ (b'.lock.level < 3 → b'.mem = b.mem))
      ∧ (below 360 = true → ∃ b', Does (.vinSample dv droop false) b b' ∧ b'.th.mainUp = false ∧ b'.mem.t1 = [] ∧ b'.mem.t2 = []
        ∧ b'.slots = []))
    ∧ (b.lock.level = 2 → vinBelow b.lock 450 = false → b.lock.sagLow = false →
        Does .weirFall b { b with lock := { b.lock with level := 1, cntL1 := b.lock.cntL1 + 1 } })
    ∧ (b.lock.level = 1 → vinBelow b.lock 470 = false → b.lock.droop = false → b.lock.sagLow = false →
        Does .weirFall b { b with lock := { b.lock with level := 0 } })
    ∧ (b.lock.level = 0 → triggered b.lock = 0 → b.lock.sagLevel = 2 → ∃ b', Does (.sagNEdge false) b b' ∧ b'.lock.level = 2 ∧ b'.lock.sagLow = true)
    ∧ (b.lock.level ≤ 2 → triggered b.lock < 5 → triggered b.lock ≤ b.lock.level →
        Does (.sagNEdge true) b { b with lock := { b.lock with sagLow := false } })
    ∧ (b.lock.level = 3 → vinBelow b.lock 400 = true → ∃ b', Does .weirLevel4Entry b b' ∧ b'.lock.level = 4 ∧ b'.th.stage = .degraded
        ∧ b'.mem = b.mem ∧ ∀ c t, isSystem c = true → ((b'.core c).thread t).st ≠ .ready)
    ∧ (b.lock.level = 4 → vinBelow b.lock 410 = false → Does .weirLevel4Exit b (postLost (warmReset 3 b)))

/-- The lengthsman and the spares: a calibration counts itself and shows the worst margin of a basin (R930, R931); COPY and DEAD
bind the logical slot to the spare and fence the old one, DEAD losing what the core held; a write while an operation runs is stored and starts none; TEST of a basin in no partition notes its
result; a basin with no spare left answers FENCED (R933–R939). -/
def Obligations.CalibrationAndSpares : Prop :=
  (∀ (b : Block) (x : CalSample), b.th.mainUp = true →
    (∃ b', Does (.calibrationPeriod x) b b' ∧ Does (.calNow x) b b' ∧ b'.lm.cals = b.lm.cals + 1 ∧ b'.lm.busy = false ∧ b'.mem.t1 = b.mem.t1)
    ∧ ∀ k ps path, k < 256 → path < 32 → x.margins = [{ basin := k, path := path, ps := ps, longest := true }] → ps < 256 →
        b.lm.targetPs.toNat ≤ ps → ∃ b', Does (.calNow x) b b' ∧ (b'.lmBasin k).minMargin.toNat = ps ∧ (b'.lmBasin k).worst.toNat = path)
  ∧ ∀ (b : Block) (bs p : Nat), bs < 256 → p < 17 →
      let y := b.basin bs
      (y.spareGo = true →
        Does (.copyCore bs p) b (b.modBasin bs fun x => { x with sparePslot := p, spareOp := 1 })
        ∧ Does (.deadCore bs p) b (b.modBasin bs fun x => { x with sparePslot := p, spareOp := 2 }))
      ∧ (y.spareGo = false → y.spare = 0x1F → ∃ b', Does (.copyCore bs p) b b' ∧ (b'.basin bs).spareResult = .fenced ∧ b'.cores = b.cores)
      ∧ (∀ c, y.spareGo = false → y.spare ≠ 0x1F → coreAt b bs p = some c →
          ((b.core c).regs.stopReq = true → coreAtRest b c = true → (∀ t ∈ (b.core c).threads, t.2.st = .stopped ∨ t.2.st = .free) →
            ∃ b', Does (.copyCore bs p) b b' ∧ (b'.basin bs).spareResult = .ok ∧ b'.pslot c = y.spare ∧ (b'.basin bs).spare = 0x1F
              ∧ (b'.basin bs).fencedSlots.getLsbD p = true ∧ b'.cores = b.cores)
          ∧ ∃ b', Does (.deadCore bs p) b b' ∧ (b'.basin bs).spareResult = .ok ∧ (b'.basin bs).spare = 0x1F
              ∧ (b'.basin bs).fencedSlots.getLsbD p = true ∧ (b'.core c).ctx = none ∧ (∀ a, (b'.core c).ts.byte a = 0)
              ∧ ∀ t, ((b'.core c).thread t).st = .free)
      ∧ (b.partOfBasin bs = none → ∀ pass, ∃ b', Does (.testCore bs p pass) b b'
          ∧ (b'.basin bs).spareResult = (if pass then .ok else .internal) ∧ (b'.basin bs).tested.getLsbD p = pass ∧ b'.cores = b.cores)
      ∧ (b.partOfBasin bs ≠ none → ∀ pass, ∃ b', Does (.testCore bs p pass) b b' ∧ (b'.basin bs).spareResult = .busy)

/-! ### The host interface: rings, completion and functions (R623–R630, R839–R861) -/

/-- Command rings and service queues: a write of TAIL up to a ring's size beyond HEAD is stored, one further sets ERR; an
enabled ring's next entry is fetched from BASE + 64 × (HEAD mod 2^SIZE_LOG2) and taken, and so is the entry at HEAD of a
service queue (R624, R625, R839–R842). -/
def Obligations.EntriesAreTakenInOrder : Prop :=
  (∀ (b : Block) (f : Nat) (c : BitVec 2) (v : U64), f < 64 → fwUp b = true → (b.func f).resetting = false →
    let r := (b.func f).cr c.toNat
    let tail := BitVec.ofNat 32 v.toNat
    ((tail - r.head).toNat ≤ 2 ^ r.size.toNat →
      Does (.hiCrTail f c v) b (b.modFunc f fun x => x.setCr c.toNat { x.cr c.toNat with tail := tail }))
    ∧ (2 ^ r.size.toNat < (tail - r.head).toNat →
      Does (.hiCrTail f c v) b (b.modFunc f fun x => x.setCr c.toNat { x.cr c.toNat with err := true })))
  ∧ (∀ (b b₁ : Block) (f : Nat) (c : BitVec 2) (bs : List Byte), f < 64 → fwUp b = true →
      let x := b.func f
      let r := x.cr c.toNat
      let p := Poster.ring f c.toNat r.head.toNat
      let op := fld bs 0 1
      let t : Taken := { poster := p, op := op, tag := BitVec.ofNat 32 (fld bs 4 4), started := false, outcome := none,
                         args := (List.range 6).map fun i => BitVec.ofNat 64 (fld bs (8 + 8 * i) 8) }
      r.en = true → r.err = false → x.frozen = false → x.resetting = false → x.tdi ≠ .error → b.host.fatal = false → r.head ≠ r.tail →
      hostRead f (r.base.toNat + 64 * (r.head.toNat % 2 ^ r.size.toNat)) 64 b = (.ok bs, b₁) →
      (opKnown p op = true → actorNamed p op = true → ∃ b', Does (.ringEntryTake f c) b b' ∧ b'.host.taken = b₁.host.taken ++ [t]
        ∧ b'.mem.host = b₁.mem.host ∧ b'.cores = b₁.cores)
      ∧ Does (.ringEntryTake f c) b
          (acceptEntry p bs (b₁.modFunc f fun x => x.setCr c.toNat { x.cr c.toNat with head := r.head + 1 })))
  ∧ ∀ (b b₁ b₂ : Block) (ctx : Nat) (x : Context) (hd bs : List Byte), ctx < 65536 → b.context ctx = some x →
      fwSee ctx svcQueue 16 b = (some hd, b₁) → fwUp b₁ = true → (b₁.func x.fn).frozen = false → fld hd 0 8 < fld hd 8 8 →
      (b₁.host.taken.any fun t => sameQueue t.poster (.service ctx 0)) = false →
      let ignored := ignoreBeyond (fld hd 0 8) (fld hd 8 8) x.svcIgnored
      (ignored.find? fun r => decide (r.1 ≤ fld hd 0 8) && decide (fld hd 0 8 < r.2)) = none →
      fwSee ctx (svcEntry (fld hd 0 8)) 64 (b₁.modContext ctx fun x => { x with svcIgnored := ignored }) = (some bs, b₂) →
        Does (.serviceQueuePoll ctx) b (acceptEntry (.service ctx (fld hd 0 8)) bs b₂)

/-- Completing a ring's entry takes it from the entries in work and writes RESULT at +0x38 and STATUS at +1 of the entry in
host memory; with the event ring of its number disabled no other byte of host memory changes. One that an entry taken before it
holds back, because both name an object, waits for that one (R626, R842, R844). -/
def Obligations.CompletionWritesTheEntryBack : Prop :=
  ∀ (b : Block) (f c n : Nat) (t : Taken) (st : Status) (result : Nat),
    b.host.taken.find? (fun x => x.poster == .ring f c n) = some t → t.poster = .ring f c n → b.mem.hostBad = [] →
    ((b.func f).er c).en = false → (∀ x ∈ b.host.taken, x.outcome = none) →
    let b' := complete (.ring f c n) st result b
    let before := b.host.taken.takeWhile fun x => x.poster != t.poster
    let a := ((b.func f).cr c).base.toNat + 64 * (n % 2 ^ ((b.func f).cr c).size.toNat)
    (before.any t.shares = false →
      (∀ x ∈ b'.host.taken, x.poster ≠ .ring f c n) ∧ b'.mem.host.read (a + 0x38) 8 = leBytes 8 result
      ∧ b'.mem.host.byte (a + 1) = BitVec.ofNat 8 st.code
      ∧ (∀ k, k ≠ a + 1 → (k < a + 0x38 ∨ a + 0x40 ≤ k) → b'.mem.host.byte k = b.mem.host.byte k)
      ∧ b'.mem.t1 = b.mem.t1 ∧ b'.mem.t2 = b.mem.t2 ∧ b'.cores = b.cores ∧ b'.slots = b.slots ∧ b'.contexts = b.contexts)
    ∧ (before.any t.shares = true → (b'.host.taken.map fun x => x.poster) = (b.host.taken.map fun x => x.poster) ∧ b'.mem = b.mem
      ∧ ∀ x ∈ b'.host.taken, x.poster = .ring f c n → x.outcome = some (st, result))

/-- The registers of the function page, interrupts, resets and the link's own requests: ring control with its size clamped and
its counts cleared when disabled, the event ring's HEAD, the moderation timer, an unmasked vector raised when pending, a function's
reset, the first configuration requests, invalidations, and a fatal error (R839, R841, R851–R861, R948). -/
def Obligations.FunctionPageEffects : Prop :=
  ∀ (b : Block) (f : Nat), f < 64 →
    (fwUp b = true → ∀ (c : BitVec 2) (v : U64),
      let n := v.toNat % 32
      let e := (b.func f).er c.toNat
      let head := BitVec.ofNat 32 v.toNat
      (v.getLsbD 5 = true → Does (.hiCrCtrl f c v) b (b.modFunc f fun x => x.setCr c.toNat
          { x.cr c.toNat with size := BitVec.ofNat 5 (if 6 ≤ n ∧ n ≤ 16 then n else 6), en := true }))
      ∧ (v.getLsbD 5 = false → Does (.hiCrCtrl f c v) b (b.modFunc f fun x => x.setCr c.toNat
          { x.cr c.toNat with size := BitVec.ofNat 5 (if 6 ≤ n ∧ n ≤ 16 then n else 6), en := false, err := false, head := 0, tail := 0 }))
      ∧ (v.getLsbD 5 = true → Does (.hiErCtrl f c v) b (b.modFunc f fun x => x.setEr c.toNat
          { x.er c.toNat with size := BitVec.ofNat 5 (if 8 ≤ n ∧ n ≤ 20 then n else 8), en := true, vec := BitVec.ofNat 5 (v.toNat / 64)
                              modCount := BitVec.ofNat 8 (v.toNat / 2 ^ 16), modUs := BitVec.ofNat 16 (v.toNat / 2 ^ 24) }))
      ∧ (v.getLsbD 5 = false → Does (.hiErCtrl f c v) b (b.modFunc f fun x => { x.setEr c.toNat
          { x.er c.toNat with size := BitVec.ofNat 5 (if 8 ≤ n ∧ n ≤ 20 then n else 8), en := false, vec := BitVec.ofNat 5 (v.toNat / 64)
                              modCount := BitVec.ofNat 8 (v.toNat / 2 ^ 16), modUs := BitVec.ofNat 16 (v.toNat / 2 ^ 24), head := 0, tail := 0
                              lost := 0, lostUnreported := 0, sinceIrq := 0 } with held := x.held.filter fun h => h.1 != c.toNat }))
      ∧ ((head - e.head).toNat ≤ (e.tail - e.head).toNat → Does (.hiErHead f c v) b
          (releaseHeld f c.toNat 257 (b.modFunc f fun x => x.setEr c.toNat { x.er c.toNat with head := head })))
      ∧ ((e.tail - e.head).toNat < (head - e.head).toNat → Does (.hiErHead f c v) b b))
    ∧ (∀ c : BitVec 2, let e := (b.func f).er c.toNat
      e.en = true → e.modUs ≠ 0 → 0 < e.sinceIrq → e.head ≠ e.tail → Does (.interruptModTimer f c) b
        (raiseVector f e.vec.toNat (b.modFunc f fun x => x.setEr c.toNat { x.er c.toNat with sinceIrq := 0 })))
    ∧ (fwUp b = true → ∀ v : BitVec 5, ∃ b', Does (.msixUnmask f v) b b' ∧ (b'.func f).vecMask.getLsbD v.toNat = false
        ∧ (b'.func f).vecPending.getLsbD v.toNat = false
        ∧ SMap.get 0 v.toNat (b'.func f).irqs = SMap.get 0 v.toNat (b.func f).irqs + (if (b.func f).vecPending.getLsbD v.toNat then 1 else 0)
        ∧ (∀ k, k ≠ f → b'.func k = b.func k) ∧ b'.mem = b.mem)
    ∧ (fwUp b = true → (f ≠ 0 → ∃ b', Does (.functionLevelReset f) b b' ∧ ∃ y : Func, b'.func f = { Func.init with
          bound := y.bound, irqs := y.irqs, tdi := y.tdi, offerSeed := y.offerSeed, cfgRetry := y.cfgRetry, cfgReply := y.cfgReply, vfBar0 := y.vfBar0, aer := y.aer })
        ∧ (f = 0 → ∃ b', Does (.functionLevelReset f) b b' ∧ b'.host.fatal = false))
    ∧ (b.th.mainUp = true → b.th.perstN = true →
        let answers := fun (yes : Bool) (b : Block) =>
          { b.modFunc f (fun x => { x with cfgRetry := !yes, cfgReply := if yes then configIds f else x.cfgReply }) with
            th := { b.th with cfgUp := yes } }
        (b.th.cfgUp = true ∨ b.th.perstAt + 12000000 ≤ b.gl.timebase.toNat → Does (.configRequest f) b (answers true b))
        ∧ (b.th.cfgUp = false → b.gl.timebase.toNat < b.th.perstAt + 12000000 →
            ∃ yes, Does (.configRequest f) b (answers yes (b.spent 1))))
    ∧ (∀ addr len, ∃ b', Does (.atsInvalidation f addr len) b b' ∧ b'.mem = b.mem ∧ ∀ e, e ∈ b'.host.ats ↔
        e ∈ b.host.ats ∧ ¬ (e.1 = f ∧ addr / 4096 ≤ e.2 ∧ e.2 * 4096 < addr + len))
    ∧ (let x := reportAer 0 .fatal b
       Does .pcieFatalError b { x with host := { x.host with fatal := true } } ∧ AerError.fatal ∈ (x.func 0).aer
         ∧ ∀ k, k ≠ 0 → x.func k = b.func k)

/-! ### The adapter service (R602–R673) -/

/-- The directory's operations, each where it completes with OK: AD_REGISTER of a new adapter, AD_PUBLISH, AD_REVOKE, AD_REMOVE,
AD_LOAD, AD_EXPORT, AD_QUERY by the host, and AD_MODE (R628–R639, R652–R658). -/
def Obligations.DirectoryOperations : Prop :=
  ∀ (b : Block) (p : Poster) (t : Taken),
    let f := posterFn b p
    (opReady b p 0x01 t → ∀ (r : HostRecord) (b₁ : Block) (bs i : Nat), readRecordAt f (t.arg 0) (t.arg 1 % 4096) b = (.ok r, b₁) →
      bindBase b₁ (hdrDigest r.header) = some bs → findAdapter b₁ (t.arg 1 % 4096) (BitVec.ofNat 64 (hdrId r.header)) = none →
      (let used := b₁.adapters.dir.map (·.1)
       let ok := fun (i : Nat) => !used.contains i && decide (i < 16777216)
       b₁.choice ok ((List.range (used.length + 1)).find? ok) = some i) →
      let v : VSlot := { VSlot.init with version := hdrVersion r.header, st := 1, hostRec := true, hostAddr := t.arg 0, pages := hdrPages r.header + 1 }
      let e : DirEntry := { id := BitVec.ofNat 64 (hdrId r.header), slot := t.arg 1 % 4096, st := 1, baseSlot := bs, cur := false,
                            static := false, trainable := false, lastUse := 0, vs0 := v, vs1 := .init, grace := [], revoker := none }
      Does (.adRegister p) b (complete p .ok i ((b₁.spent 1).modAd fun a => { a with dir := SMap.set i e a.dir })))
    ∧ (opReady b p 0x01 t → ∀ (r : HostRecord) (b₁ : Block) (i : Nat) (e : DirEntry), readRecordAt f (t.arg 0) (t.arg 1 % 4096) b = (.ok r, b₁) →
      bindBase b₁ (hdrDigest r.header) = some e.baseSlot → findAdapter b₁ (t.arg 1 % 4096) (BitVec.ofNat 64 (hdrId r.header)) = some (i, e) →
      entryBar e = none → (e.vs (!e.cur)).pins = 0 → (e.vs e.cur).version < hdrVersion r.header →
      Does (.adRegister p) b (complete p .ok i (flipTo i { VSlot.init with
        version := hdrVersion r.header, st := 1, hostRec := true, hostAddr := t.arg 0, pages := hdrPages r.header + 1 } b₁)))
    ∧ (∀ e, b.dirEntry (t.arg 0) = some e →
      (opReady b p 0x02 t → entryBar e = none → (e.vs (!e.cur)).pins = 0 → ∀ ctx n pages, p = .service ctx n →
        publishPages b ctx (t.arg 2) ((e.vs e.cur).pages - 1) e.slot = some pages → (e.vs e.cur).version < t.arg 1 % 2 ^ 32 →
          Does (.adPublish p) b (publish t ctx (t.arg 0) e pages b))
      ∧ (opReady b p 0x03 t → e.st ≠ 2 → e.st ≠ 3 →
          Does (.adRevoke p) b (settleService (startRevoke (t.arg 0) (some p) (markStarted p b))))
      ∧ (opReady b p 0x04 t → e.vs0.pins = 0 → e.vs1.pins = 0 → Does (.adRemove p) b (settleService (complete p .ok 0 (completeFor e.revoker .ok 0
          ((eraseImage e.vs1 (eraseImage e.vs0 b)).modAd fun a => { a with dir := SMap.del (t.arg 0) a.dir })))))
      ∧ (opReady b p 0x05 t → b.adapters.mode = true → entryBar e = none → t.arg 1 % 4 = 1 → ∀ b₁, bringT1 f (t.arg 0) e.cur b = .ok b₁ →
          Does (.adLoad p) b (complete p .ok 1 b₁))
      ∧ (opReady b p 0x05 t → b.adapters.mode = true → entryBar e = none → t.arg 1 % 4 = 2 → Does (.adLoad p) b (loadT2 t e b))
      ∧ (opReady b p 0x05 t → b.adapters.mode = false → entryBar e = none → t.arg 1 % 4 = 1 → Does (.adLoad p) b (loadStatic t e b))
      ∧ (opReady b p 0x06 t → ∀ h pages b₁ n b₂, let second := bitOf (t.arg 1) 0
          versionPages f e (e.vs second) b = (.ok (h, pages), b₁) → writeRecordAt f (t.arg 2) e.slot h pages b₁ = (.ok n, b₂) →
          Does (.adExport p) b (complete p .ok n (b₂.modEntry (t.arg 0) fun e => e.setVs second { e.vs second with hostRec := true, hostAddr := t.arg 2 }))))
    ∧ (opReady b p 0x07 t → ∀ g c n b₁, p = .ring g c n → hostPut g (t.arg 1) (queryRecord b (t.arg 0)) b = (.ok (), b₁) →
        Does (.adQuery p) b (complete p .ok 0 b₁))
    ∧ (opReady b p 0x07 t → ∀ ctx n, p = .service ctx n → queryBar b ctx (t.arg 1) = none →
        Does (.adQuery p) b (complete p .ok 0 (fwWrite ctx (t.arg 1) (queryRecord b (t.arg 0)) b)))
    ∧ (opReady b p 0x08 t → (t.arg 0 % 2 = 1 → Does (.adMode p) b (complete p .ok (b2n b.adapters.mode) (settleService (toDirectory b))))
        ∧ (t.arg 0 % 2 = 0 → (∀ e ∈ b.adapters.dir, e.2.vs0.pins = 0 ∧ e.2.vs1.pins = 0) →
            Does (.adMode p) b (complete p .ok (b2n b.adapters.mode) (toStatic b))))

/-- Requests and revocation: an admission that succeeds answers the version it pinned, one that must wait stands in the list of
requests; RQ_END ends a waiting or an active request, BOUNDARY_POLL those that set END, and the end of the grace period every
request of the entry (R640–R655). -/
def Obligations.RequestsBeginAndEnd : Prop :=
  ∀ (b : Block) (p : Poster) (t : Taken),
    (opReady b p 0x10 t → (b.context (admitCtx t)).isSome = true → t.arg 1 / 2 ^ 48 ≤ 4096 →
      (∀ r b₁, admitRequest (requestOf t) true b = .done r b₁ → Does (.rqAdmit p) b (complete p .ok r.version b₁))
      ∧ (admitRequest (requestOf t) true b = .waits → Does (.rqAdmit p) b (writeRequest (requestOf t) 0 (markStarted p
          (b.modAd fun a => { a with admitWaits := a.admitWaits + 1, reqs := a.reqs ++ [requestOf t] })))))
    ∧ (opReady b p 0x11 t → ∀ r, b.adapters.reqs.find? (fun r => r.ctx == t.arg 0 % 65536 && r.idx == bitsOf (t.arg 0) 32 16) = some r →
        Does (.rqEnd p) b (complete p .ok 0 (settleService (if r.st = 1 then endWaiting r .ok b else endFound r (orBoundary r 32 b)))))
    ∧ Does .boundaryPoll b (settleService (b.activeReqs.foldl (fun b r =>
        if bitOf (boundary r b).1 32 then endFound r (boundary r b).2 else (boundary r b).2) b))
    ∧ (∀ i e, i < 16777216 → b.dirEntry i = some e → e.st = 2 →
        let unread := (e.vs0.addrs ++ e.vs1.addrs).foldl (fun b va => changeLeaf 0xFFFF va (fun l => setBits l 4 1 0) b) b
        Does (.revokeGraceExpiry i) b (settleService (finishRevoke i
          ((unread.activeReqs.filter fun r => r.entry == some i).foldl (fun b r => endRevoked true r b) unread))))
    ∧ ∀ i e b₁, b₁ = finishRevoke i b → b.dirEntry i = some e → e.revoker = none → ∃ e', b₁.dirEntry i = some e' ∧ e'.st = 3 ∧ e'.vs0 = .init ∧ e'.vs1 = .init

/-- The base slots and the reservoirs, each operation where it completes with OK (R659–R673, R1015). -/
def Obligations.BasesAndReservoirs : Prop :=
  ∀ (b : Block) (p : Poster) (t : Taken),
    let f := posterFn b p
    (opReady b p 0x18 t → ∀ slot bytes set b₁ k b₃, [0, 1].find? (fun n => decide ((b.baseSlot n).st = 0)) = some slot → t.arg 1 ≤ 2 ^ 41 →
      baseImage f (t.arg 0) (t.arg 1) b = (.ok (bytes, set), b₁) → freeSlot b₁ = some k →
      let key := Config.drbg b₁.attest.drbgCtr
      let b₂ := (installSecret k key ({ b₁ with attest := { b₁.attest with drbgCtr := b₁.attest.drbgCtr + 1 } }.spent 1)).modSlot k
        fun x => { x with set := set }
      let n := ceilDiv bytes.length 65536
      createPages 0xFFFF true false false false k (cutPages n (baseVa slot) bytes) (ensureWindows b₂) = some b₃ →
        Does (.baseLoad p) b (complete p .ok slot (b₃.modBase slot fun _ => { st := 2, digest := sha384 bytes, keySlot := k, pages := n })))
    ∧ (opReady b p 0x19 t → ∀ slot, [0, 1].find? (fun n => decide ((b.baseSlot n).st = 2)) = some slot →
        Does (.baseSwitch p) b (complete p .ok slot ((b.modAd fun a =>
          { a with bases := a.bases.map fun x => if x.st = 3 then { x with st := 4 } else x }).modBase slot fun x => { x with st := 3 })))
    ∧ (opReady b p 0x1A t → t.arg 0 < 2 → (b.baseSlot (t.arg 0)).st = 2 ∨ (b.baseSlot (t.arg 0)).st = 4 →
        let slot := t.arg 0
        let b₁ := b.modBase slot fun x => { x with st := 5 }
        let bound := fun (e : DirEntry) => e.baseSlot == slot && e.st == 1
        let waits := b₁.waitingReqs.filter fun r => match findAdapter b₁ r.keySlot r.adapter with
          | some (_, e) => bound e
          | none => false
        let b₂ := b₁.modAd fun a => { a with dir := a.dir.map fun p => (p.1, if bound p.2 then { p.2 with st := 4 } else p.2) }
        Does (.baseRetire p) b (complete p .ok 0 (settleService (settleBase slot (waits.foldl (fun b r => endWaiting r .baseMismatch b) b₂)))))
    ∧ (opReady b p 0x20 t → 1 ≤ t.arg 1 → t.arg 1 ≤ 1048576 → b.reservoir (t.arg 0 % 4096) = none →
        Does (.resCreate p) b (complete p .ok 0 (b.modAd fun a => { a with reservoirs := a.reservoirs ++
          [({ keySlot := t.arg 0 % 4096, fullPolicy := bitOf (t.arg 0) 12, limit := t.arg 1, serial := 0, pages := [] } : Reservoir)] })))
    ∧ (opReady b p 0x21 t → ∀ ctx k g pages r b₁, p = .service ctx k → t.arg 0 % 65536 = 0 → t.arg 0 + 65536 * t.arg 1 < 2 ^ 48 → t.arg 1 ≠ 0 →
        capturePages ctx (t.arg 0) (t.arg 1) b = (.ok (g :: pages), b₁) → b₁.reservoir (leafSlot g.1.l) = some r →
          Does (.resAppend p) b (appendTo t ctx (t.arg 0) (g :: pages) r b₁))
    ∧ (opReady b p 0x22 t → ∀ ctx k r b₁, p = .service ctx k → reservoirOf b ctx = some r →
        let n := min (t.arg 1) r.pages.length
        n ≠ 0 → takeSpace b ctx (t.arg 0) n = true →
        createPages ctx true true false false r.keySlot ((pageRun (t.arg 0) n).zip ((r.pages.take n).map fun p => Mem.read p.2 0 65536))
          (b.setReservoir { r with pages := r.pages.drop n }) = some b₁ → Does (.resTake p) b (complete p .ok n b₁))
    ∧ (opReady b p 0x23 t → ∀ r, b.reservoir (t.arg 0 % 4096) = some r →
        Does (.resClear p) b (complete p .ok r.pages.length (b.setReservoir { r with pages := [] })))

/-! ### Key slots, partitions and contexts (R43–R53, R165–R172, R845–R848) -/

/-- The host's operations on key slots, partitions, functions, groups and contexts, each where it completes with OK. -/
def Obligations.PartitionsAndContexts : Prop :=
  ∀ (b : Block) (p : Poster) (t : Taken),
    let f := posterFn b p
    (opReady b p 0x30 t → b.attest.identityOk = true → t.arg 2 % 2 = 0 → ∀ k, freeSlot b = some k →
      Does (.slotReserve p) b (complete p .ok k ((b.setSlot k { KeySlot.init with
        st := .reserved, party := BitVec.ofNat 128 (t.arg 0 + t.arg 1 * 2 ^ 64), holder := some f }).spent 1)))
    ∧ (opReady b p 0x30 t → b.attest.identityOk = true → t.arg 2 % 2 = 1 → ∀ k, freeSlot b = some k →
      ∃ b₁, Does (.slotReserve p) b (complete p .ok k b₁) ∧ (b₁.slot k).st = .active ∧ (b₁.slot k).epoch = 0
        ∧ (b₁.slot k).party = BitVec.ofNat 128 (t.arg 0 + t.arg 1 * 2 ^ 64) ∧ (b₁.slot k).cur = some (newSecret b (Config.drbg b.attest.drbgCtr)))
    ∧ (opReady b p 0x38 t →
        let ok := fun (n : Nat) => decide (n < 64) && (SMap.find n b.parts).isNone
        let n := t.arg 0 % 512
        ∀ q, b.choice ok ((List.range 64).find? ok) = some q → 1 ≤ n → n ≤ 256 → n ≤ (freeBasins b).length →
          ∃ b₁, Does (.partCreate p) b (complete p .ok q b₁) ∧ SMap.find q b₁.parts = some
            { basins := (b.spent 1).chooseMany n (freeBasins b), t1Quota := t.arg 1 % 65536, t2Quota := t.arg 1 / 65536 % 65536
              lookahead := BitVec.ofNat 8 (teCtrlOf b q), lookaheadAct := BitVec.ofNat 8 (teCtrlOf b q), schedEn := bitOf (teCtrlOf b q) 8 }
            ∧ (∀ k, k ≠ q → SMap.find k b₁.parts = SMap.find k b.parts) ∧ b₁.cores = b.cores ∧ b₁.mem = b.mem)
    ∧ (opReady b p 0x39 t → (SMap.find (t.arg 0 % 64) b.parts).isSome = true → (b.host.fns.any fun f => f.2.bound == some (t.arg 0 % 64)) = false →
        (b.contexts.any fun c => c.2.part == t.arg 0 % 64) = false →
          Does (.partDestroy p) b (complete p .ok 0 { b with parts := SMap.del (t.arg 0 % 64) b.parts }))
    ∧ (opReady b p 0x3A t → (b.contexts.any fun c => c.2.fn == t.arg 0 % 64) = false → ∀ x, SMap.find (t.arg 0 / 256 % 64) b.parts = some x →
        t.arg 0 % 64 = 0 ∨ x.basins.length ≤ 240 →
          Does (.fnBind p) b (complete p .ok 0 (b.modFunc (t.arg 0 % 64) fun y => { y with bound := some (t.arg 0 / 256 % 64) })))
    ∧ (opReady b p 0x3B t →
        let g := bitsOf (t.arg 0) 0 4
        let rank := bitsOf (t.arg 0) 4 12
        let members := bitsOf (t.arg 0) 16 13
        let rings := bitsOf (t.arg 0) 29 3
        let part := ((b.func f).bound).getD (b.group g).part
        let epoch := t.arg 1 % 2 ^ 32
        f = 0 ∨ (b.group g).en = false ∨ (b.group g).part = part → 1 ≤ members → members ≤ 4096 → rank < members → 1 ≤ rings → rings ≤ 6 →
        (b.group g).epoch.toNat < epoch → ∀ bs b₁, hostRead f (t.arg 2) (2 * members) b = (.ok bs, b₁) →
        let ids := (List.range members).map fun i => fld bs (2 * i) 2
        (∀ m ∈ ids, m < 4096) → ids[rank]? = some b₁.kreash.moduleId.toNat → ids.eraseDups.length = members →
          Does (.grpSet p) b (complete p .ok 0 (newEpoch g (BitVec.ofNat 32 epoch) (b₁.modGroup g fun x =>
            { x with en := true, rank := rank, members := members, rings := rings, part := part, devices := ids }))))
    ∧ (opReady b p 0x40 t →
        let slot := t.arg 0 % 4096
        let mixing := bitOf (t.arg 0) 12
        let n := bitsOf (t.arg 0) 16 13
        let part := if f = 0 then t.arg 5 % 64 else ((b.func f).bound).getD 64
        let party := BitVec.ofNat 128 (t.arg 2 + t.arg 3 * 2 ^ 64)
        ∀ q ctx, SMap.find part b.parts = some q → (b.slot slot).st = .active → (b.slot slot).party = party → 1 ≤ n → n ≤ 4096 →
        mixing = true ∨ foreignParty b part party = false → freeContext b = some ctx → n ≤ (freeCores b q).length →
        let cores := (b.spent 1).chooseMany n (freeCores b q)
        let (root, b₁) := newRoot (b.spent (1 + n))
        let x : Context := { mixing := mixing, part := part, fn := f, party := party, slots := [slot], baseRead := [], ptRoot := root, direct := false,
                             seed := BitVec.ofNat 64 (t.arg 1), cores := cores, nextImage := 0x1000_0000, sched := [], runs := [], layer := 0,
                             cursor := 0, round := 0, tickOffset := 0, svcIgnored := [] }
        ∀ b₂, createPages ctx true true false true slot ((pageRun 0xC400_0000_0000 129).map fun va => (va, ([] : List Byte)))
            { b₁ with contexts := SMap.set ctx x b₁.contexts } = some b₂ →
          Does (.ctxCreate p) b (complete p .ok ctx (bindCores ctx cores b₂)))
    ∧ (opReady b p 0x41 t → ∀ c h b₁ o b₂ args b₃, b.context (t.arg 0 % 65536) = some c → t.arg 3 % 2 ^ 17 ≤ 65536 →
        hostRead f (t.arg 1) 64 b = (.ok h, b₁) → 64 ≤ fld h 0x10 8 → fld h 0x10 8 ≤ 2 ^ 40 → hostRead f (t.arg 1) (fld h 0x10 8) b₁ = (.ok o, b₂) →
        (if t.arg 3 % 2 ^ 17 = 0 then (.ok [], b₂) else hostRead f (t.arg 2) (t.arg 3 % 2 ^ 17) b₂) = (.ok args, b₃) →
          Does (.ctxLoad p) b (loadObject t (t.arg 0 % 65536) c o args b₃))
    ∧ (opReady b p 0x42 t → ∀ c, b.context (t.arg 0) = some c → c.mixing = true → (b.slot (t.arg 1 % 4096)).st = .active →
        Does (.ctxAddslot p) b (complete p .ok 0 (b.modContext (t.arg 0) fun c =>
          { c with slots := if c.slots.contains (t.arg 1 % 4096) then c.slots else c.slots ++ [t.arg 1 % 4096] })))
    ∧ (opReady b p 0x43 t → (b.context (t.arg 0)).isSome = true → Does (.ctxEnd p) b (complete p .ok 0 (endContext (t.arg 0) b)))

/-! ### Migration (R862–R872) -/

/-- The operations of a migration, each where it completes with OK on virtual function `v`, and where a stream is refused: its
offer is spent whatever comes of it (R862–R871; what a record other than PAGE holds is opaque, assumption 56). -/
def Obligations.MigrationOperations : Prop :=
  ∀ (b : Block) (p : Poster) (t : Taken) (v : Nat), migFn t = some v → b.attest.identityOk = true →
    let f := posterFn b p
    let x := b.func v
    (opReady b p 0x50 t → ∀ b₁,
      let seed := (drawSecret b).1
      let offer := [0x48#8, 0x4D#8, 0x4F#8, 0x46#8] ++ leBytes 2 1 ++ partNumber ++ leBytes 4 b.attest.fwVersion.toNat ++ deviceId
        ++ Config.kemKeygen seed ++ Config.certChain 0 ++ Config.certChain 1
      let signed := offer ++ rsaSig offer ++ slhSig offer
      hostPut f (t.arg 1) signed (drawSecret b).2 = (.ok (), b₁) →
        Does (.migOffer p) b (complete p .ok signed.length (b₁.modFunc v fun x => { x with offerSeed := some seed })))
    ∧ (opReady b p 0x51 t → ∀ id ek n bs b₁ b₂, readOffer b (Mem.read b.mem.host (t.arg 1) 0x20_0000) = some (id, ek, n) →
        hostRead f (t.arg 1) n b = (.ok bs, b₁) →
        let made := Config.kemEncaps ek b₁.attest.drbgCtr
        let capsule := [0x48#8, 0x4D#8, 0x43#8, 0x50#8] ++ deviceId ++ id ++ made.1
        let signed := capsule ++ rsaSig capsule ++ slhSig capsule
        hostPut f (t.arg 2) signed (b₁.modAttest fun a => { a with drbgCtr := a.drbgCtr + 1 }) = (.ok (), b₂) →
          Does (.migKey p) b (complete p .ok signed.length (b₂.modFunc v fun x =>
            { x with migKey := some (hkdf (deviceId ++ id) made.2 (ascii "hts mig") 32), migSeq := 0, migCt := [], saved := [] })))
    ∧ (opReady b p 0x52 t → Does (.migDirty p) b (complete p .ok 0 (b.modFunc v fun x =>
        { x with dirtyLog := bitOf (t.arg 1) 0, saved := if bitOf (t.arg 1) 0 && !x.dirtyLog then [] else x.saved })))
    ∧ (opReady b p 0x53 t → ((b.teardowns.any fun y => (slotsOfFn b v).contains y.slot) = true → Does (.migFreeze p) b b)
        ∧ ((b.teardowns.any fun y => (slotsOfFn b v).contains y.slot) = false → Does (.migFreeze p) b
            (freezeOn v t (markStarted p (b.modFunc v fun x =>
              { x with frozen := true, frozenThreads := [], frozenUnits := [], frozenGroups := [] })))))
    ∧ (posterOk p = true → b.host.taken.find? (fun y => y.poster == p) = some t → t.started = true → t.op = 0x53 → fwUp b = true →
        Does (.migFreeze p) b (freezeOn v t b))
    ∧ (opReady b p 0x54 t → x.migKey.isSome = true → t.arg 2 % 65536 = 0 → 0x10_0000 ≤ t.arg 2 → ∀ done more b₁,
        writeRecs v (t.arg 1) (if x.frozen then finalRecs b v else if x.dirtyLog then pageRecs b v else []) (t.arg 2) 0 b = (.ok (done, more), b₁) →
          Does (.migSave p) b (complete p .ok (done % 2 ^ 32 + if more then 2 ^ 32 else 0) b₁))
    ∧ (opReady b p 0x55 t → x.frozen = true → x.migRestored = false → Does (.migThaw p) b (complete p .ok 0 (thaw v b)))
    ∧ (opReady b p 0x56 t → ∃ b₁, Does (.migDiscard p) b (complete p .ok 0 b₁) ∧ (∀ k ∈ slotsOfFn b v, b₁.slot k = .init)
        ∧ (b₁.func v).frozen = false ∧ (b₁.func v).migKey = none
        ∧ (∀ e ∈ b₁.adapters.dir, e.2.slot ∉ slotsOfFn b v))
    ∧ (opReady b p 0x57 t → ∀ seed part c b₁ bs b₂, x.offerSeed = some seed → x.bound = some part →
        hostRead f (t.arg 1) (4 + 96 + 1568 + 384 + 16224) (b.modFunc v fun x => { x with offerSeed := none }) = (.ok c, b₁) →
        hostRead f (t.arg 2) (t.arg 3) b₁ = (.ok bs, b₂) →
        let src := (c.drop 4).take 48
        let key := migKeyOf src deviceId (Config.kemDecaps seed ((c.drop 100).take 1568))
        let stream := openStream key (bs.length / 80 + 1) 0 [] bs
        (c.take 4 ≠ [0x48#8, 0x4D#8, 0x43#8, 0x50#8] ∨ (c.drop 52).take 48 ≠ deviceId → Does (.migRestore p) b (fail t .permFault b₂))
        ∧ (c.take 4 = [0x48#8, 0x4D#8, 0x43#8, 0x50#8] → (c.drop 52).take 48 = deviceId →
          (stream = none → Does (.migRestore p) b (fail t .internal b₂))
          ∧ ∀ rs crs ers n ticks reqs taken ch bases ks b₃, stream = some rs →
            (rs.find? fun r => r.type == 1).bind OpenRec.item = some (.function crs ers n ticks reqs taken ch bases) →
            Config.chainKeys ch.1 ch.2 = some ks → sha384 (ks.1 ++ ks.2) = src →
            signedBy ks (c.take 1668) ((c.drop 1668).take 384) ((c.drop 2052).take 16224) = true → applyStream v part rs b₂ = some b₃ →
              Does (.migRestore p) b (complete p .ok 0 (b₃.modFunc v fun x =>
                { x with frozen := true, migRestored := true, frozenThreads := fnThreads b₃ v
                         frozenUnits := (fnBasins b₃ v).flatMap fun k => (4096 + k) :: (List.range 16).map fun i => k * 16 + i }))))
    ∧ (opReady b p 0x58 t → x.migRestored = true → Does (.migStart p) b (complete p .ok 0 (thaw v b)))

/-! ### Key slots and teardown (R793–R813) -/

/-- Key commands: each moves its slot as R801's table says, and leaves its status (R801, R802, R811–R813, R819). -/
def Obligations.KeyCommandsMoveTheirSlots : Prop :=
  ∀ (b : Block) (k : Nat), k < 4096 →
    let ends := fun (i : Instr) (st : Status) (b₁ : Block) => Does i b { b₁ with attest := { b₁.attest with keyStatus := st } }
    let x := b.slot k
    (b.attest.identityOk = false → ∀ (w : KeyIssuer) (party : U128) (secret : BitVec 256) (r : List Byte),
      ends (.keyReserve k party) .internal b ∧ ends (.keyInstall w k secret) .internal b ∧ ends (.keyRotate w k secret) .internal b
      ∧ ends (.keyRevoke w k) .internal b ∧ ends (.keyZeroize w k) .internal b ∧ ends (.keyFree w k) .internal b ∧ ends (.setBind w k r) .internal b)
    ∧ (b.attest.identityOk = true →
      (∀ (party : U128) (secret : BitVec 256) (r : List Byte), party ≠ x.party →
        let w := KeyIssuer.party party
        ends (.keyInstall w k secret) .permFault b ∧ ends (.keyRotate w k secret) .permFault b ∧ ends (.keyRevoke w k) .permFault b
        ∧ ends (.keyZeroize w k) .permFault b ∧ ends (.keyFree w k) .permFault b ∧ ends (.setBind w k r) .permFault b)
      ∧ (∀ party, (x.st = .free → ends (.keyReserve k party) .ok (b.setSlot k { KeySlot.init with st := .reserved, party := party }))
          ∧ (x.st ≠ .free → ends (.keyReserve k party) .busy b))
      ∧ (∀ secret, (x.st = .reserved → ends (.keyInstall (.party x.party) k secret) .ok (b.modSlot k fun y =>
            { y with st := .active, epoch := 0, cur := some (newSecret b secret), prev := none, zeroized := false }))
          ∧ (x.st = .reserved → ends (.keyInstall (.fw true) k secret) .ok (installSecret k (drawSecret b).1 (drawSecret b).2))
          ∧ (∀ w, (w = .party x.party ∨ isFw w = true) → x.st ≠ .reserved ∨ w = .fw false → ends (.keyInstall w k secret) .busy b))
      ∧ (∀ secret, (x.st = .active → ends (.keyRotate (.party x.party) k secret) .ok (rotate k secret b))
          ∧ (∀ fw, x.st = .active → ends (.keyRotate (.fw fw) k secret) .ok (rotate k (drawSecret b).1 (drawSecret b).2))
          ∧ (∀ w, (w = .party x.party ∨ isFw w = true) → x.st ≠ .active → ends (.keyRotate w k secret) .busy b))
      ∧ ends (.keyRevoke (.party x.party) k) .busy b ∧ ends (.keyZeroize (.party x.party) k) .busy b ∧ ends (.keyFree (.party x.party) k) .busy b
      ∧ (∀ fw, (x.st = .revoked → ends (.keyZeroize (.fw fw) k) .ok (b.modSlot k fun y => { y with cur := none, prev := none, zeroized := true }))
          ∧ (x.st ≠ .revoked → ends (.keyZeroize (.fw fw) k) .busy b)
          ∧ (x.st = .revoked → x.zeroized = true → slotMapped b k = false → ends (.keyFree (.fw fw) k) .ok (b.setSlot k .init))
          ∧ (x.st ≠ .revoked ∨ x.zeroized = false ∨ slotMapped b k = true → ends (.keyFree (.fw fw) k) .busy b)
          ∧ (revocable b k = true → ends (.keyRevoke (.fw fw) k) .ok (startTeardown k none none b))
          ∧ (revocable b k = false → ends (.keyRevoke (.fw fw) k) .busy b))
      ∧ (∀ (w : KeyIssuer) (r e key : List Byte), w = .party x.party ∨ isFw w = true → (b.teardowns.any fun y => y.slot == k) = false →
          x.usable = true → (setRecordOk b r = false → ends (.setBind w k r) .permFault b)
          ∧ (setRecordOk b r = true → memberEntry r = some e → setKeyOf ((r.drop 0x10).take 16) e = some key →
              let id := BitVec.ofNat 128 (fld r 0x10 16)
              let sets := b.attest.sets.filter (fun (y : DeviceSet) => y.id != id)
                ++ [{ id := id, version := fld r 8 4, ownerRsa := (r.drop 0x20).take 388, ownerSlh := (r.drop 0x1A4).take 48, key := key }]
              ends (.setBind w k r) .ok ((b.modAttest fun a => { a with sets := sets }).modSlot k fun y => { y with set := some id })))
      ∧ (∀ (w : KeyIssuer) r, w = .party x.party ∨ isFw w = true →
          ((b.teardowns.any fun y => y.slot == k) = true → ends (.setBind w k r) .busy b)
          ∧ ((b.teardowns.any fun y => y.slot == k) = false → x.usable = false → ends (.setBind w k r) .permFault b)))

/-- Rotation: the slot is ROTATING, or at once ACTIVE when no page or access is at the old epoch; the epoch counts up by one modulo 4,
the old secret is the previous one and the new one current; no page table, page or other slot changes (R801, R802, R804). -/
def Obligations.RotationKeepsTheOldEpoch : Prop :=
  ∀ (b : Block) (k : Nat) (key : BitVec 256),
    let x := b.slot k
    let y := (rotate k key b).slot k
    y.party = x.party ∧ y.epoch = x.epoch + 1 ∧ y.cur = some (newSecret b key)
    ∧ (y.st = .rotating ∧ y.prev = x.cur ∨ y.st = .active ∧ y.oldPages = 0 ∧ y.oldInflight = 0)
    ∧ (∀ j, j ≠ k → (rotate k key b).slot j = b.slot j) ∧ (rotate k key b).mem = b.mem ∧ (rotate k key b).contexts = b.contexts

/-- Teardown: KEY_REVOKE and SLOT_TEARDOWN start it; a revocation record of a peer does so for every slot with its tag, and is
acknowledged; an acknowledgement, or its time limit, takes the peer from those it waits for (R805–R810). -/
def Obligations.TeardownsRunToTheirEnd : Prop :=
  ∀ b : Block,
    (∀ p t, let k := t.arg 0 % 4096
      opReady b p 0x31 t → b.attest.identityOk = true →
        (b.teardowns = [] → revocable b k = true → Does (.slotTeardown p) b (startTeardown k (some p) none (markStarted p b)))
        ∧ (b.teardowns ≠ [] ∨ revocable b k = false → Does (.slotTeardown p) b (complete p .busy 0 b)))
    ∧ (∀ src, src < 4096 →
      (∀ bs b₁, takeRevocation src 1 b = (some bs, b₁) →
        let ks := slotsWithTag b₁ ((bs.drop 0x18).take 16)
        let epoch := match ks with
          | k :: _ => (b₁.slot k).epoch.toNat
          | [] => fld bs 5 1 % 4
        Does (.revokeRecordRx src) b (sendRecord
          { dst := src, vs := 0, link := none, bytes := revokeRecord 2 epoch (BitVec.ofNat 128 (fld bs 8 16)) ((bs.drop 0x18).take 16) }
          (ks.foldl (fun b k => if revocable b k then startTeardown k none none b else b) b₁)))
      ∧ (∀ b₁, takeRevocation src 1 b = (none, b₁) → Does (.revokeRecordRx src) b b₁)
      ∧ (∀ bs b₁, takeRevocation src 2 b = (some bs, b₁) → Does (.revokeAckRx src) b
          ((slotsWithTag b₁ ((bs.drop 0x18).take 16)).foldl (fun b k => peerDone k src b) b₁))
      ∧ ∀ b₁, takeRevocation src 2 b = (none, b₁) → Does (.revokeAckRx src) b b₁)
    ∧ (∀ k peer, k < 4096 → peer < 4096 →
      ((b.teardowns.any fun t => t.slot == k && t.peers.contains peer) = true → Does (.teardownAckTimeout k peer) b
        (peerDone k peer ((List.range 16).foldl (fun b g => removeMember g peer b) b)))
      ∧ ((b.teardowns.any fun t => t.slot == k && t.peers.contains peer) = false → Does (.teardownAckTimeout k peer) b b))
    ∧ ∀ t : Teardown, let b' := finishTeardown t b
      (b'.slot t.slot).st = .free ∧ (b'.slot t.slot).cur = none ∧ (b'.slot t.slot).prev = none ∧ ∀ y ∈ b'.teardowns, y.slot ≠ t.slot

/-! ### Attestation (R818–R826, R832) -/

/-- The SPDM responder: nothing while the rail is down, ERROR Unspecified without an identity, ERROR UnsupportedRequest for a
version that is not supported, and what each request of R820 to R825 answers otherwise (R818–R825, R830; numbers: assumption 48). -/
def Obligations.AttestationAnswers : Prop :=
  ∀ (b : Block) (c : Conn) (v index op : Byte) (o : AlgoOffer) (slot off len handle seq session : Nat) (last sign : Bool)
    (nonce bs : List Byte) (kem : Option (List Byte)) (mask : U32) (party : U128) (key : List Byte),
    let tells := fun (i : Instr) (r : SpdmResponse) => Does i b (respond c r b)
    let plain : Byte → List Instr := fun v => [.getCapabilities c v, .negotiateAlgorithms c v o, .getDigests c v, .getCertificate c v slot off len,
      .challenge c v slot nonce, .getMeasurements c v index sign nonce, .keyExchange c v bs kem, .finishMsg c v session bs,
      .heartbeat c v session, .keyUpdate c v session op, .endSession c v session, .chunkSend c v handle seq last bs, .chunkGet c v handle seq]
    let own : List Instr := [.hkPqsig c, .hkReport c nonce mask, .hkKemkey c, .hkKemek c bs, .hkKemct c session,
      .hkKeyop c (some session) party op slot bs]
    (b.th.railUp = false → ∀ i ∈ .getVersion c v :: plain v ++ own, Does i b b)
    ∧ (b.th.railUp = true → b.attest.identityOk = false → ∀ i ∈ .getVersion c v :: plain v ++ own, tells i (.error 0x05))
    ∧ (b.th.railUp = true → b.attest.identityOk = true →
      (v ≠ 0x13 → ∀ i ∈ plain v, tells i (.error 0x07))
      ∧ (v = 0x13 ∨ v = 0x10 → tells (.getVersion c v) .version) ∧ (v ≠ 0x13 → v ≠ 0x10 → tells (.getVersion c v) (.error 0x07))
      ∧ tells (.getCapabilities c 0x13) .capabilities
      ∧ (o = ⟨true, true, true, true, true⟩ → tells (.negotiateAlgorithms c 0x13 o) .algorithms)
      ∧ (o ≠ ⟨true, true, true, true, true⟩ → tells (.negotiateAlgorithms c 0x13 o) (.error 0x07))
      ∧ tells (.getDigests c 0x13) (.digests [sha384 (Config.certChain 0), sha384 (Config.certChain 1)])
      ∧ (let chain := Config.certChain slot
         let part := (chain.drop off).take len
         (slot < 2 → off < chain.length → tells (.getCertificate c 0x13 slot off len) (.certificate part (chain.length - off - part.length)))
         ∧ (2 ≤ slot ∨ chain.length ≤ off → tells (.getCertificate c 0x13 slot off len) (.error 0x01)))
      ∧ (let msg := leBytes 1 0x03 ++ leBytes 1 slot ++ nonce ++ sha384 (Config.certChain slot)
         (slot < 2 → nonce.length = 32 → Does (.challenge c 0x13 slot nonce) b
           (respondSigned c (.challengeAuth msg (Config.rsaSign Config.deviceSecret msg)) msg b))
         ∧ (2 ≤ slot ∨ nonce.length ≠ 32 → tells (.challenge c 0x13 slot nonce) (.error 0x01)))
      ∧ (let blocks := if index = 0 then leBytes 1 6 else if index = 255 then [1, 2, 3, 4, 5, 6].flatMap (measBlock b) else measBlock b index.toNat
         let msg := leBytes 1 0x60 ++ index :: nonce ++ blocks
         (index.toNat ≤ 6 ∨ index = 255 →
           tells (.getMeasurements c 0x13 index false nonce) (.measurements blocks none)
           ∧ (nonce.length = 32 → Does (.getMeasurements c 0x13 index true nonce) b
               (respondSigned c (.measurements blocks (some (Config.rsaSign Config.deviceSecret msg))) msg b)))
         ∧ (nonce.length ≠ 32 → tells (.getMeasurements c 0x13 index true nonce) (.error 0x01))
         ∧ (6 < index.toNat → index ≠ 255 → tells (.getMeasurements c 0x13 index sign nonce) (.error 0x01)))
      ∧ (∀ answer z, (b.conn c).kemKey = some key → kem = some (sha384 key) → b.attest.sessions.length < 8 →
          Config.dhe bs b.attest.drbgCtr = some (answer, z) →
          let e := Config.kemEncaps key (b.attest.drbgCtr + 1)
          let id := b.attest.sessionNext
          Does (.keyExchange c 0x13 bs kem) b (respondSigned c (.keyExchange id answer (sha384 e.1))
            (leBytes 1 0x64 ++ leBytes 4 id ++ bs ++ answer ++ sha384 e.1) (b.modAttest fun a =>
              { a with sessions := a.sessions ++ [{ id := id, conn := c, secret := z ++ e.2, kemCt := e.1, finished := false }]
                       sessionNext := id + 1, drbgCtr := a.drbgCtr + 2 })))
      ∧ ((b.conn c).kemKey = none ∨ ((b.conn c).kemKey = some key ∧ kem ≠ some (sha384 key)) → tells (.keyExchange c 0x13 bs kem) (.error 0x01))
      ∧ ((b.conn c).kemKey = some key → kem = some (sha384 key) → 8 ≤ b.attest.sessions.length → tells (.keyExchange c 0x13 bs kem) (.error 0x03))
      ∧ (b.session c session = none → tells (.finishMsg c 0x13 session bs) (.error 0x04) ∧ tells (.hkKemct c session) (.error 0x04))
      ∧ (∀ x, b.session c session = some x → x.finished = false →
          (bs = Config.finishVerify x.secret x.id → Does (.finishMsg c 0x13 session bs) b
            (respond c .finish (modSession session (fun x => { x with finished := true }) b)))
          ∧ (bs ≠ Config.finishVerify x.secret x.id → tells (.finishMsg c 0x13 session bs) (.error 0x06))
          ∧ Does (.hkKemct c session) b (respondVendor c x.kemCt b))
      ∧ (b.secured c session = true → tells (.heartbeat c 0x13 session) .heartbeat
          ∧ (1 ≤ op.toNat → op.toNat ≤ 3 → tells (.keyUpdate c 0x13 session op) .keyUpdate)
          ∧ (op = 0 ∨ 3 < op.toNat → tells (.keyUpdate c 0x13 session op) (.error 0x01))
          ∧ Does (.endSession c 0x13 session) b (respond c .endSession (b.modAttest fun a =>
              { a with sessions := a.sessions.filter fun x => x.id != session }))
          ∧ (let r := partyCommand party op.toNat slot bs b
             Does (.hkKeyop c (some session) party op slot bs) b
              (respondVendor c (leBytes 1 r.1.code) { r.2 with attest := { r.2.attest with keyStatus := r.1 } }))
          ∧ tells (.finishMsg c 0x13 session bs) (.error 0x04) ∧ tells (.hkKemct c session) (.error 0x04))
      ∧ (b.secured c session = false → ∀ i ∈ ([.heartbeat c 0x13 session, .keyUpdate c 0x13 session op, .endSession c 0x13 session,
          .hkKeyop c (some session) party op slot bs] : List Instr), tells i (.error 0x04))
      ∧ tells (.hkKeyop c none party op slot bs) (.error 0x04)
      ∧ (Does (.chunkSend c 0x13 handle 0 last bs) b (respond c .chunkAck (b.modConn c fun x =>
          { x with chunkIn := bs, chunkSeq := if last then 0 else handle * 65536 + 1 })))
      ∧ (0 < seq → seq < 65536 → (b.conn c).chunkSeq = handle * 65536 + seq →
          Does (.chunkSend c 0x13 handle seq last bs) b (respond c .chunkAck (b.modConn c fun x =>
            { x with chunkIn := x.chunkIn ++ bs, chunkSeq := if last then 0 else handle * 65536 + seq + 1 })))
      ∧ (let rest := (b.conn c).large.drop (1024 * seq)
         (rest ≠ [] → tells (.chunkGet c 0x13 handle seq) (.chunk (rest.take 1024) (decide (rest.length ≤ 1024))))
         ∧ (rest = [] → tells (.chunkGet c 0x13 handle seq) (.error 0x04)))
      ∧ (∀ msg, (b.conn c).lastWasSigned = true → (b.conn c).lastSigned = some msg →
          Does (.hkPqsig c) b (respondVendor c (Config.slhSign Config.deviceSecret msg) b))
      ∧ ((b.conn c).lastWasSigned = false → tells (.hkPqsig c) (.error 0x04))
      ∧ (nonce.length = 32 → Does (.hkReport c nonce mask) b (respondVendor c (fullReport b nonce mask) b))
      ∧ (nonce.length ≠ 32 → tells (.hkReport c nonce mask) (.error 0x01))
      ∧ Does (.hkKemkey c) b (respondVendor c keyStatement b)
      ∧ (handshakeOpen b c = false → bs.length = 1568 →
          Does (.hkKemek c bs) b (respondVendor c [] (b.modConn c fun x => { x with kemKey := some bs })))
      ∧ (handshakeOpen b c = false → bs.length ≠ 1568 → tells (.hkKemek c bs) (.error 0x01))
      ∧ (handshakeOpen b c = true → tells (.hkKemek c bs) (.error 0x04)))

/-- TDISP and IDE: LOCK_INTERFACE and START_INTERFACE_REQUEST move a virtual function's TDI on from one state, STOP tears the parties of
its partition down; any other state answers an error; IDE_KM programs, activates and stops a stream (R826, R832; numbers: assumption 48). -/
def Obligations.InterfacesAreLockedAndRun : Prop :=
  ∀ (b : Block) (fn : Nat), fn < 64 → b.th.railUp = true → b.attest.identityOk = true →
    let tells := fun (i : Instr) (r : SpdmResponse) => Does i b (respond .doe r b)
    let st := (b.func fn).tdi
    (fn = 0 → ∀ i ∈ ([.getTdispVersion fn, .getTdispCapabilities fn, .lockInterface fn, .getDeviceInterfaceReport fn, .getDeviceInterfaceState fn,
        .startInterfaceRequest fn, .stopInterfaceRequest fn] : List Instr), tells i (.error 0x101))
    ∧ (fn ≠ 0 →
      tells (.getTdispVersion fn) (.vendor [0x10#8]) ∧ tells (.getTdispCapabilities fn) .capabilities
      ∧ tells (.getDeviceInterfaceState fn) (.vendor [st.code])
      ∧ (st = .unlocked → Does (.lockInterface fn) b (respond .doe (.status .ok) (b.modFunc fn fun x => { x with tdi := .locked })))
      ∧ (st ≠ .unlocked → tells (.lockInterface fn) (.error 4))
      ∧ (st = .locked → Does (.startInterfaceRequest fn) b (respond .doe (.status .ok) (b.modFunc fn fun x => { x with tdi := .run })))
      ∧ (st ≠ .locked → tells (.startInterfaceRequest fn) (.error 4))
      ∧ (st = .locked ∨ st = .run → tells (.getDeviceInterfaceReport fn)
          (.vendor (leBytes 8 (b.func fn).vfBar0 ++ leBytes 8 0x100_0000 ++ leBytes 2 (((b.func fn).bound).getD 0xFFFF))))
      ∧ (st ≠ .locked → st ≠ .run → tells (.getDeviceInterfaceReport fn) (.error 4))
      ∧ ((b.func fn).bound = none → (∀ t ∈ b.teardowns, t.tdi ≠ some fn) →
          Does (.stopInterfaceRequest fn) b (respond .doe (.status .ok) (b.modFunc fn fun x => { x with tdi := .unlocked })))
      ∧ Does (.stopInterfaceRequest fn) b (stopInterface fn b))
    ∧ ∀ (session stream : Nat) (op : IdeOp), tells (.ideKm none stream op) (.error 4)
      ∧ (b.secured .doe session = false → tells (.ideKm (some session) stream op) (.error 4))
      ∧ (b.secured .doe session = true → 8 ≤ stream → tells (.ideKm (some session) stream op) (.error 1))
      ∧ (b.secured .doe session = true → stream < 8 → ∃ b₁, Does (.ideKm (some session) stream op) b (respond .doe (.vendor []) b₁)
          ∧ (∀ n, n ≠ stream → SMap.get IdeStream.init n b₁.attest.ide = SMap.get IdeStream.init n b.attest.ide)
          ∧ SMap.get IdeStream.init stream b₁.attest.ide =
            let x := SMap.get IdeStream.init stream b.attest.ide
            match op with
              | .program k => { x with key := some k }
              | .activate => { x with active := x.key.isSome }
              | .stop => { x with active := false })

/-! ### Kreash and reductions (R736–R790, R873–R895) -/

/-- Flits and links. On a link that is UP what its FEC corrected and could not correct is counted, and a flit that is lost or fails its
checks is dropped and counted; a sound one for another module is forwarded unchanged on the link the route table names, or dropped and counted in NOROUTE; one for this module returns its
credits and, when it carries data, joins its record. A link goes through DISABLED, TRAIN, IDENT and UP, and its entries to and exits
from UP post an event record (R875–R879, R888, R891). -/
def Obligations.KreashTakesAndForwards : Prop :=
  ∀ (b : Block) (l : Nat), l < 12 →
    let up := (b.link l).st = .up
    (∀ (f : List Byte) (fec : FecOutcome),
      let c := b.modLink l fun x => { x with fecCorr := x.fecCorr + BitVec.ofNat 32 fec.corrected
                                             fecUncorr := x.fecUncorr + BitVec.ofNat 16 fec.uncorrectable }
      (¬ up → Does (.flitRx l f fec) b b)
      ∧ (up → fec.lost = true ∨ flitOk f = false → Does (.flitRx l f fec) b (c.modLink l fun x => { x with crcDrop := x.crcDrop + 1 }))
      ∧ (up → fec.lost = false → flitOk f = true → fld f 0 2 = b.kreash.moduleId.toNat → Does (.flitRx l f fec) b
          (if bitsOf (fld f 9 1) 2 2 = 0 then rxData l f (rxCredits f c) else rxCredits f c))
      ∧ (up → fec.lost = false → flitOk f = true → fld f 0 2 ≠ b.kreash.moduleId.toNat → Does (.flitRx l f fec) b
          (match routeLink c (fld f 0 2) with
            | some l' => c.modLink l' fun x => { x with sent := x.sent ++ [f] }
            | none => c.modLink l fun x => { x with noRoute := x.noRoute + 1 })))
    ∧ Does (.linkEnable l true) b (b.modLink l fun x => { x with en := true, st := if x.st = .disabled then .train else x.st })
    ∧ (∃ b', Does (.linkEnable l false) b b' ∧ (b'.link l).st = .disabled ∧ (b'.link l).en = false
        ∧ (b'.link l).downCount = (if up then (b.link l).downCount + 1 else (b.link l).downCount) ∧ ∀ n, n ≠ l → b'.link n = b.link n)
    ∧ ((b.link l).st = .train → Does (.linkTrainDone l) b (b.modLink l fun x => { x with st := .ident }))
    ∧ ((b.link l).st ≠ .train → ∃ b', Does (.linkTrainDone l) b b' ∧ ∀ n, b'.link n = b.link n)
    ∧ (∃ b', Does (.linkTrainRetry l) b b' ∧ ∀ n, b'.link n = b.link n)
    ∧ (∀ peer, ((b.link l).st = .ident → Does (.linkIdentDone l peer) b (postEvent 0 .internal 0x05 l 0xFFFF 0xFF
          (leBytes 1 0x11 ++ leBytes 1 l ++ leBytes 2 peer.toNat) (b.modLink l fun x => { x with st := .up, peer := peer })))
        ∧ ((b.link l).st ≠ .ident → Does (.linkIdentDone l peer) b b))
    ∧ (up → Does (.linkDown l) b (postEvent 0 .internal 0x05 l 0xFFFF 0xFF (leBytes 1 0x10 ++ leBytes 1 l ++ leBytes 2 (b.link l).peer.toNat)
          (b.modLink l fun x => { x with st := .train, downCount := x.downCount + 1 })))
    ∧ (¬ up → Does (.linkDown l) b b)

/-- Streams and the records they carry: a write of a stream's configuration, a context stream out of reach for 1 s, a context record
taken while its buffer has room, a weir notice, and a reduction record (R746, R785, R787, R886, R888, R894, R895, R923). -/
def Obligations.RecordsReachTheirPlaces : Prop :=
  ∀ (b : Block) (src vs : Nat), vs < 1024 →
    let cfg := b.vsCfg vs
    (∀ w : U64, ∃ b', Does (.streamEnable vs w) b b' ∧ b'.vsCfg vs = vsCfgOf w.toNat ∧ (∀ n, n ≠ vs → b'.vsCfg n = b.vsCfg n)
        ∧ (cfg.en = false → w.getLsbD 0 = true → (∀ m < 4096, b'.rxStream m vs = .init ∧ b'.txStream m vs = .init)
            ∧ (∀ r ∈ b'.kreash.buffers ++ b'.kreash.assembled, r.vs ≠ vs) ∧ ∀ r ∈ b'.kreash.outbox, r.vs ≠ vs)
        ∧ (cfg.en = true ∨ w.getLsbD 0 = false → b'.kreash.rx = b.kreash.rx ∧ b'.kreash.tx = b.kreash.tx))
    ∧ (32 ≤ vs →
      (cfg.en = true → routeLink b cfg.peer.toNat = none → Does (.linkReturnTimeout vs) b (b.modKreash fun k =>
          { k with vs := SMap.put VsCfg.init vs { cfg with en := false } k.vs }))
      ∧ (cfg.en = false ∨ routeLink b cfg.peer.toNat ≠ none → Does (.linkReturnTimeout vs) b b)
      ∧ (firstAssembled b src vs = none → Does (.streamRecordRx src vs) b b)
      ∧ ∀ r, firstAssembled b src vs = some r →
        let held := (b.kreash.buffers.filter fun x => x.src == src && x.vs == vs).length
        (cfg.rxDepth.toNat < held → Does (.streamRecordRx src vs) b b)
        ∧ (held ≤ cfg.rxDepth.toNat → (∀ body b₁, cvCheck r b = (some body, b₁) → Does (.streamRecordRx src vs) b (acceptContext r b body b₁))
            ∧ ∀ b₁, cvCheck r b = (none, b₁) → Does (.streamRecordRx src vs) b b₁))
    ∧ (src < 4096 → (∀ bs b₁, takeManagement src [0x48#8, 0x57#8, 0x52#8, 0x4E#8] b = (some bs, b₁) → Does (.weirNoticeRx src) b
          (postNotice { b₁ with lock := { b₁.lock with notices := b₁.lock.notices + 1 } }))
        ∧ ∀ b₁, takeManagement src [0x48#8, 0x57#8, 0x52#8, 0x4E#8] b = (none, b₁) → Does (.weirNoticeRx src) b b₁)
    ∧ (16 ≤ vs → vs < 32 → src < 4096 →
      (firstAssembled b src vs = none → Does (.rdRecordRx src vs) b b)
      ∧ ∀ r, firstAssembled b src vs = some r → (∀ b₁, cvCheck r b = (none, b₁) → Does (.rdRecordRx src vs) b b₁)
        ∧ ∀ body b₁ bs b₂, cvCheck r b = (some body, b₁) →
          let (ct, iv, tag, epoch) := openBytes body
          openUnder cfg.keySlot.toNat epoch iv [] ct tag b₁ = .ok bs → b.lock.level < 3 → takeRd (vs - 16) src r.link bs b₁ = some b₂ →
            Does (.rdRecordRx src vs) b (returnCredits src vs 1 b₂))

/-- Reduction groups: a sum's or a step's time limit, and a write of the epoch register, which starts a higher epoch and takes the
limits it holds (R742, R743, R753, R768, R784). -/
def Obligations.ReductionsRepeatWhenLate : Prop :=
  ∀ (b : Block) (g : Nat), g < 16 →
    let x := b.group g
    (∀ seq, let late := x.sums.filter fun y => decide (seq ≤ y.seq) && y.status.isNone && !y.finished
      (x.sealed = true → (∃ y ∈ late, y.seq = seq ∧ sumLacks b g y = true) → Does (.rdTimeout g seq) b
        (late.foldl (fun b y => endNow y.q y.cmdId .repeatStep (repeatSum g y b)) b))
      ∧ (x.sealed = false ∨ (∀ y ∈ late, y.seq = seq → sumLacks b g y = false) → Does (.rdTimeout g seq) b b))
    ∧ (x.closing = false ∨ x.allClosed = true → Does (.rdCloseTimeout g) b b)
    ∧ (x.closing = true → x.allClosed = false → ∀ q c, (groupCommands b g).find? (fun e => e.2.code == 2) = some (q, c) →
        Does (.rdCloseTimeout g) b (endNow q c.id .repeatStep (giveVerdict c .repeated true b)))
    ∧ ∀ w : U64,
      let limits := fun (y : RdGroup) =>
        { y with timeoutMs := if bitsOf w.toNat 32 16 = 0 then 1 else BitVec.ofNat 16 (bitsOf w.toNat 32 16)
                 digestInterval := BitVec.ofNat 16 (bitsOf w.toNat 48 16) }
      (w.toNat % 2 ^ 32 ≤ x.epoch.toNat → Does (.reGroupEpoch g w) b (b.modGroup g limits))
      ∧ (x.epoch.toNat < w.toNat % 2 ^ 32 → ∃ b', Does (.reGroupEpoch g w) b b' ∧ (b'.group g).epoch = BitVec.ofNat 32 w.toNat
          ∧ (b'.group g).sums = [] ∧ (b'.group g).closes = [] ∧ (b'.group g).closing = false
          ∧ (b'.group g).st = if (b'.group g).en then .open else .disabled)

/-! ### Start-up, resets and the tollhouse (R941–R979, R997, R998) -/

/-- Start-up: rails and pins, each stage's end, and the failures that stop it, by their codes; a warm reset, a module reset and entry
to standby are the blocks `warmReset`, `moduleReset` and `standby` (R941–R963, R968, R975, R997, R998; assumptions 49, 53). -/
def Obligations.StartUpRunsItsStages : Prop :=
  ∀ b : Block,
    (∀ ok id, (b.th.railUp = true → Does (.tollhouseRailUp ok id) b b)
      ∧ (b.th.railUp = false → ∃ b', Does (.tollhouseRailUp ok id) b b' ∧ b'.th.railUp = true ∧ b'.th.modId = id ∧ b'.th.lastReset = 0
          ∧ b'.attest.identityOk = ok ∧ b'.mem = b.mem ∧ b'.slots = b.slots))
    ∧ (b.th.railUp = true → ∃ b', Does .tollhouseRailDown b b' ∧ b'.th.railUp = false ∧ b'.th.mainUp = false ∧ b'.slots = [] ∧ b'.contexts = []
        ∧ b'.cores = [] ∧ b'.gl.timebase = 0 ∧ b'.mem.t1 = [] ∧ b'.mem.t2 = [] ∧ b'.mem.host = b.mem.host ∧ b'.lm.log = b.lm.log
        ∧ b'.th.flashA = b.th.flashA ∧ b'.th.flashB = b.th.flashB)
    ∧ (b.th.railUp = false → Does .tollhouseRailDown b b ∧ Does .inrushDone b b)
    ∧ (b.th.railUp = true → Does .inrushDone b (tryPowerUp { b with th := { b.th with inrush := true } }))
    ∧ (b.th.pwrEn = true → Does .pwrEnRise b b)
    ∧ (b.th.pwrEn = false → b.th.needLow = false → Does .pwrEnRise b (tryPowerUp { b with th := { b.th with pwrEn := true, armed := true } }))
    ∧ (b.th.pwrEn = false → b.th.needLow = true → ∃ b', Does .pwrEnRise b b' ∧ (b' = { b.spent 1 with th := { b.th with pwrEn := true } }
        ∨ b' = tryPowerUp { b.spent 1 with th := { b.th with pwrEn := true, needLow := false, armed := true } }))
    ∧ (b.th.pwrEn = false → Does .pwrEnFall b b)
    ∧ (b.th.pwrEn = true → b.th.mainUp = false → Does .pwrEnFall b { b with th := { b.th with pwrEn := false, armed := false, thermTripN := true } })
    ∧ (b.th.pwrEn = true → b.th.mainUp = true → ∃ k < 8, Does .pwrEnFall b
        (standby k { b.spent 1 with th := { b.th with pwrEn := false, armed := false, thermTripN := true } }))
    ∧ (b.th.perstN = false → Does .perstNFall b b ∧ Does .perstNRise b (linkUp { b with th := { b.th with perstN := true } }))
    ∧ (b.th.perstN = true → Does .perstNRise b b ∧ Does .perstNFall b (moduleReset 1 { b with th := { b.th with perstN := false } }))
    ∧ (∀ x, Does (.refclkChange x) b { b with th := { b.th with refclk := x } })
    ∧ (b.th.mainUp = true → Does .currentLimitTrip b (standby 7 (endOps b))) ∧ (b.th.mainUp = false → Does .currentLimitTrip b b)
    ∧ (∀ die stack,
      let trip := (∃ t ∈ die, 115 ≤ t) ∨ ∃ t ∈ stack, 105 ≤ t
      (b.th.mainUp = false → Does (.thermalSample die stack) b b)
      ∧ (b.th.mainUp = true → trip → ∃ b', Does (.thermalSample die stack) b b' ∧ b'.th.mainUp = false ∧ b'.th.thermTripN = false ∧ b'.th.needLow = true
          ∧ b'.th.lastReset = 6 ∧ b'.slots = [])
      ∧ (b.th.mainUp = true → ¬ trip → (∃ t ∈ die, 105 ≤ t) → 3 ∉ b.th.events → Does (.thermalSample die stack) b
          { b with th := { b.th with events := b.th.events ++ [3], alertN := false } })
      ∧ (b.th.mainUp = true → ¬ trip → (∀ t ∈ die, t < 105) ∨ 3 ∈ b.th.events → Does (.thermalSample die stack) b b))
    ∧ (∀ v : U64, (b.th.mainUp = false → Does (.bundleGo v) b b)
        ∧ (b.th.mainUp = true → b.th.stage = .waitBundle → v.getLsbD 28 = true → Does (.bundleGo v) b { b with th := { b.th with
            bundleLen := BitVec.ofNat 28 v.toNat, bootGo := true, bundle := Mem.read b.th.bar2 0 (v.toNat % 2 ^ 28), stage := .verify, fail := 0 } })
        ∧ (b.th.mainUp = true → b.th.stage ≠ .waitBundle ∨ v.getLsbD 28 = false → Does (.bundleGo v) b { b with th := { b.th with
            bundleLen := BitVec.ofNat 28 v.toNat } }))
    ∧ (b.th.stage = .verify →
      let c := b.th.bundle
      let refused := fun (code : Nat) => { b with th := { b.th with stage := .waitBundle, bootGo := false, fail := code, bar2 := [], bundle := [] } }
      (bundleForm c = false → Does .stageVerifyDone b (refused 2))
      ∧ (bundleForm c = true → envSigned c = false → Does .stageVerifyDone b (refused 1))
      ∧ (bundleForm c = true → envSigned c = true → Does .stageVerifyDone b { b with
          th := { b.th with stage := .config, bootGo := false, accepted := c, bundle := [] }
          attest := { b.attest with meas2 := sha384 c, fwVersion := BitVec.ofNat 32 (fld c 8 4), fwSvn := BitVec.ofNat 32 (fld c 0xC 4) } }))
    ∧ (b.th.stage = .config →
      (recordIn b.th.flashA = none → recordIn b.th.flashB = none → ∃ b', Does .stageConfigDone b b' ∧ b'.th.stage = .failed ∧ b'.th.fail = 3
          ∧ b'.attest.meas5 = zeros 48)
      ∧ (let kept := warmStart b && !b.attest.meas5.isEmpty && (recordIn (if b.th.cfgCopy then b.th.flashB else b.th.flashA)).isSome
      (kept = true → ∃ b', Does .stageConfigDone b b' ∧ b'.th.stage = .train ∧ b'.th.cfgCopy = b.th.cfgCopy
          ∧ b'.attest.meas5 = sha384 (if b.th.cfgCopy then b.th.flashB else b.th.flashA))
      ∧ (kept = false → ∀ rs n, recordIn b.th.flashA = some (rs, n) → (∀ rs' n', recordIn b.th.flashB = some (rs', n') → n' ≤ n) →
          ∃ b', Does .stageConfigDone b b' ∧ b'.th.stage = .train ∧ b'.th.cfgCopy = false ∧ b'.attest.meas5 = sha384 b.th.flashA)
      ∧ (kept = false → ∀ rs n, recordIn b.th.flashB = some (rs, n) → (∀ rs' n', recordIn b.th.flashA = some (rs', n') → n' < n) →
          ∃ b', Does .stageConfigDone b b' ∧ b'.th.stage = .train ∧ b'.th.cfgCopy = true ∧ b'.attest.meas5 = sha384 b.th.flashB)))
    ∧ (b.th.stage = .train → ∀ r : TrainResult,
      (r.hbmOk = false → ∃ b', Does (.stageTrainDone r) b b' ∧ b'.th.stage = .failed ∧ b'.th.fail = 4)
      ∧ (r.hbmOk = true → r.lpddrOk = false → ∃ b', Does (.stageTrainDone r) b b' ∧ b'.th.stage = .failed ∧ b'.th.fail = 5)
      ∧ (r.hbmOk = true → r.lpddrOk = true → ∃ b', Does (.stageTrainDone r) b b'
          ∧ b'.gl.basinsUsable = ((List.range 256).filter fun k => !(b'.basin k).retired).length
          ∧ (b'.gl.basinsUsable < 32 → b'.th.stage = .failed ∧ b'.th.fail = 6)
          ∧ (32 ≤ b'.gl.basinsUsable → b'.th.stage = if warmStart b' then .release else .init)))
    ∧ (b.th.stage = .init → ∃ b', Does .stageInitDone b b' ∧ b'.th.stage = .release ∧ b'.mem.t1 = [] ∧ b'.mem.t2 = [] ∧ b'.mem.host = b.mem.host)
    ∧ (b.th.stage = .release → b.teardowns = [] → Does .stageReleaseDone b
        { b with th := { b.th with stage := .ready, readyN := false, events := b.th.events ++ [0], alertN := false } })
    ∧ (∀ r, (b.th.stage ≠ .verify → Does .stageVerifyDone b b) ∧ (b.th.stage ≠ .config → Does .stageConfigDone b b)
        ∧ (b.th.stage ≠ .train → Does (.stageTrainDone r) b b) ∧ (b.th.stage ≠ .init → Does .stageInitDone b b)
        ∧ (b.th.stage ≠ .release → Does .stageReleaseDone b b))

/-- The tollhouse's operations, from the mailbox once its GO has started them and from the sideband, where one waits for the mailbox's
before it, and the sideband's own: an operation leaves its status, or a report its bytes; key slots are zeroized; configuration goes to the copy not in use (R961, R971–R978). -/
def Obligations.TollhouseOperations : Prop :=
  ∀ (b : Block) (src : ThSource) (w tj dv : Nat), b.th.railUp = true →
    let begun := fun (op : Nat) => match src with
      | .mailbox => b.th.cmdGo = true ∧ b.th.cmdRun.toNat = op
      | .sideband _ _ => sidebandWaits op b = false
    let ends := fun (st : Status) (b : Block) => match src with
      | .mailbox => { b with th := { b.th with cmdGo := false, cmdResult := st } }
      | .sideband _ _ => { b with th := { b.th with reply := sidebandReply (leBytes 1 st.code) } }
    let shown := { b with th := { b.th with powerW := BitVec.ofNat 13 w, tjC := BitVec.ofNat 8 (min tj 255), vinDv := BitVec.ofNat 10 dv } }
    Does (.telemetryPeriod w tj dv) b shown
    ∧ (begun 1 → Does (.telemetry src w tj dv) b (ends .ok shown))
    ∧ (∀ mask r b₁, src = .mailbox → begun 2 → mask = b.th.arg.truncate 32 → thReport (Mem.read b.th.report 0 32) mask b = (r, b₁) →
        Does (.report src) b (ends .ok { b₁ with th := { b₁.th with report := Mem.write b₁.th.report 32 (r.take (32768 - 32)) } }))
    ∧ (∀ arg nonce r b₁, src = .sideband arg nonce → begun 2 → thReport nonce (arg.truncate 32) b = (r, b₁) → r ≠ [] →
        Does (.report src) b { b₁ with th := { b₁.th with reply := sidebandReply r } })
    ∧ (begun 3 → Does (.zeroizeAll src) b (ends .ok { b with slots := [] }))
    ∧ (begun 4 → b.th.mainUp = true → Does (.resetWarm src) b (ends .ok (warmReset 4 b)))
    ∧ (begun 4 → b.th.mainUp = false → Does (.resetWarm src) b (ends .ok b))
    ∧ (begun 5 → Does (.resetModule src) b (ends .ok (moduleReset 2 b)))
    ∧ (begun 6 → b.th.mainUp = true → Does (.powerOff src) b (ends .ok (standby 7 b)))
    ∧ (begun 6 → b.th.mainUp = false → Does (.powerOff src) b (ends .ok { b with slots := [], teardowns := [] }))
    ∧ (begun 7 →
      let n := match src with
        | .mailbox => b.th.arg.toNat
        | .sideband arg _ => arg.toNat
      let bytes := Mem.read b.th.bar2 0 n
      let timely := b.th.stage = .waitBundle ∨ b.th.stage = .ready
      (¬ timely → Does (.cfgWrite src) b (ends .busy b))
      ∧ (timely → 0x40_0000 < n ∨ recordIn bytes = none → Does (.cfgWrite src) b (ends .internal b))
      ∧ (timely → n ≤ 0x40_0000 → recordIn bytes ≠ none → Does (.cfgWrite src) b (ends .ok { b with th :=
          if b.th.cfgCopy then { b.th with flashA := bytes } else { b.th with flashB := bytes } })))
    ∧ (∀ op, ¬ begun op →
        ∀ i ∈ ([(1, .telemetry src w tj dv), (2, .report src), (3, .zeroizeAll src), (4, .resetWarm src), (5, .resetModule src), (6, .powerOff src),
          (7, .cfgWrite src)] : List (Nat × Instr)), i.1 = op → Does i.2 b b)
    ∧ (∀ eid : Byte, (eid ≠ 0 → eid ≠ 0xFF → Does (.setEndpointId eid) b { b with th := { b.th with eid := eid } })
        ∧ (eid = 0 ∨ eid = 0xFF → Does (.setEndpointId eid) b b))
    ∧ (∀ m a, Does (.i3cDynamicAddress m a) b { b with th := { b.th with i3cAddr := some a } })
    ∧ (let reads := fun (x : SensorId) (n : Nat) => Does (.pldmSensorRead x) b { b with th := { b.th with sensorReply := some n } }
       reads .vin b.th.vinDv.toNat ∧ reads .junction b.th.tjC.toNat ∧ reads .weir (weirNow b) ∧ reads .stage b.th.stage.code
       ∧ (b.th.powerW.toNat % 10 = 0 → reads .power b.th.powerW.toNat)
       ∧ ∃ b' n, Does (.pldmSensorRead .power) b b' ∧ b'.th.sensorReply = some (10 * n) ∧ 10 * n < b.th.powerW.toNat + 10
          ∧ b.th.powerW.toNat < 10 * n + 10)
    ∧ Does .platformEventMessage b { b with th := { b.th with events := b.th.events.drop 1, alertN := (b.th.events.drop 1).isEmpty } }

/-- Register writes: one that is not 4 or 8 bytes long and aligned, or reaches no register its writer may write, changes nothing; any
other acts by its fields' access codes, a 4-byte write leaving the other half as it reads; the boot window takes bytes (R14, R17, R949,
R979–R983; assumption 58). -/
def Obligations.RegisterWritesActByTheirFields : Prop :=
  ∀ (b : Block) (a : Actor) (off size : Nat) (v : U64),
    let window := a = .host 0 ∧ 0x400_0000 ≤ off
    (¬ window → (size ≠ 4 ∧ size ≠ 8) ∨ off % size ≠ 0 → Does (.registerWrite a off size v) b b)
    ∧ (¬ window → writtenReg b a off = none → Does (.registerWrite a off size v) b b)
    ∧ (¬ window → ∀ r, writtenReg b a off = some r →
        (off % 8 = 0 → (rwMask r ||| actMask r) % 2 ^ 64 ≠ 0 → Does (.registerWrite a off 8 v) b (writeReg r v.toNat b))
        ∧ (off % 8 = 0 → (rwMask r ||| actMask r) % 2 ^ 32 ≠ 0 → Does (.registerWrite a off 4 v) b
            (writeReg r (v.toNat % 2 ^ 32 + ((readReg b r &&& rwMask r) &&& (2 ^ 64 - 2 ^ 32))) b))
        ∧ (off % 8 = 4 → (rwMask r ||| actMask r) &&& (2 ^ 64 - 2 ^ 32) ≠ 0 → Does (.registerWrite a off 4 v) b
            (writeReg r (v.toNat % 2 ^ 32 * 2 ^ 32 + ((readReg b r &&& rwMask r) &&& (2 ^ 32 - 1))) b))
        ∧ (off % size = 0 → (rwMask r ||| actMask r) &&& accessMask off size = 0 → Does (.registerWrite a off size v) b b))
    ∧ (b.th.mainUp = false → ¬ window → Does (.registerWrite a off size v) b b)
    ∧ (off % 8 = 0 → writtenReg b a off = some .thArg → Does (.registerWrite a off 8 v) b { b with th := { b.th with arg := v } })
    ∧ (∀ n, off % 8 = 0 → writtenReg b a off = some (.klRoute n) → ∃ b', Does (.registerWrite a off 8 v) b b' ∧ readReg b' (.klRoute n) = v.toNat
        ∧ ∀ m, m ≠ n → readReg b' (.klRoute m) = readReg b (.klRoute m))
    ∧ (window → hostLink b = true → b.th.stage ≠ .degraded → size ≤ 8 → off - 0x400_0000 + size ≤ 0x1000_0000 →
        Does (.registerWrite a off size v) b { b with th := { b.th with bar2 := Mem.write b.th.bar2 (off - 0x400_0000) (leBytes size v.toNat) } })
end

