-- ==== Sys2Proof/Laws/Dispatch.lean ====
section
/-! SUPPORT. Each command's meaning, by name: what `exec` calls, one lemma a constructor, true by definition. -/

namespace Sys2Proof.Machine

theorem exec_add (th : Nat) (d a b : Reg) (s : State) : exec (.add th d a b) s = execAdd th d a b s := rfl
theorem exec_sub (th : Nat) (d a b : Reg) (s : State) : exec (.sub th d a b) s = execSub th d a b s := rfl
theorem exec_mul (th : Nat) (d a b : Reg) (s : State) : exec (.mul th d a b) s = execMul th d a b s := rfl
theorem exec_mulh (th : Nat) (d a b : Reg) (s : State) : exec (.mulh th d a b) s = execMulh th d a b s := rfl
theorem exec_mulhu (th : Nat) (d a b : Reg) (s : State) : exec (.mulhu th d a b) s = execMulhu th d a b s := rfl
theorem exec_div (th : Nat) (d a b : Reg) (s : State) : exec (.div th d a b) s = execDiv th d a b s := rfl
theorem exec_divu (th : Nat) (d a b : Reg) (s : State) : exec (.divu th d a b) s = execDivu th d a b s := rfl
theorem exec_rem (th : Nat) (d a b : Reg) (s : State) : exec (.rem th d a b) s = execRem th d a b s := rfl
theorem exec_remu (th : Nat) (d a b : Reg) (s : State) : exec (.remu th d a b) s = execRemu th d a b s := rfl
theorem exec_andd (th : Nat) (d a b : Reg) (s : State) : exec (.andd th d a b) s = execAndd th d a b s := rfl
theorem exec_orr (th : Nat) (d a b : Reg) (s : State) : exec (.orr th d a b) s = execOrr th d a b s := rfl
theorem exec_xor (th : Nat) (d a b : Reg) (s : State) : exec (.xor th d a b) s = execXor th d a b s := rfl
theorem exec_andn (th : Nat) (d a b : Reg) (s : State) : exec (.andn th d a b) s = execAndn th d a b s := rfl
theorem exec_sll (th : Nat) (d a b : Reg) (s : State) : exec (.sll th d a b) s = execSll th d a b s := rfl
theorem exec_srl (th : Nat) (d a b : Reg) (s : State) : exec (.srl th d a b) s = execSrl th d a b s := rfl
theorem exec_sra (th : Nat) (d a b : Reg) (s : State) : exec (.sra th d a b) s = execSra th d a b s := rfl
theorem exec_minS (th : Nat) (d a b : Reg) (s : State) : exec (.minS th d a b) s = execMinS th d a b s := rfl
theorem exec_maxS (th : Nat) (d a b : Reg) (s : State) : exec (.maxS th d a b) s = execMaxS th d a b s := rfl
theorem exec_minu (th : Nat) (d a b : Reg) (s : State) : exec (.minu th d a b) s = execMinu th d a b s := rfl
theorem exec_maxu (th : Nat) (d a b : Reg) (s : State) : exec (.maxu th d a b) s = execMaxu th d a b s := rfl
theorem exec_clz (th : Nat) (d a : Reg) (s : State) : exec (.clz th d a) s = execClz th d a s := rfl
theorem exec_ctz (th : Nat) (d a : Reg) (s : State) : exec (.ctz th d a) s = execCtz th d a s := rfl
theorem exec_popc (th : Nat) (d a : Reg) (s : State) : exec (.popc th d a) s = execPopc th d a s := rfl
theorem exec_sextB (th : Nat) (d a : Reg) (s : State) : exec (.sextB th d a) s = execSextB th d a s := rfl
theorem exec_sextH (th : Nat) (d a : Reg) (s : State) : exec (.sextH th d a) s = execSextH th d a s := rfl
theorem exec_sextW (th : Nat) (d a : Reg) (s : State) : exec (.sextW th d a) s = execSextW th d a s := rfl
theorem exec_zextW (th : Nat) (d a : Reg) (s : State) : exec (.zextW th d a) s = execZextW th d a s := rfl
theorem exec_addi (th : Nat) (d a : Reg) (imm : U16) (s : State) : exec (.addi th d a imm) s = execAddi th d a imm s := rfl
theorem exec_andi (th : Nat) (d a : Reg) (imm : U16) (s : State) : exec (.andi th d a imm) s = execAndi th d a imm s := rfl
theorem exec_ori (th : Nat) (d a : Reg) (imm : U16) (s : State) : exec (.ori th d a imm) s = execOri th d a imm s := rfl
theorem exec_xori (th : Nat) (d a : Reg) (imm : U16) (s : State) : exec (.xori th d a imm) s = execXori th d a imm s := rfl
theorem exec_shiLeft (th : Nat) (d a : Reg) (amount : BitVec 6) (s : State) : exec (.shiLeft th d a amount) s = execShiLeft th d a amount s := rfl
theorem exec_shiLogicalRight (th : Nat) (d a : Reg) (amount : BitVec 6) (s : State) : exec (.shiLogicalRight th d a amount) s = execShiLogicalRight th d a amount s := rfl
theorem exec_shiArithRight (th : Nat) (d a : Reg) (amount : BitVec 6) (s : State) : exec (.shiArithRight th d a amount) s = execShiArithRight th d a amount s := rfl
theorem exec_lui (th : Nat) (d : Reg) (imm : U16) (s : State) : exec (.lui th d imm) s = execLui th d imm s := rfl
theorem exec_cmp (th : Nat) (comb : Combine) (pd : Pred) (cond : Cond) (a b : Reg) (s : State) : exec (.cmp th comb pd cond a b) s = execCmp th comb pd cond a b s := rfl
theorem exec_cmpi (th : Nat) (comb : Combine) (pd : Pred) (cond : Cond) (a : Reg) (imm : BitVec 11) (s : State) : exec (.cmpi th comb pd cond a imm) s = execCmpi th comb pd cond a imm s := rfl
theorem exec_pand (th : Nat) (pd pa pb : Pred) (s : State) : exec (.pand th pd pa pb) s = execPand th pd pa pb s := rfl
theorem exec_por (th : Nat) (pd pa pb : Pred) (s : State) : exec (.por th pd pa pb) s = execPor th pd pa pb s := rfl
theorem exec_pxor (th : Nat) (pd pa pb : Pred) (s : State) : exec (.pxor th pd pa pb) s = execPxor th pd pa pb s := rfl
theorem exec_pandn (th : Nat) (pd pa pb : Pred) (s : State) : exec (.pandn th pd pa pb) s = execPandn th pd pa pb s := rfl
theorem exec_pnot (th : Nat) (pd pa pb : Pred) (s : State) : exec (.pnot th pd pa pb) s = execPnot th pd pa pb s := rfl
theorem exec_pmov (th : Nat) (pd pa pb : Pred) (s : State) : exec (.pmov th pd pa pb) s = execPmov th pd pa pb s := rfl
theorem exec_pset (th : Nat) (pd pa pb : Pred) (s : State) : exec (.pset th pd pa pb) s = execPset th pd pa pb s := rfl
theorem exec_pclr (th : Nat) (pd pa pb : Pred) (s : State) : exec (.pclr th pd pa pb) s = execPclr th pd pa pb s := rfl
theorem exec_sel (th : Nat) (d a b : Reg) (p : Pred) (s : State) : exec (.sel th d a b p) s = execSel th d a b p s := rfl
theorem exec_branch (th : Nat) (sense : Bool) (p : Pred) (off : U16) (s : State) : exec (.branch th sense p off) s = execBranch th sense p off s := rfl
theorem exec_jump (th : Nat) (off : U16) (s : State) : exec (.jump th off) s = execJump th off s := rfl
theorem exec_call (th : Nat) (off : U16) (s : State) : exec (.call th off) s = execCall th off s := rfl
theorem exec_jr (th : Nat) (a : Reg) (link : Bool) (s : State) : exec (.jr th a link) s = execJr th a link s := rfl
theorem exec_jl (th : Nat) (link : Bool) (off : U32) (s : State) : exec (.jl th link off) s = execJl th link off s := rfl
theorem exec_li (th : Nat) (d : Reg) (imm : BitVec 48) (s : State) : exec (.li th d imm) s = execLi th d imm s := rfl
theorem exec_lih (th : Nat) (d : Reg) (imm : U32) (s : State) : exec (.lih th d imm) s = execLih th d imm s := rfl
theorem exec_addil (th : Nat) (d a : Reg) (imm : U32) (s : State) : exec (.addil th d a imm) s = execAddil th d a imm s := rfl
theorem exec_illegalOp (th : Nat) (s : State) : exec (.illegalOp th) s = execIllegalOp th s := rfl
theorem exec_ldt (th : Nat) (d a : Reg) (size : BitVec 2) (sx : Bool) (off : BitVec 11) (s : State) : exec (.ldt th d a size sx off) s = execLdt th d a size sx off s := rfl
theorem exec_stt (th : Nat) (d a : Reg) (size : BitVec 2) (off : BitVec 11) (s : State) : exec (.stt th d a size off) s = execStt th d a size off s := rfl
theorem exec_ldv (th : Nat) (d a : Reg) (size : BitVec 2) (sx : Bool) (off : BitVec 11) (s : State) : exec (.ldv th d a size sx off) s = execLdv th d a size sx off s := rfl
theorem exec_stv (th : Nat) (d a : Reg) (size : BitVec 2) (off : BitVec 11) (s : State) : exec (.stv th d a size off) s = execStv th d a size off s := rfl
theorem exec_amoAdd (th : Nat) (d a b : Reg) (wide : Bool) (s : State) : exec (.amoAdd th d a b wide) s = execAmoAdd th d a b wide s := rfl
theorem exec_amoAnd (th : Nat) (d a b : Reg) (wide : Bool) (s : State) : exec (.amoAnd th d a b wide) s = execAmoAnd th d a b wide s := rfl
theorem exec_amoOr (th : Nat) (d a b : Reg) (wide : Bool) (s : State) : exec (.amoOr th d a b wide) s = execAmoOr th d a b wide s := rfl
theorem exec_amoXor (th : Nat) (d a b : Reg) (wide : Bool) (s : State) : exec (.amoXor th d a b wide) s = execAmoXor th d a b wide s := rfl
theorem exec_amoMin (th : Nat) (d a b : Reg) (wide : Bool) (s : State) : exec (.amoMin th d a b wide) s = execAmoMin th d a b wide s := rfl
theorem exec_amoMax (th : Nat) (d a b : Reg) (wide : Bool) (s : State) : exec (.amoMax th d a b wide) s = execAmoMax th d a b wide s := rfl
theorem exec_amoMinu (th : Nat) (d a b : Reg) (wide : Bool) (s : State) : exec (.amoMinu th d a b wide) s = execAmoMinu th d a b wide s := rfl
theorem exec_amoMaxu (th : Nat) (d a b : Reg) (wide : Bool) (s : State) : exec (.amoMaxu th d a b wide) s = execAmoMaxu th d a b wide s := rfl
theorem exec_amoSwap (th : Nat) (d a b : Reg) (wide : Bool) (s : State) : exec (.amoSwap th d a b wide) s = execAmoSwap th d a b wide s := rfl
theorem exec_amoCas (th : Nat) (d a b : Reg) (wide : Bool) (s : State) : exec (.amoCas th d a b wide) s = execAmoCas th d a b wide s := rfl
theorem exec_ldvDataReturn (th : Nat) (s : State) : exec (.ldvDataReturn th) s = execLdvDataReturn th s := rfl
theorem exec_icacheFill (th : Nat) (s : State) : exec (.icacheFill th) s = execIcacheFill th s := rfl
theorem exec_thPark (th : Nat) (s : State) : exec (.thPark th) s = execThPark th s := rfl
theorem exec_thWake (th : Nat) (a : Reg) (s : State) : exec (.thWake th a) s = execThWake th a s := rfl
theorem exec_thStart (th : Nat) (d a b : Reg) (s : State) : exec (.thStart th d a b) s = execThStart th d a b s := rfl
theorem exec_thExit (th : Nat) (s : State) : exec (.thExit th) s = execThExit th s := rfl
theorem exec_thYield (th : Nat) (s : State) : exec (.thYield th) s = execThYield th s := rfl
theorem exec_yieldExpiry (th : Nat) (s : State) : exec (.yieldExpiry th) s = execYieldExpiry th s := rfl
theorem exec_thBrk (th : Nat) (s : State) : exec (.thBrk th) s = execThBrk th s := rfl
theorem exec_thParkt (th : Nat) (a : Reg) (s : State) : exec (.thParkt th a) s = execThParkt th a s := rfl
theorem exec_parktTimeout (th : Nat) (s : State) : exec (.parktTimeout th) s = execParktTimeout th s := rfl
theorem exec_rdst (th : Nat) (d : Reg) (sel : RdstSel) (s : State) : exec (.rdst th d sel) s = execRdst th d sel s := rfl
theorem exec_syWait (th : Nat) (d a : Reg) (s : State) : exec (.syWait th d a) s = execSyWait th d a s := rfl
theorem exec_syFence (th : Nat) (scope : FenceScope) (s : State) : exec (.syFence th scope) s = execSyFence th scope s := rfl
theorem exec_sysTstop (th : Nat) (d a : Reg) (s : State) : exec (.sysTstop th d a) s = execSysTstop th d a s := rfl
theorem exec_sysTsave (th : Nat) (d a b : Reg) (s : State) : exec (.sysTsave th d a b) s = execSysTsave th d a b s := rfl
theorem exec_sysTrest (th : Nat) (d a b : Reg) (s : State) : exec (.sysTrest th d a b) s = execSysTrest th d a b s := rfl
theorem exec_sysTgo (th : Nat) (d a : Reg) (s : State) : exec (.sysTgo th d a) s = execSysTgo th d a s := rfl
theorem exec_sysTfree (th : Nat) (d a : Reg) (s : State) : exec (.sysTfree th d a) s = execSysTfree th d a s := rfl
theorem exec_sysCtxbind (th : Nat) (d a b : Reg) (s : State) : exec (.sysCtxbind th d a b) s = execSysCtxbind th d a b s := rfl
theorem exec_sysPtroot (th : Nat) (d a b : Reg) (s : State) : exec (.sysPtroot th d a b) s = execSysPtroot th d a b s := rfl
theorem exec_sysTlbinv (th : Nat) (d a b : Reg) (s : State) : exec (.sysTlbinv th d a b) s = execSysTlbinv th d a b s := rfl
theorem exec_sysScrub (th : Nat) (d a : Reg) (s : State) : exec (.sysScrub th d a) s = execSysScrub th d a s := rfl
theorem exec_mxFwd (th : Nat) (d a : Reg) (w : EngCode) (s : State) : exec (.mxFwd th d a w) s = execMxFwd th d a w s := rfl
theorem exec_mxRev (th : Nat) (d a : Reg) (pk : Pred) (s : State) : exec (.mxRev th d a pk) s = execMxRev th d a pk s := rfl
theorem exec_mxFwd3 (th : Nat) (d a : Reg) (pk : Pred) (s : State) : exec (.mxFwd3 th d a pk) s = execMxFwd3 th d a pk s := rfl
theorem exec_mxRev3 (th : Nat) (d a : Reg) (pk : Pred) (s : State) : exec (.mxRev3 th d a pk) s = execMxRev3 th d a pk s := rfl
theorem exec_mxDrain (th : Nat) (d a : Reg) (pk : Pred) (s : State) : exec (.mxDrain th d a pk) s = execMxDrain th d a pk s := rfl
theorem exec_gatherWindowExpiry (core group : Nat) (s : State) : exec (.gatherWindowExpiry core group) s = execGatherWindowExpiry core group s := rfl
theorem exec_cxDown (th : Nat) (d a : Reg) (w : EngCode) (s : State) : exec (.cxDown th d a w) s = execCxDown th d a w s := rfl
theorem exec_cxBack (th : Nat) (d a : Reg) (pk : Pred) (s : State) : exec (.cxBack th d a pk) s = execCxBack th d a pk s := rfl
theorem exec_cxGrad (th : Nat) (d a : Reg) (pk : Pred) (s : State) : exec (.cxGrad th d a pk) s = execCxGrad th d a pk s := rfl
theorem exec_mvFwd (th : Nat) (d a : Reg) (w : EngCode) (s : State) : exec (.mvFwd th d a w) s = execMvFwd th d a w s := rfl
theorem exec_mvRev (th : Nat) (d a : Reg) (pk : Pred) (s : State) : exec (.mvRev th d a pk) s = execMvRev th d a pk s := rfl
theorem exec_mvFwd3 (th : Nat) (d a : Reg) (pk : Pred) (s : State) : exec (.mvFwd3 th d a pk) s = execMvFwd3 th d a pk s := rfl
theorem exec_vxRun (th : Nat) (d a : Reg) (w : EngCode) (s : State) : exec (.vxRun th d a w) s = execVxRun th d a w s := rfl
theorem exec_vxSum (th : Nat) (d a : Reg) (pk : Pred) (s : State) : exec (.vxSum th d a pk) s = execVxSum th d a pk s := rfl
theorem exec_vxStep (th : Nat) (d a : Reg) (pk : Pred) (s : State) : exec (.vxStep th d a pk) s = execVxStep th d a pk s := rfl
theorem exec_vxTload (th : Nat) (d a : Reg) (pk : Pred) (s : State) : exec (.vxTload th d a pk) s = execVxTload th d a pk s := rfl
theorem exec_vxComb (th : Nat) (d a : Reg) (pk : Pred) (s : State) : exec (.vxComb th d a pk) s = execVxComb th d a pk s := rfl
theorem exec_vxMov (th : Nat) (d a : Reg) (pk : Pred) (s : State) : exec (.vxMov th d a pk) s = execVxMov th d a pk s := rfl
theorem exec_vxAdd (th : Nat) (d a : Reg) (pk : Pred) (s : State) : exec (.vxAdd th d a pk) s = execVxAdd th d a pk s := rfl
theorem exec_vxSub (th : Nat) (d a : Reg) (pk : Pred) (s : State) : exec (.vxSub th d a pk) s = execVxSub th d a pk s := rfl
theorem exec_vxMul (th : Nat) (d a : Reg) (pk : Pred) (s : State) : exec (.vxMul th d a pk) s = execVxMul th d a pk s := rfl
theorem exec_vxFma (th : Nat) (d a : Reg) (pk : Pred) (s : State) : exec (.vxFma th d a pk) s = execVxFma th d a pk s := rfl
theorem exec_vxDiv (th : Nat) (d a : Reg) (pk : Pred) (s : State) : exec (.vxDiv th d a pk) s = execVxDiv th d a pk s := rfl
theorem exec_vxRecip (th : Nat) (d a : Reg) (pk : Pred) (s : State) : exec (.vxRecip th d a pk) s = execVxRecip th d a pk s := rfl
theorem exec_vxSqrt (th : Nat) (d a : Reg) (pk : Pred) (s : State) : exec (.vxSqrt th d a pk) s = execVxSqrt th d a pk s := rfl
theorem exec_vxRsqrt (th : Nat) (d a : Reg) (pk : Pred) (s : State) : exec (.vxRsqrt th d a pk) s = execVxRsqrt th d a pk s := rfl
theorem exec_vxExp (th : Nat) (d a : Reg) (pk : Pred) (s : State) : exec (.vxExp th d a pk) s = execVxExp th d a pk s := rfl
theorem exec_vxExp2 (th : Nat) (d a : Reg) (pk : Pred) (s : State) : exec (.vxExp2 th d a pk) s = execVxExp2 th d a pk s := rfl
theorem exec_vxLog (th : Nat) (d a : Reg) (pk : Pred) (s : State) : exec (.vxLog th d a pk) s = execVxLog th d a pk s := rfl
theorem exec_vxLog2 (th : Nat) (d a : Reg) (pk : Pred) (s : State) : exec (.vxLog2 th d a pk) s = execVxLog2 th d a pk s := rfl
theorem exec_vxMin (th : Nat) (d a : Reg) (pk : Pred) (s : State) : exec (.vxMin th d a pk) s = execVxMin th d a pk s := rfl
theorem exec_vxMax (th : Nat) (d a : Reg) (pk : Pred) (s : State) : exec (.vxMax th d a pk) s = execVxMax th d a pk s := rfl
theorem exec_vxAbs (th : Nat) (d a : Reg) (pk : Pred) (s : State) : exec (.vxAbs th d a pk) s = execVxAbs th d a pk s := rfl
theorem exec_vxNeg (th : Nat) (d a : Reg) (pk : Pred) (s : State) : exec (.vxNeg th d a pk) s = execVxNeg th d a pk s := rfl
theorem exec_vxClamp (th : Nat) (d a : Reg) (pk : Pred) (s : State) : exec (.vxClamp th d a pk) s = execVxClamp th d a pk s := rfl
theorem exec_vxCvt (th : Nat) (d a : Reg) (pk : Pred) (s : State) : exec (.vxCvt th d a pk) s = execVxCvt th d a pk s := rfl
theorem exec_vxLut (th : Nat) (d a : Reg) (pk : Pred) (s : State) : exec (.vxLut th d a pk) s = execVxLut th d a pk s := rfl
theorem exec_vxShuf (th : Nat) (d a : Reg) (pk : Pred) (s : State) : exec (.vxShuf th d a pk) s = execVxShuf th d a pk s := rfl
theorem exec_vxRsum (th : Nat) (d a : Reg) (pk : Pred) (s : State) : exec (.vxRsum th d a pk) s = execVxRsum th d a pk s := rfl
theorem exec_vxRmax (th : Nat) (d a : Reg) (pk : Pred) (s : State) : exec (.vxRmax th d a pk) s = execVxRmax th d a pk s := rfl
theorem exec_vxRmin (th : Nat) (d a : Reg) (pk : Pred) (s : State) : exec (.vxRmin th d a pk) s = execVxRmin th d a pk s := rfl
theorem exec_twArm (th : Nat) (d a : Reg) (w : EngCode) (s : State) : exec (.twArm th d a w) s = execTwArm th d a w s := rfl
theorem exec_twFlip (th : Nat) (d a : Reg) (pk : Pred) (s : State) : exec (.twFlip th d a pk) s = execTwFlip th d a pk s := rfl
theorem exec_flipSwap (core : Nat) (s : State) : exec (.flipSwap core) s = execFlipSwap core s := rfl
theorem exec_twPair (th : Nat) (d a : Reg) (pk : Pred) (s : State) : exec (.twPair th d a pk) s = execTwPair th d a pk s := rfl
theorem exec_pairSet (core : Nat) (s : State) : exec (.pairSet core) s = execPairSet core s := rfl
theorem exec_programActivate (core : Nat) (q : BitVec 2) (s : State) : exec (.programActivate core q) s = execProgramActivate core q s := rfl
theorem exec_move (core : Nat) (q : BitVec 2) (s : State) : exec (.move core q) s = execMove core q s := rfl
theorem exec_adds (core : Nat) (q : BitVec 2) (s : State) : exec (.adds core q) s = execAdds core q s := rfl
theorem exec_loopBack (core : Nat) (q : BitVec 2) (s : State) : exec (.loopBack core q) s = execLoopBack core q s := rfl
theorem exec_waitc (core : Nat) (q : BitVec 2) (s : State) : exec (.waitc core q) s = execWaitc core q s := rfl
theorem exec_signal (core : Nat) (q : BitVec 2) (s : State) : exec (.signal core q) s = execSignal core q s := rfl
theorem exec_endProg (core : Nat) (q : BitVec 2) (s : State) : exec (.endProg core q) s = execEndProg core q s := rfl
theorem exec_transferIssue (core : Nat) (q : BitVec 2) (s : State) : exec (.transferIssue core q) s = execTransferIssue core q s := rfl
theorem exec_transferComplete (core : Nat) (q : BitVec 2) (index : Nat) (s : State) : exec (.transferComplete core q index) s = execTransferComplete core q index s := rfl
theorem exec_atRun (th : Nat) (d a : Reg) (w : EngCode) (s : State) : exec (.atRun th d a w) s = execAtRun th d a w s := rfl
theorem exec_atBack (th : Nat) (d a : Reg) (pk : Pred) (s : State) : exec (.atBack th d a pk) s = execAtBack th d a pk s := rfl
theorem exec_atMerge (th : Nat) (d a : Reg) (pk : Pred) (s : State) : exec (.atMerge th d a pk) s = execAtMerge th d a pk s := rfl
theorem exec_upTake (th : Nat) (d a : Reg) (w : EngCode) (s : State) : exec (.upTake th d a w) s = execUpTake th d a w s := rfl
theorem exec_upNorm (th : Nat) (d a : Reg) (pk : Pred) (s : State) : exec (.upNorm th d a pk) s = execUpNorm th d a pk s := rfl
theorem exec_upApply (th : Nat) (d a : Reg) (pk : Pred) (s : State) : exec (.upApply th d a pk) s = execUpApply th d a pk s := rfl
theorem exec_upDigest (th : Nat) (d a : Reg) (pk : Pred) (s : State) : exec (.upDigest th d a pk) s = execUpDigest th d a pk s := rfl
theorem exec_rdSum (th : Nat) (d a : Reg) (w : EngCode) (s : State) : exec (.rdSum th d a w) s = execRdSum th d a w s := rfl
theorem exec_rdClose (th : Nat) (d a : Reg) (pk : Pred) (s : State) : exec (.rdClose th d a pk) s = execRdClose th d a pk s := rfl
theorem exec_rdHash (th : Nat) (d a : Reg) (pk : Pred) (s : State) : exec (.rdHash th d a pk) s = execRdHash th d a pk s := rfl
theorem exec_tmMove (th : Nat) (d a : Reg) (w : EngCode) (s : State) : exec (.tmMove th d a w) s = execTmMove th d a w s := rfl
theorem exec_tmLayer (th : Nat) (d a : Reg) (pk : Pred) (s : State) : exec (.tmLayer th d a pk) s = execTmLayer th d a pk s := rfl
theorem exec_tmHome (th : Nat) (d a : Reg) (pk : Pred) (s : State) : exec (.tmHome th d a pk) s = execTmHome th d a pk s := rfl
theorem exec_ckRun (th : Nat) (d a : Reg) (w : EngCode) (s : State) : exec (.ckRun th d a w) s = execCkRun th d a w s := rfl
theorem exec_depSatisfied (q : QueueRef) (s : State) : exec (.depSatisfied q) s = execDepSatisfied q s := rfl
theorem exec_lockGrantSlot (basin : Nat) (s : State) : exec (.lockGrantSlot basin) s = execLockGrantSlot basin s := rfl
theorem exec_passStart (q : QueueRef) (s : State) : exec (.passStart q) s = execPassStart q s := rfl
theorem exec_engineStopPoint (u : StopRef) (s : State) : exec (.engineStopPoint u) s = execEngineStopPoint u s := rfl
theorem exec_pageMove (engine : Nat) (s : State) : exec (.pageMove engine) s = execPageMove engine s := rfl
theorem exec_scheduleEntryStart (ctx : Nat) (s : State) : exec (.scheduleEntryStart ctx) s = execScheduleEntryStart ctx s := rfl
theorem exec_rekeyPage (slot ctx va : Nat) (s : State) : exec (.rekeyPage slot ctx va) s = execRekeyPage slot ctx va s := rfl
theorem exec_faultRecordTake (die : Nat) (s : State) : exec (.faultRecordTake die) s = execFaultRecordTake die s := rfl
theorem exec_bsFaultEnd (basin : Nat) (value : U64) (s : State) : exec (.bsFaultEnd basin value) s = execBsFaultEnd basin value s := rfl
theorem exec_patrolMem (space : MemSpace) (addr : Nat) (symbolErrors : List (Nat × Nat)) (s : State) : exec (.patrolMem space addr symbolErrors) s = execPatrolMem space addr symbolErrors s := rfl
theorem exec_patrolSram (basin pslot off bitErrors : Nat) (s : State) : exec (.patrolSram basin pslot off bitErrors) s = execPatrolSram basin pslot off bitErrors s := rfl
theorem exec_rateWindow (sample : RateSample) (s : State) : exec (.rateWindow sample) s = execRateWindow sample s := rfl
theorem exec_ticketModeChange (part : Nat) (s : State) : exec (.ticketModeChange part) s = execTicketModeChange part s := rfl
theorem exec_adRegister (p : Poster) (s : State) : exec (.adRegister p) s = execAdRegister p s := rfl
theorem exec_adPublish (p : Poster) (s : State) : exec (.adPublish p) s = execAdPublish p s := rfl
theorem exec_adRevoke (p : Poster) (s : State) : exec (.adRevoke p) s = execAdRevoke p s := rfl
theorem exec_adRemove (p : Poster) (s : State) : exec (.adRemove p) s = execAdRemove p s := rfl
theorem exec_adLoad (p : Poster) (s : State) : exec (.adLoad p) s = execAdLoad p s := rfl
theorem exec_adExport (p : Poster) (s : State) : exec (.adExport p) s = execAdExport p s := rfl
theorem exec_adQuery (p : Poster) (s : State) : exec (.adQuery p) s = execAdQuery p s := rfl
theorem exec_adMode (p : Poster) (s : State) : exec (.adMode p) s = execAdMode p s := rfl
theorem exec_rqAdmit (p : Poster) (s : State) : exec (.rqAdmit p) s = execRqAdmit p s := rfl
theorem exec_rqEnd (p : Poster) (s : State) : exec (.rqEnd p) s = execRqEnd p s := rfl
theorem exec_baseLoad (p : Poster) (s : State) : exec (.baseLoad p) s = execBaseLoad p s := rfl
theorem exec_baseSwitch (p : Poster) (s : State) : exec (.baseSwitch p) s = execBaseSwitch p s := rfl
theorem exec_baseRetire (p : Poster) (s : State) : exec (.baseRetire p) s = execBaseRetire p s := rfl
theorem exec_resCreate (p : Poster) (s : State) : exec (.resCreate p) s = execResCreate p s := rfl
theorem exec_resAppend (p : Poster) (s : State) : exec (.resAppend p) s = execResAppend p s := rfl
theorem exec_resTake (p : Poster) (s : State) : exec (.resTake p) s = execResTake p s := rfl
theorem exec_resClear (p : Poster) (s : State) : exec (.resClear p) s = execResClear p s := rfl
theorem exec_serviceQueuePoll (ctx : Nat) (s : State) : exec (.serviceQueuePoll ctx) s = execServiceQueuePoll ctx s := rfl
theorem exec_boundaryPoll  (s : State) : exec (.boundaryPoll) s = execBoundaryPoll s := rfl
theorem exec_revokeGraceExpiry (entry : Nat) (s : State) : exec (.revokeGraceExpiry entry) s = execRevokeGraceExpiry entry s := rfl
theorem exec_hiCrTail (fn : Nat) (ring : BitVec 2) (value : U64) (s : State) : exec (.hiCrTail fn ring value) s = execHiCrTail fn ring value s := rfl
theorem exec_ringEntryTake (fn : Nat) (ring : BitVec 2) (s : State) : exec (.ringEntryTake fn ring) s = execRingEntryTake fn ring s := rfl
theorem exec_slotReserve (p : Poster) (s : State) : exec (.slotReserve p) s = execSlotReserve p s := rfl
theorem exec_slotTeardown (p : Poster) (s : State) : exec (.slotTeardown p) s = execSlotTeardown p s := rfl
theorem exec_partCreate (p : Poster) (s : State) : exec (.partCreate p) s = execPartCreate p s := rfl
theorem exec_partDestroy (p : Poster) (s : State) : exec (.partDestroy p) s = execPartDestroy p s := rfl
theorem exec_fnBind (p : Poster) (s : State) : exec (.fnBind p) s = execFnBind p s := rfl
theorem exec_grpSet (p : Poster) (s : State) : exec (.grpSet p) s = execGrpSet p s := rfl
theorem exec_ctxCreate (p : Poster) (s : State) : exec (.ctxCreate p) s = execCtxCreate p s := rfl
theorem exec_ctxLoad (p : Poster) (s : State) : exec (.ctxLoad p) s = execCtxLoad p s := rfl
theorem exec_ctxAddslot (p : Poster) (s : State) : exec (.ctxAddslot p) s = execCtxAddslot p s := rfl
theorem exec_ctxEnd (p : Poster) (s : State) : exec (.ctxEnd p) s = execCtxEnd p s := rfl
theorem exec_migOffer (p : Poster) (s : State) : exec (.migOffer p) s = execMigOffer p s := rfl
theorem exec_migKey (p : Poster) (s : State) : exec (.migKey p) s = execMigKey p s := rfl
theorem exec_migDirty (p : Poster) (s : State) : exec (.migDirty p) s = execMigDirty p s := rfl
theorem exec_migFreeze (p : Poster) (s : State) : exec (.migFreeze p) s = execMigFreeze p s := rfl
theorem exec_migSave (p : Poster) (s : State) : exec (.migSave p) s = execMigSave p s := rfl
theorem exec_migThaw (p : Poster) (s : State) : exec (.migThaw p) s = execMigThaw p s := rfl
theorem exec_migDiscard (p : Poster) (s : State) : exec (.migDiscard p) s = execMigDiscard p s := rfl
theorem exec_migRestore (p : Poster) (s : State) : exec (.migRestore p) s = execMigRestore p s := rfl
theorem exec_migStart (p : Poster) (s : State) : exec (.migStart p) s = execMigStart p s := rfl
theorem exec_hiCrCtrl (fn : Nat) (ring : BitVec 2) (value : U64) (s : State) : exec (.hiCrCtrl fn ring value) s = execHiCrCtrl fn ring value s := rfl
theorem exec_hiErCtrl (fn : Nat) (ring : BitVec 2) (value : U64) (s : State) : exec (.hiErCtrl fn ring value) s = execHiErCtrl fn ring value s := rfl
theorem exec_hiErHead (fn : Nat) (ring : BitVec 2) (value : U64) (s : State) : exec (.hiErHead fn ring value) s = execHiErHead fn ring value s := rfl
theorem exec_interruptModTimer (fn : Nat) (ring : BitVec 2) (s : State) : exec (.interruptModTimer fn ring) s = execInterruptModTimer fn ring s := rfl
theorem exec_msixUnmask (fn : Nat) (vector : BitVec 5) (s : State) : exec (.msixUnmask fn vector) s = execMsixUnmask fn vector s := rfl
theorem exec_functionLevelReset (fn : Nat) (s : State) : exec (.functionLevelReset fn) s = execFunctionLevelReset fn s := rfl
theorem exec_configRequest (fn : Nat) (s : State) : exec (.configRequest fn) s = execConfigRequest fn s := rfl
theorem exec_atsInvalidation (fn addr len : Nat) (s : State) : exec (.atsInvalidation fn addr len) s = execAtsInvalidation fn addr len s := rfl
theorem exec_pcieFatalError  (s : State) : exec (.pcieFatalError) s = execPcieFatalError s := rfl
theorem exec_keyReserve (slot : Nat) (party : U128) (s : State) : exec (.keyReserve slot party) s = execKeyReserve slot party s := rfl
theorem exec_keyInstall (by_ : KeyIssuer) (slot : Nat) (secret : BitVec 256) (s : State) : exec (.keyInstall by_ slot secret) s = execKeyInstall by_ slot secret s := rfl
theorem exec_keyRotate (by_ : KeyIssuer) (slot : Nat) (secret : BitVec 256) (s : State) : exec (.keyRotate by_ slot secret) s = execKeyRotate by_ slot secret s := rfl
theorem exec_keyRevoke (by_ : KeyIssuer) (slot : Nat) (s : State) : exec (.keyRevoke by_ slot) s = execKeyRevoke by_ slot s := rfl
theorem exec_keyZeroize (by_ : KeyIssuer) (slot : Nat) (s : State) : exec (.keyZeroize by_ slot) s = execKeyZeroize by_ slot s := rfl
theorem exec_keyFree (by_ : KeyIssuer) (slot : Nat) (s : State) : exec (.keyFree by_ slot) s = execKeyFree by_ slot s := rfl
theorem exec_setBind (by_ : KeyIssuer) (slot : Nat) (record : List Byte) (s : State) : exec (.setBind by_ slot record) s = execSetBind by_ slot record s := rfl
theorem exec_getVersion (c : Conn) (version : Byte) (s : State) : exec (.getVersion c version) s = execGetVersion c version s := rfl
theorem exec_getCapabilities (c : Conn) (version : Byte) (s : State) : exec (.getCapabilities c version) s = execGetCapabilities c version s := rfl
theorem exec_negotiateAlgorithms (c : Conn) (version : Byte) (offer : AlgoOffer) (s : State) : exec (.negotiateAlgorithms c version offer) s = execNegotiateAlgorithms c version offer s := rfl
theorem exec_getDigests (c : Conn) (version : Byte) (s : State) : exec (.getDigests c version) s = execGetDigests c version s := rfl
theorem exec_getCertificate (c : Conn) (version : Byte) (slot off len : Nat) (s : State) : exec (.getCertificate c version slot off len) s = execGetCertificate c version slot off len s := rfl
theorem exec_challenge (c : Conn) (version : Byte) (slot : Nat) (nonce : List Byte) (s : State) : exec (.challenge c version slot nonce) s = execChallenge c version slot nonce s := rfl
theorem exec_getMeasurements (c : Conn) (version index : Byte) (sign : Bool) (nonce : List Byte) (s : State) : exec (.getMeasurements c version index sign nonce) s = execGetMeasurements c version index sign nonce s := rfl
theorem exec_keyExchange (c : Conn) (version : Byte) (exchange : List Byte) (kemDigest : Option (List Byte)) (s : State) : exec (.keyExchange c version exchange kemDigest) s = execKeyExchange c version exchange kemDigest s := rfl
theorem exec_finishMsg (c : Conn) (version : Byte) (session : Nat) (verify : List Byte) (s : State) : exec (.finishMsg c version session verify) s = execFinishMsg c version session verify s := rfl
theorem exec_heartbeat (c : Conn) (version : Byte) (session : Nat) (s : State) : exec (.heartbeat c version session) s = execHeartbeat c version session s := rfl
theorem exec_keyUpdate (c : Conn) (version : Byte) (session : Nat) (op : Byte) (s : State) : exec (.keyUpdate c version session op) s = execKeyUpdate c version session op s := rfl
theorem exec_endSession (c : Conn) (version : Byte) (session : Nat) (s : State) : exec (.endSession c version session) s = execEndSession c version session s := rfl
theorem exec_chunkSend (c : Conn) (version : Byte) (handle seq : Nat) (last : Bool) (chunk : List Byte) (s : State) : exec (.chunkSend c version handle seq last chunk) s = execChunkSend c version handle seq last chunk s := rfl
theorem exec_chunkGet (c : Conn) (version : Byte) (_handle seq : Nat) (s : State) : exec (.chunkGet c version _handle seq) s = execChunkGet c version _handle seq s := rfl
theorem exec_hkPqsig (c : Conn) (s : State) : exec (.hkPqsig c) s = execHkPqsig c s := rfl
theorem exec_hkReport (c : Conn) (nonce : List Byte) (mask : U32) (s : State) : exec (.hkReport c nonce mask) s = execHkReport c nonce mask s := rfl
theorem exec_hkKemkey (c : Conn) (s : State) : exec (.hkKemkey c) s = execHkKemkey c s := rfl
theorem exec_hkKemek (c : Conn) (key : List Byte) (s : State) : exec (.hkKemek c key) s = execHkKemek c key s := rfl
theorem exec_hkKemct (c : Conn) (session : Nat) (s : State) : exec (.hkKemct c session) s = execHkKemct c session s := rfl
theorem exec_hkKeyop (c : Conn) (session : Option Nat) (party : U128) (op : Byte) (slot : Nat) (payload : List Byte) (s : State) : exec (.hkKeyop c session party op slot payload) s = execHkKeyop c session party op slot payload s := rfl
theorem exec_getTdispVersion (fn : Nat) (s : State) : exec (.getTdispVersion fn) s = execGetTdispVersion fn s := rfl
theorem exec_getTdispCapabilities (fn : Nat) (s : State) : exec (.getTdispCapabilities fn) s = execGetTdispCapabilities fn s := rfl
theorem exec_lockInterface (fn : Nat) (s : State) : exec (.lockInterface fn) s = execLockInterface fn s := rfl
theorem exec_getDeviceInterfaceReport (fn : Nat) (s : State) : exec (.getDeviceInterfaceReport fn) s = execGetDeviceInterfaceReport fn s := rfl
theorem exec_getDeviceInterfaceState (fn : Nat) (s : State) : exec (.getDeviceInterfaceState fn) s = execGetDeviceInterfaceState fn s := rfl
theorem exec_startInterfaceRequest (fn : Nat) (s : State) : exec (.startInterfaceRequest fn) s = execStartInterfaceRequest fn s := rfl
theorem exec_stopInterfaceRequest (fn : Nat) (s : State) : exec (.stopInterfaceRequest fn) s = execStopInterfaceRequest fn s := rfl
theorem exec_flitRx (link : Nat) (flit : List Byte) (fec : FecOutcome) (s : State) : exec (.flitRx link flit fec) s = execFlitRx link flit fec s := rfl
theorem exec_streamRecordRx (src vs : Nat) (s : State) : exec (.streamRecordRx src vs) s = execStreamRecordRx src vs s := rfl
theorem exec_rdRecordRx (src vs : Nat) (s : State) : exec (.rdRecordRx src vs) s = execRdRecordRx src vs s := rfl
theorem exec_weirNoticeRx (src : Nat) (s : State) : exec (.weirNoticeRx src) s = execWeirNoticeRx src s := rfl
theorem exec_revokeRecordRx (src : Nat) (s : State) : exec (.revokeRecordRx src) s = execRevokeRecordRx src s := rfl
theorem exec_revokeAckRx (src : Nat) (s : State) : exec (.revokeAckRx src) s = execRevokeAckRx src s := rfl
theorem exec_rdTimeout (group seq : Nat) (s : State) : exec (.rdTimeout group seq) s = execRdTimeout group seq s := rfl
theorem exec_rdCloseTimeout (group : Nat) (s : State) : exec (.rdCloseTimeout group) s = execRdCloseTimeout group s := rfl
theorem exec_reGroupEpoch (group : Nat) (value : U64) (s : State) : exec (.reGroupEpoch group value) s = execReGroupEpoch group value s := rfl
theorem exec_linkEnable (link : Nat) (en : Bool) (s : State) : exec (.linkEnable link en) s = execLinkEnable link en s := rfl
theorem exec_linkTrainDone (link : Nat) (s : State) : exec (.linkTrainDone link) s = execLinkTrainDone link s := rfl
theorem exec_linkTrainRetry (link : Nat) (s : State) : exec (.linkTrainRetry link) s = execLinkTrainRetry link s := rfl
theorem exec_linkIdentDone (link : Nat) (peer : BitVec 12) (s : State) : exec (.linkIdentDone link peer) s = execLinkIdentDone link peer s := rfl
theorem exec_linkDown (link : Nat) (s : State) : exec (.linkDown link) s = execLinkDown link s := rfl
theorem exec_streamEnable (vs : Nat) (value : U64) (s : State) : exec (.streamEnable vs value) s = execStreamEnable vs value s := rfl
theorem exec_vinSample (vinDv : Nat) (droop railLow : Bool) (s : State) : exec (.vinSample vinDv droop railLow) s = execVinSample vinDv droop railLow s := rfl
theorem exec_weirFall  (s : State) : exec (.weirFall) s = execWeirFall s := rfl
theorem exec_sagNEdge (high : Bool) (s : State) : exec (.sagNEdge high) s = execSagNEdge high s := rfl
theorem exec_weirLevel4Entry  (s : State) : exec (.weirLevel4Entry) s = execWeirLevel4Entry s := rfl
theorem exec_weirLevel4Exit  (s : State) : exec (.weirLevel4Exit) s = execWeirLevel4Exit s := rfl
theorem exec_unitStop (u : GateRef) (s : State) : exec (.unitStop u) s = execUnitStop u s := rfl
theorem exec_unitEnable (u : GateRef) (s : State) : exec (.unitEnable u) s = execUnitEnable u s := rfl
theorem exec_unitGated (u : GateRef) (s : State) : exec (.unitGated u) s = execUnitGated u s := rfl
theorem exec_unitStarted (u : GateRef) (s : State) : exec (.unitStarted u) s = execUnitStarted u s := rfl
theorem exec_calibrationPeriod (sample : CalSample) (s : State) : exec (.calibrationPeriod sample) s = execCalibrationPeriod sample s := rfl
theorem exec_calNow (sample : CalSample) (s : State) : exec (.calNow sample) s = execCalNow sample s := rfl
theorem exec_copyCore (basin pslot : Nat) (s : State) : exec (.copyCore basin pslot) s = execCopyCore basin pslot s := rfl
theorem exec_deadCore (basin pslot : Nat) (s : State) : exec (.deadCore basin pslot) s = execDeadCore basin pslot s := rfl
theorem exec_testCore (basin pslot : Nat) (pass : Bool) (s : State) : exec (.testCore basin pslot pass) s = execTestCore basin pslot pass s := rfl
theorem exec_bsCoreCtrl (basin slot : Nat) (value : U64) (s : State) : exec (.bsCoreCtrl basin slot value) s = execBsCoreCtrl basin slot value s := rfl
theorem exec_bsBasinCtrl (basin : Nat) (value : U64) (s : State) : exec (.bsBasinCtrl basin value) s = execBsBasinCtrl basin value s := rfl
theorem exec_glVcoreCtrl (actor : Actor) (value : U64) (s : State) : exec (.glVcoreCtrl actor value) s = execGlVcoreCtrl actor value s := rfl
theorem exec_tollhouseRailUp (helperOk : Bool) (modId : BitVec 4) (s : State) : exec (.tollhouseRailUp helperOk modId) s = execTollhouseRailUp helperOk modId s := rfl
theorem exec_inrushDone  (s : State) : exec (.inrushDone) s = execInrushDone s := rfl
theorem exec_pwrEnRise  (s : State) : exec (.pwrEnRise) s = execPwrEnRise s := rfl
theorem exec_pwrEnFall  (s : State) : exec (.pwrEnFall) s = execPwrEnFall s := rfl
theorem exec_perstNFall  (s : State) : exec (.perstNFall) s = execPerstNFall s := rfl
theorem exec_perstNRise  (s : State) : exec (.perstNRise) s = execPerstNRise s := rfl
theorem exec_refclkChange (present : Bool) (s : State) : exec (.refclkChange present) s = execRefclkChange present s := rfl
theorem exec_currentLimitTrip  (s : State) : exec (.currentLimitTrip) s = execCurrentLimitTrip s := rfl
theorem exec_thermalSample (dieC stackC : List Nat) (s : State) : exec (.thermalSample dieC stackC) s = execThermalSample dieC stackC s := rfl
theorem exec_telemetryPeriod (powerW tjC vinDv : Nat) (s : State) : exec (.telemetryPeriod powerW tjC vinDv) s = execTelemetryPeriod powerW tjC vinDv s := rfl
theorem exec_bundleGo (value : U64) (s : State) : exec (.bundleGo value) s = execBundleGo value s := rfl
theorem exec_stageVerifyDone  (s : State) : exec (.stageVerifyDone) s = execStageVerifyDone s := rfl
theorem exec_stageConfigDone  (s : State) : exec (.stageConfigDone) s = execStageConfigDone s := rfl
theorem exec_stageTrainDone (result : TrainResult) (s : State) : exec (.stageTrainDone result) s = execStageTrainDone result s := rfl
theorem exec_stageInitDone  (s : State) : exec (.stageInitDone) s = execStageInitDone s := rfl
theorem exec_stageReleaseDone  (s : State) : exec (.stageReleaseDone) s = execStageReleaseDone s := rfl
theorem exec_telemetry (src : ThSource) (powerW tjC vinDv : Nat) (s : State) : exec (.telemetry src powerW tjC vinDv) s = execTelemetry src powerW tjC vinDv s := rfl
theorem exec_report (src : ThSource) (s : State) : exec (.report src) s = execReport src s := rfl
theorem exec_zeroizeAll (src : ThSource) (s : State) : exec (.zeroizeAll src) s = execZeroizeAll src s := rfl
theorem exec_resetWarm (src : ThSource) (s : State) : exec (.resetWarm src) s = execResetWarm src s := rfl
theorem exec_resetModule (src : ThSource) (s : State) : exec (.resetModule src) s = execResetModule src s := rfl
theorem exec_powerOff (src : ThSource) (s : State) : exec (.powerOff src) s = execPowerOff src s := rfl
theorem exec_cfgWrite (src : ThSource) (s : State) : exec (.cfgWrite src) s = execCfgWrite src s := rfl
theorem exec_setEndpointId (eid : Byte) (s : State) : exec (.setEndpointId eid) s = execSetEndpointId eid s := rfl
theorem exec_i3cDynamicAddress (_method : I3cMethod) (addr : BitVec 7) (s : State) : exec (.i3cDynamicAddress _method addr) s = execI3cDynamicAddress _method addr s := rfl
theorem exec_pldmSensorRead (sensor : SensorId) (s : State) : exec (.pldmSensorRead sensor) s = execPldmSensorRead sensor s := rfl
theorem exec_platformEventMessage  (s : State) : exec (.platformEventMessage) s = execPlatformEventMessage s := rfl
theorem exec_registerWrite (actor : Actor) (off size : Nat) (value : U64) (s : State) : exec (.registerWrite actor off size value) s = execRegisterWrite actor off size value s := rfl
theorem exec_commandComplete (q : QueueRef) (s : State) : exec (.commandComplete q) s = execCommandComplete q s := rfl
theorem exec_tollhouseRailDown  (s : State) : exec (.tollhouseRailDown) s = execTollhouseRailDown s := rfl
theorem exec_ideKm (session : Option Nat) (stream : Nat) (op : IdeOp) (s : State) : exec (.ideKm session stream op) s = execIdeKm session stream op s := rfl
theorem exec_linkReturnTimeout (vs : Nat) (s : State) : exec (.linkReturnTimeout vs) s = execLinkReturnTimeout vs s := rfl
theorem exec_teardownAckTimeout (slot peer : Nat) (s : State) : exec (.teardownAckTimeout slot peer) s = execTeardownAckTimeout slot peer s := rfl

end Sys2Proof.Machine
end

