-- ==== Sys2Proof/Laws/Maps.lean ====
section
/-! SUPPORT. What the sparse maps and byte stores do: an entry reads back, the others stay, and the canonical form is
kept by every operation over memory. -/

namespace Sys2Proof.Machine

section Maps
variable {α : Type}

@[simp] theorem SMap.get_nil (d : α) (k : Nat) : SMap.get d k [] = d := rfl

theorem SMap.get_cons (d : α) (k k' : Nat) (v : α) (m : SMap α) :
    SMap.get d k ((k', v) :: m) = if k' = k then v else SMap.get d k m := rfl

theorem SMap.get_place_same (d : α) (k : Nat) (v : α) (m : SMap α) (h : ∀ e ∈ m, e.1 ≠ k) :
    SMap.get d k (SMap.place k v m) = v := by
  induction m with
  | nil => simp [SMap.place, SMap.get_cons]
  | cons e m ih =>
    obtain ⟨k', v'⟩ := e
    have hk : k' ≠ k := h (k', v') (by simp)
    simp only [SMap.place]
    split
    · simp [SMap.get_cons]
    · simp [SMap.get_cons, hk, ih fun e he => h e (by simp [he])]

theorem SMap.get_place_other (d : α) (k j : Nat) (v : α) (m : SMap α) (h : j ≠ k) :
    SMap.get d j (SMap.place k v m) = SMap.get d j m := by
  induction m with
  | nil => simp [SMap.place, SMap.get_cons, Ne.symm h]
  | cons e m ih =>
    obtain ⟨k', v'⟩ := e
    simp only [SMap.place]
    split
    · simp [SMap.get_cons, Ne.symm h]
    · simp [SMap.get_cons, ih]

theorem SMap.get_filter_same (d : α) (k : Nat) (m : SMap α) : SMap.get d k (m.filter fun e => e.1 != k) = d := by
  induction m with
  | nil => rfl
  | cons e m ih =>
    obtain ⟨k', v'⟩ := e
    by_cases hk : k' = k <;> simp [SMap.get_cons, hk, ih]

theorem SMap.get_filter_other (d : α) (k j : Nat) (m : SMap α) (h : j ≠ k) :
    SMap.get d j (m.filter fun e => e.1 != k) = SMap.get d j m := by
  induction m with
  | nil => rfl
  | cons e m ih =>
    obtain ⟨k', v'⟩ := e
    by_cases hk : k' = k
    · subst hk; simp [SMap.get_cons, ih, Ne.symm h]
    · simp [SMap.get_cons, hk, ih]

/-- What is put at a key reads back. -/
@[simp] theorem SMap.get_put_same [DecidableEq α] (d : α) (k : Nat) (v : α) (m : SMap α) :
    SMap.get d k (SMap.put d k v m) = v := by
  unfold SMap.put
  split
  · simp [SMap.get_filter_same, *]
  · exact SMap.get_place_same _ _ _ _ (by simp)

/-- Every other key reads as before. -/
theorem SMap.get_put_other [DecidableEq α] (d : α) (k j : Nat) (v : α) (m : SMap α) (h : j ≠ k) :
    SMap.get d j (SMap.put d k v m) = SMap.get d j m := by
  unfold SMap.put
  split
  · exact SMap.get_filter_other _ _ _ _ h
  · rw [SMap.get_place_other _ _ _ _ _ h, SMap.get_filter_other _ _ _ _ h]

theorem SMap.get_put [DecidableEq α] (d : α) (k j : Nat) (v : α) (m : SMap α) :
    SMap.get d j (SMap.put d k v m) = if j = k then v else SMap.get d j m := by
  split
  · subst_vars; exact SMap.get_put_same d _ v m
  · exact SMap.get_put_other _ _ _ _ _ ‹_›

@[simp] theorem SMap.find_set_same (k : Nat) (v : α) (m : SMap α) : SMap.find k (SMap.set k v m) = some v := by
  induction m with
  | nil => simp [SMap.set, SMap.find]
  | cons e m ih =>
    obtain ⟨k', v'⟩ := e
    simp only [SMap.set]
    split
    · simp [SMap.find]
    · split
      · simp [SMap.find]
      · rename_i h; simp [SMap.find, Ne.symm h, ih]

theorem SMap.find_set_other (k j : Nat) (v : α) (m : SMap α) (h : j ≠ k) :
    SMap.find j (SMap.set k v m) = SMap.find j m := by
  induction m with
  | nil => simp [SMap.set, SMap.find, Ne.symm h]
  | cons e m ih =>
    obtain ⟨k', v'⟩ := e
    simp only [SMap.set]
    split
    · simp [SMap.find, Ne.symm h]
    · split
      · subst_vars; simp [SMap.find, Ne.symm h]
      · simp [SMap.find, ih]

theorem SMap.find_del (k j : Nat) (m : SMap α) :
    SMap.find j (SMap.del k m) = if j = k then none else SMap.find j m := by
  induction m with
  | nil => simp [SMap.del, SMap.find]
  | cons e m ih =>
    obtain ⟨k', v'⟩ := e
    simp only [SMap.del, List.filter_cons] at ih ⊢
    by_cases hk : k' = k
    · subst hk; simp only [bne_self_eq_false, Bool.false_eq_true, if_false, ih, SMap.find]
      by_cases hj : j = k'
      · simp [hj]
      · simp [hj, Ne.symm hj]
    · simp only [bne_iff_ne, ne_eq, hk, not_false_eq_true, if_true, SMap.find, ih]
      by_cases hj : j = k
      · subst hj; simp [hk]
      · simp [hj]

/-! ### The canonical form -/

theorem SMap.sorted_mono {lo lo' : Nat} (m : SMap α) (h : lo' ≤ lo) (hs : SMap.sorted lo m = true) :
    SMap.sorted lo' m = true := by
  cases m with
  | nil => rfl
  | cons e m => obtain ⟨k, v⟩ := e; simp [SMap.sorted] at hs ⊢; exact ⟨by omega, hs.2⟩

theorem SMap.sorted_filter (lo : Nat) (p : Nat × α → Bool) (m : SMap α) (h : SMap.sorted lo m = true) :
    SMap.sorted lo (m.filter p) = true := by
  induction m generalizing lo with
  | nil => rfl
  | cons e m ih =>
    obtain ⟨k, v⟩ := e
    simp [SMap.sorted] at h
    simp only [List.filter_cons]
    split
    · simp [SMap.sorted, h.1, ih _ h.2]
    · exact SMap.sorted_mono _ (by omega) (ih _ h.2)

theorem SMap.sorted_place (lo k : Nat) (v : α) (m : SMap α) (hk : lo ≤ k) (hn : ∀ e ∈ m, e.1 ≠ k)
    (h : SMap.sorted lo m = true) : SMap.sorted lo (SMap.place k v m) = true := by
  induction m generalizing lo with
  | nil => simp [SMap.place, SMap.sorted, hk]
  | cons e m ih =>
    obtain ⟨k', v'⟩ := e
    simp [SMap.sorted] at h
    have : k' ≠ k := hn (k', v') (by simp)
    simp only [SMap.place]
    split
    · simp [SMap.sorted, hk, h.2]; omega
    · simp only [SMap.sorted, h.1, decide_true, Bool.true_and]
      exact ih _ (by omega) (fun e he => hn e (by simp [he])) h.2

/-- A map keeps its keys rising when a key is set. -/
theorem SMap.sorted_put [DecidableEq α] (d : α) (k : Nat) (v : α) (m : SMap α) (h : SMap.sorted 0 m = true) :
    SMap.sorted 0 (SMap.put d k v m) = true := by
  unfold SMap.put
  split
  · exact SMap.sorted_filter _ _ _ h
  · exact SMap.sorted_place _ _ _ _ (by omega) (by simp) (SMap.sorted_filter _ _ _ h)

theorem SMap.mem_place (k : Nat) (v : α) (m : SMap α) (e : Nat × α) (h : e ∈ SMap.place k v m) : e = (k, v) ∨ e ∈ m := by
  induction m with
  | nil => simpa [SMap.place] using h
  | cons x m ih =>
    obtain ⟨k', v'⟩ := x
    simp only [SMap.place] at h
    split at h
    · simpa using h
    · simp only [List.mem_cons] at h ⊢
      rcases h with h | h
      · exact .inr (.inl h)
      · rcases ih h with h | h
        · exact .inl h
        · exact .inr (.inr h)

/-- No entry equals the default after a key is set. -/
theorem SMap.listed_put [DecidableEq α] (d : α) (k : Nat) (v : α) (m : SMap α) (h : ∀ e ∈ m, e.2 ≠ d) :
    ∀ e ∈ SMap.put d k v m, e.2 ≠ d := by
  intro e he
  unfold SMap.put at he
  split at he
  · exact h e (List.mem_filter.1 he).1
  · rcases SMap.mem_place _ _ _ _ he with rfl | he
    · assumption
    · exact h e (List.mem_filter.1 he).1

end Maps

/-! ### Byte stores -/

theorem Mem.wf_iff (m : Mem) : m.wf = true ↔ SMap.sorted 0 m = true ∧ ∀ e ∈ m, e.2 ≠ 0 := by
  simp [Mem.wf, List.all_eq_true]

/-- Writing a byte keeps the canonical form. -/
theorem Mem.wf_setByte (m : Mem) (a : Nat) (b : Byte) (h : m.wf = true) : (m.setByte a b).wf = true := by
  rw [Mem.wf_iff] at h ⊢
  exact ⟨SMap.sorted_put _ _ _ _ h.1, SMap.listed_put _ _ _ _ h.2⟩

theorem SMap.get_append {α : Type} (d : α) (k : Nat) (m m' : SMap α) :
    SMap.get d k (m ++ m') = if ∃ e ∈ m, e.1 = k then SMap.get d k m else SMap.get d k m' := by
  induction m with
  | nil => simp
  | cons e m ih =>
    obtain ⟨k', v⟩ := e
    by_cases h : k' = k
    · simp [SMap.get_cons, h]
    · have : (∃ e ∈ (k', v) :: m, e.1 = k) ↔ ∃ e ∈ m, e.1 = k := by simp [h]
      simp only [List.cons_append, SMap.get_cons, h, if_false, ih, this]

/-- A filter that keeps every entry of a key keeps what is read at it. -/
theorem SMap.get_filter {α : Type} (d : α) (k : Nat) (p : Nat × α → Bool) (m : SMap α) (h : ∀ v, p (k, v) = true) :
    SMap.get d k (m.filter p) = SMap.get d k m := by
  induction m with
  | nil => rfl
  | cons e m ih =>
    obtain ⟨k', v⟩ := e
    by_cases hk : k' = k
    · subst hk; simp [h, SMap.get_cons]
    · by_cases hp : p (k', v) = true <;> simp [hp, SMap.get_cons, hk, ih]

theorem SMap.get_none {α : Type} (d : α) (k : Nat) (m : SMap α) (h : ∀ e ∈ m, e.1 ≠ k) : SMap.get d k m = d := by
  induction m with
  | nil => rfl
  | cons e m ih =>
    rw [SMap.get_cons, if_neg (h e (by simp)), ih fun x hx => h x (by simp [hx])]

theorem SMap.sorted_append {α : Type} (m m' : SMap α) (lo mid : Nat) (h : SMap.sorted lo m = true) (h' : SMap.sorted mid m' = true)
    (hm : ∀ e ∈ m, e.1 < mid) (hl : lo ≤ mid) : SMap.sorted lo (m ++ m') = true := by
  induction m generalizing lo with
  | nil => exact SMap.sorted_mono _ hl h'
  | cons e m ih =>
    obtain ⟨k, v⟩ := e
    simp [SMap.sorted] at h
    have := hm (k, v) (by simp)
    simp only [List.cons_append, SMap.sorted, h.1, decide_true, Bool.true_and]
    exact ih _ h.2 (fun e he => hm e (by simp [he])) this

/-- Every key is at least `lo` where a filter lets none below pass. -/
theorem SMap.sorted_from {α : Type} (lo lo' : Nat) (p : Nat × α → Bool) (m : SMap α) (h : SMap.sorted lo m = true)
    (hp : ∀ e : Nat × α, p e = true → lo' ≤ e.1) : SMap.sorted lo' (m.filter p) = true := by
  induction m generalizing lo with
  | nil => rfl
  | cons e m ih =>
    obtain ⟨k, v⟩ := e
    simp [SMap.sorted] at h
    simp only [List.filter_cons]
    split
    · simp [SMap.sorted, hp _ ‹_›, SMap.sorted_filter _ _ _ h.2]
    · exact ih _ h.2

/-- The cells of a range lie in it, rise, and list no byte 0. -/
theorem Mem.cells_in (bs : List Byte) : ∀ (a : Nat), ∀ e ∈ Mem.cells a bs, a ≤ e.1 ∧ e.1 < a + bs.length ∧ e.2 ≠ 0 := by
  induction bs with
  | nil => intro a e he; simp [Mem.cells] at he
  | cons b bs ih =>
    intro a e he
    simp only [Mem.cells] at he
    split at he
    · have := ih _ e he; simp only [List.length_cons]; exact ⟨by omega, by omega, this.2.2⟩
    · rcases List.mem_cons.1 he with rfl | he
      · exact ⟨Nat.le_refl _, by simp, ‹_›⟩
      · have := ih _ e he; simp only [List.length_cons]; exact ⟨by omega, by omega, this.2.2⟩

theorem Mem.cells_sorted (bs : List Byte) : ∀ (a : Nat), SMap.sorted a (Mem.cells a bs) = true := by
  induction bs with
  | nil => exact fun _ => rfl
  | cons b bs ih =>
    intro a
    simp only [Mem.cells]
    split
    · exact SMap.sorted_mono _ (by omega) (ih _)
    · simp [SMap.sorted, ih]

theorem Mem.get_cells (bs : List Byte) : ∀ (a i : Nat) (h : i < bs.length), SMap.get 0 (a + i) (Mem.cells a bs) = bs[i] := by
  induction bs with
  | nil => intro a i h; simp at h
  | cons b bs ih =>
    intro a i h
    simp only [Mem.cells]
    cases i with
    | zero =>
      split
      · rename_i hb
        rw [SMap.get_none _ _ _ fun e he => by have := Mem.cells_in _ _ e he; omega]; simp [hb]
      · simp [SMap.get_cons]
    | succ i =>
      have := ih (a + 1) i (by simpa using h)
      rw [show a + 1 + i = a + (i + 1) by omega] at this
      split
      · simpa using this
      · rw [SMap.get_cons, if_neg (by omega)]; simpa using this

/-- Writing bytes keeps the canonical form. -/
theorem Mem.wf_write (bs : List Byte) (m : Mem) (a : Nat) (h : m.wf = true) : (m.write a bs).wf = true := by
  rw [Mem.wf_iff] at h ⊢
  refine ⟨?_, fun e he => ?_⟩
  · have h3 := SMap.sorted_from 0 (a + bs.length) (fun e => decide (a + bs.length ≤ e.1)) m h.1 (by simp)
    have h2 := SMap.sorted_append _ _ _ _ (Mem.cells_sorted bs a) h3 (fun e he => (Mem.cells_in _ _ e he).2.1) (by omega)
    exact SMap.sorted_append _ _ _ _ (SMap.sorted_filter _ _ _ h.1) h2 (fun e he => by simpa using (List.mem_filter.1 he).2) (by omega)
  · simp only [Mem.write, List.mem_append, List.mem_filter] at he
    rcases he with he | he | he
    · exact h.2 e he.1
    · exact (Mem.cells_in _ _ e he).2.2
    · exact h.2 e he.1

/-- Clearing a range keeps the canonical form. -/
theorem Mem.wf_clear (m : Mem) (a n : Nat) (h : m.wf = true) : (m.clear a n).wf = true := by
  rw [Mem.wf_iff] at h ⊢
  exact ⟨SMap.sorted_filter _ _ _ h.1, fun e he => h.2 e (List.mem_filter.1 he).1⟩

theorem Mem.wf_nil : Mem.wf [] = true := rfl

/-- A byte written reads back; the others stay. -/
theorem Mem.byte_setByte (m : Mem) (a a' : Nat) (b : Byte) :
    (m.setByte a b).byte a' = if a' = a then b else m.byte a' := by
  simp [Mem.byte, Mem.setByte, SMap.get_put]

/-- A byte outside a written range stays. -/
theorem Mem.byte_write_outside (bs : List Byte) : ∀ (m : Mem) (a a' : Nat), (a' < a ∨ a + bs.length ≤ a') →
    (m.write a bs).byte a' = m.byte a' := by
  intro m a a' h
  have hc : ¬∃ e ∈ Mem.cells a bs, e.1 = a' := by
    rintro ⟨e, he, rfl⟩; have := Mem.cells_in _ _ e he; omega
  simp only [Mem.byte, Mem.write, SMap.get_append, hc, if_false]
  rcases h with h | h
  · split
    · exact SMap.get_filter _ _ _ _ (by simp [h])
    · rename_i hn
      rw [SMap.get_none _ _ _ fun e he => by have := (List.mem_filter.1 he).2; simp at this; omega,
        ← SMap.get_filter 0 a' (fun e => decide (e.1 < a)) m (by simp [h])]
      exact (SMap.get_none _ _ _ fun e he hk => hn ⟨e, he, hk⟩).symm
  · rw [if_neg]
    · exact SMap.get_filter _ _ _ _ (by simp [h])
    · rintro ⟨e, he, rfl⟩; have := (List.mem_filter.1 he).2; simp at this; omega

/-- Each byte of a written range holds what was written. -/
theorem Mem.byte_write_inside (bs : List Byte) : ∀ (m : Mem) (a i : Nat) (h : i < bs.length),
    (m.write a bs).byte (a + i) = bs[i] := by
  intro m a i h
  simp only [Mem.byte, Mem.write, SMap.get_append]
  rw [if_neg (by rintro ⟨e, he, hk⟩; have := (List.mem_filter.1 he).2; simp at this; omega)]
  split
  · exact Mem.get_cells bs a i h
  · rename_i hn
    rw [SMap.get_none _ _ _ fun e he => by have := (List.mem_filter.1 he).2; simp at this; omega, ← Mem.get_cells bs a i h]
    exact (SMap.get_none _ _ _ fun e he hk => hn ⟨e, he, hk⟩).symm

/-- Walking over a store gives its bytes. -/
theorem Mem.walk_eq (n : Nat) : ∀ (m : Mem) (a : Nat), Mem.walk m a n = (List.range n).map fun i => m.byte (a + i) := by
  induction n with
  | zero => intro m a; cases m <;> rfl
  | succ n ih =>
    intro m a
    rw [List.range_succ_eq_map, List.map_cons, List.map_map]
    match m with
    | [] => exact congrArg (_ :: ·) ((ih [] (a + 1)).trans (List.map_congr_left fun _ _ => rfl))
    | (k, v) :: m =>
      simp only [Mem.walk]
      split
      · subst_vars
        simp only [ih, Mem.byte, SMap.get_cons, Nat.add_zero, if_true, List.cons.injEq, true_and]
        exact List.map_congr_left fun i _ => by simp only [Function.comp]; rw [if_neg (by omega), show k + 1 + i = k + i.succ by omega]
      · simp only [ih, Nat.add_zero, List.cons.injEq, true_and]
        exact List.map_congr_left fun i _ => by simp only [Function.comp]; rw [show a + 1 + i = a + i.succ by omega]

/-- A range reads byte by byte. -/
theorem Mem.read_eq (m : Mem) (a n : Nat) : m.read a n = (List.range n).map fun i => m.byte (a + i) := by
  rw [Mem.read, Mem.walk_eq]
  exact List.map_congr_left fun i hi => SMap.get_filter _ _ _ _ fun v => by have := List.mem_range.1 hi; simp; omega

/-- A range written reads back. -/
theorem Mem.read_write_same (bs : List Byte) (m : Mem) (a : Nat) : (m.write a bs).read a bs.length = bs := by
  rw [Mem.read_eq]
  exact List.ext_getElem (by simp) fun i h _ => by simp at h; simp [Mem.byte_write_inside _ _ _ _ h]

/-- A cleared range reads 0; the rest stays. -/
theorem Mem.byte_clear (m : Mem) (a n a' : Nat) :
    (m.clear a n).byte a' = if a ≤ a' ∧ a' < a + n then 0 else m.byte a' := by
  induction m with
  | nil => simp [Mem.clear, Mem.byte]
  | cons e m ih =>
    obtain ⟨k, v⟩ := e
    simp only [Mem.clear, Mem.byte, List.filter_cons] at ih ⊢
    by_cases hk : k < a ∨ a + n ≤ k
    · simp only [Bool.or_eq_true, decide_eq_true_eq, hk, if_true, SMap.get_cons, ih]
      by_cases h : k = a'
      · subst h; simp only [if_true]; rw [if_neg (by omega)]
      · simp [h]
    · simp only [Bool.or_eq_true, decide_eq_true_eq, hk, if_false, SMap.get_cons, ih]
      by_cases h : k = a'
      · subst h; simp only [if_true]; rw [if_pos (by omega), if_pos (by omega)]
      · simp [h]

end Sys2Proof.Machine
end

