-- ==== Sys2Proof/Laws/State.lean ====
section
/-! SUPPORT. One lemma per field of the block and per named update of it, true by definition; and what the units read
after an update. -/

namespace Sys2Proof.Machine

/-! ### The fields an update leaves alone -/

@[simp] theorem Block.setCore_freeCtr (b : Block) (c : Nat) (v : Core) : (b.setCore c v).freeCtr = b.freeCtr := rfl
@[simp] theorem Block.setCore_nextId (b : Block) (c : Nat) (v : Core) : (b.setCore c v).nextId = b.nextId := rfl
@[simp] theorem Block.setCore_lastIssued (b : Block) (c : Nat) (v : Core) : (b.setCore c v).lastIssued = b.lastIssued := rfl
@[simp] theorem Block.setCore_stores (b : Block) (c : Nat) (v : Core) : (b.setCore c v).stores = b.stores := rfl
@[simp] theorem Block.setCore_rekeys (b : Block) (c : Nat) (v : Core) : (b.setCore c v).rekeys = b.rekeys := rfl
@[simp] theorem Block.setCore_rooms (b : Block) (c : Nat) (v : Core) : (b.setCore c v).rooms = b.rooms := rfl
@[simp] theorem Block.setCore_deferred (b : Block) (c : Nat) (v : Core) : (b.setCore c v).deferred = b.deferred := rfl
@[simp] theorem Block.setCore_basins (b : Block) (c : Nat) (v : Core) : (b.setCore c v).basins = b.basins := rfl
@[simp] theorem Block.setCore_contexts (b : Block) (c : Nat) (v : Core) : (b.setCore c v).contexts = b.contexts := rfl
@[simp] theorem Block.setCore_parts (b : Block) (c : Nat) (v : Core) : (b.setCore c v).parts = b.parts := rfl
@[simp] theorem Block.setCore_mem (b : Block) (c : Nat) (v : Core) : (b.setCore c v).mem = b.mem := rfl
@[simp] theorem Block.setCore_faults (b : Block) (c : Nat) (v : Core) : (b.setCore c v).faults = b.faults := rfl
@[simp] theorem Block.setCore_tier (b : Block) (c : Nat) (v : Core) : (b.setCore c v).tier = b.tier := rfl
@[simp] theorem Block.setCore_slots (b : Block) (c : Nat) (v : Core) : (b.setCore c v).slots = b.slots := rfl
@[simp] theorem Block.setCore_slotSel (b : Block) (c : Nat) (v : Core) : (b.setCore c v).slotSel = b.slotSel := rfl
@[simp] theorem Block.setCore_revokedDrops (b : Block) (c : Nat) (v : Core) : (b.setCore c v).revokedDrops = b.revokedDrops := rfl
@[simp] theorem Block.setCore_epochRetired (b : Block) (c : Nat) (v : Core) : (b.setCore c v).epochRetired = b.epochRetired := rfl
@[simp] theorem Block.setCore_teardowns (b : Block) (c : Nat) (v : Core) : (b.setCore c v).teardowns = b.teardowns := rfl
@[simp] theorem Block.setCore_lastTeardown (b : Block) (c : Nat) (v : Core) : (b.setCore c v).lastTeardown = b.lastTeardown := rfl
@[simp] theorem Block.setCore_teCtrl (b : Block) (c : Nat) (v : Core) : (b.setCore c v).teCtrl = b.teCtrl := rfl
@[simp] theorem Block.setCore_teCount (b : Block) (c : Nat) (v : Core) : (b.setCore c v).teCount = b.teCount := rfl
@[simp] theorem Block.setCore_adapters (b : Block) (c : Nat) (v : Core) : (b.setCore c v).adapters = b.adapters := rfl
@[simp] theorem Block.setCore_host (b : Block) (c : Nat) (v : Core) : (b.setCore c v).host = b.host := rfl
@[simp] theorem Block.setCore_groups (b : Block) (c : Nat) (v : Core) : (b.setCore c v).groups = b.groups := rfl
@[simp] theorem Block.setCore_rdEngines (b : Block) (c : Nat) (v : Core) : (b.setCore c v).rdEngines = b.rdEngines := rfl
@[simp] theorem Block.setCore_kreash (b : Block) (c : Nat) (v : Core) : (b.setCore c v).kreash = b.kreash := rfl
@[simp] theorem Block.setCore_lock (b : Block) (c : Nat) (v : Core) : (b.setCore c v).lock = b.lock := rfl
@[simp] theorem Block.setCore_lm (b : Block) (c : Nat) (v : Core) : (b.setCore c v).lm = b.lm := rfl
@[simp] theorem Block.setCore_gl (b : Block) (c : Nat) (v : Core) : (b.setCore c v).gl = b.gl := rfl
@[simp] theorem Block.setCore_attest (b : Block) (c : Nat) (v : Core) : (b.setCore c v).attest = b.attest := rfl
@[simp] theorem Block.setCore_th (b : Block) (c : Nat) (v : Core) : (b.setCore c v).th = b.th := rfl

@[simp] theorem Block.modCore_freeCtr (b : Block) (c : Nat) (f : Core → Core) : (b.modCore c f).freeCtr = b.freeCtr := rfl
@[simp] theorem Block.modCore_nextId (b : Block) (c : Nat) (f : Core → Core) : (b.modCore c f).nextId = b.nextId := rfl
@[simp] theorem Block.modCore_lastIssued (b : Block) (c : Nat) (f : Core → Core) : (b.modCore c f).lastIssued = b.lastIssued := rfl
@[simp] theorem Block.modCore_stores (b : Block) (c : Nat) (f : Core → Core) : (b.modCore c f).stores = b.stores := rfl
@[simp] theorem Block.modCore_rekeys (b : Block) (c : Nat) (f : Core → Core) : (b.modCore c f).rekeys = b.rekeys := rfl
@[simp] theorem Block.modCore_rooms (b : Block) (c : Nat) (f : Core → Core) : (b.modCore c f).rooms = b.rooms := rfl
@[simp] theorem Block.modCore_deferred (b : Block) (c : Nat) (f : Core → Core) : (b.modCore c f).deferred = b.deferred := rfl
@[simp] theorem Block.modCore_basins (b : Block) (c : Nat) (f : Core → Core) : (b.modCore c f).basins = b.basins := rfl
@[simp] theorem Block.modCore_contexts (b : Block) (c : Nat) (f : Core → Core) : (b.modCore c f).contexts = b.contexts := rfl
@[simp] theorem Block.modCore_parts (b : Block) (c : Nat) (f : Core → Core) : (b.modCore c f).parts = b.parts := rfl
@[simp] theorem Block.modCore_mem (b : Block) (c : Nat) (f : Core → Core) : (b.modCore c f).mem = b.mem := rfl
@[simp] theorem Block.modCore_faults (b : Block) (c : Nat) (f : Core → Core) : (b.modCore c f).faults = b.faults := rfl
@[simp] theorem Block.modCore_tier (b : Block) (c : Nat) (f : Core → Core) : (b.modCore c f).tier = b.tier := rfl
@[simp] theorem Block.modCore_slots (b : Block) (c : Nat) (f : Core → Core) : (b.modCore c f).slots = b.slots := rfl
@[simp] theorem Block.modCore_slotSel (b : Block) (c : Nat) (f : Core → Core) : (b.modCore c f).slotSel = b.slotSel := rfl
@[simp] theorem Block.modCore_revokedDrops (b : Block) (c : Nat) (f : Core → Core) : (b.modCore c f).revokedDrops = b.revokedDrops := rfl
@[simp] theorem Block.modCore_epochRetired (b : Block) (c : Nat) (f : Core → Core) : (b.modCore c f).epochRetired = b.epochRetired := rfl
@[simp] theorem Block.modCore_teardowns (b : Block) (c : Nat) (f : Core → Core) : (b.modCore c f).teardowns = b.teardowns := rfl
@[simp] theorem Block.modCore_lastTeardown (b : Block) (c : Nat) (f : Core → Core) : (b.modCore c f).lastTeardown = b.lastTeardown := rfl
@[simp] theorem Block.modCore_teCtrl (b : Block) (c : Nat) (f : Core → Core) : (b.modCore c f).teCtrl = b.teCtrl := rfl
@[simp] theorem Block.modCore_teCount (b : Block) (c : Nat) (f : Core → Core) : (b.modCore c f).teCount = b.teCount := rfl
@[simp] theorem Block.modCore_adapters (b : Block) (c : Nat) (f : Core → Core) : (b.modCore c f).adapters = b.adapters := rfl
@[simp] theorem Block.modCore_host (b : Block) (c : Nat) (f : Core → Core) : (b.modCore c f).host = b.host := rfl
@[simp] theorem Block.modCore_groups (b : Block) (c : Nat) (f : Core → Core) : (b.modCore c f).groups = b.groups := rfl
@[simp] theorem Block.modCore_rdEngines (b : Block) (c : Nat) (f : Core → Core) : (b.modCore c f).rdEngines = b.rdEngines := rfl
@[simp] theorem Block.modCore_kreash (b : Block) (c : Nat) (f : Core → Core) : (b.modCore c f).kreash = b.kreash := rfl
@[simp] theorem Block.modCore_lock (b : Block) (c : Nat) (f : Core → Core) : (b.modCore c f).lock = b.lock := rfl
@[simp] theorem Block.modCore_lm (b : Block) (c : Nat) (f : Core → Core) : (b.modCore c f).lm = b.lm := rfl
@[simp] theorem Block.modCore_gl (b : Block) (c : Nat) (f : Core → Core) : (b.modCore c f).gl = b.gl := rfl
@[simp] theorem Block.modCore_attest (b : Block) (c : Nat) (f : Core → Core) : (b.modCore c f).attest = b.attest := rfl
@[simp] theorem Block.modCore_th (b : Block) (c : Nat) (f : Core → Core) : (b.modCore c f).th = b.th := rfl

@[simp] theorem Block.setThread_freeCtr (b : Block) (th : Nat) (v : Thread) : (b.setThread th v).freeCtr = b.freeCtr := rfl
@[simp] theorem Block.setThread_nextId (b : Block) (th : Nat) (v : Thread) : (b.setThread th v).nextId = b.nextId := rfl
@[simp] theorem Block.setThread_lastIssued (b : Block) (th : Nat) (v : Thread) : (b.setThread th v).lastIssued = b.lastIssued := rfl
@[simp] theorem Block.setThread_stores (b : Block) (th : Nat) (v : Thread) : (b.setThread th v).stores = b.stores := rfl
@[simp] theorem Block.setThread_rekeys (b : Block) (th : Nat) (v : Thread) : (b.setThread th v).rekeys = b.rekeys := rfl
@[simp] theorem Block.setThread_rooms (b : Block) (th : Nat) (v : Thread) : (b.setThread th v).rooms = b.rooms := rfl
@[simp] theorem Block.setThread_deferred (b : Block) (th : Nat) (v : Thread) : (b.setThread th v).deferred = b.deferred := rfl
@[simp] theorem Block.setThread_basins (b : Block) (th : Nat) (v : Thread) : (b.setThread th v).basins = b.basins := rfl
@[simp] theorem Block.setThread_contexts (b : Block) (th : Nat) (v : Thread) : (b.setThread th v).contexts = b.contexts := rfl
@[simp] theorem Block.setThread_parts (b : Block) (th : Nat) (v : Thread) : (b.setThread th v).parts = b.parts := rfl
@[simp] theorem Block.setThread_mem (b : Block) (th : Nat) (v : Thread) : (b.setThread th v).mem = b.mem := rfl
@[simp] theorem Block.setThread_faults (b : Block) (th : Nat) (v : Thread) : (b.setThread th v).faults = b.faults := rfl
@[simp] theorem Block.setThread_tier (b : Block) (th : Nat) (v : Thread) : (b.setThread th v).tier = b.tier := rfl
@[simp] theorem Block.setThread_slots (b : Block) (th : Nat) (v : Thread) : (b.setThread th v).slots = b.slots := rfl
@[simp] theorem Block.setThread_slotSel (b : Block) (th : Nat) (v : Thread) : (b.setThread th v).slotSel = b.slotSel := rfl
@[simp] theorem Block.setThread_revokedDrops (b : Block) (th : Nat) (v : Thread) : (b.setThread th v).revokedDrops = b.revokedDrops := rfl
@[simp] theorem Block.setThread_epochRetired (b : Block) (th : Nat) (v : Thread) : (b.setThread th v).epochRetired = b.epochRetired := rfl
@[simp] theorem Block.setThread_teardowns (b : Block) (th : Nat) (v : Thread) : (b.setThread th v).teardowns = b.teardowns := rfl
@[simp] theorem Block.setThread_lastTeardown (b : Block) (th : Nat) (v : Thread) : (b.setThread th v).lastTeardown = b.lastTeardown := rfl
@[simp] theorem Block.setThread_teCtrl (b : Block) (th : Nat) (v : Thread) : (b.setThread th v).teCtrl = b.teCtrl := rfl
@[simp] theorem Block.setThread_teCount (b : Block) (th : Nat) (v : Thread) : (b.setThread th v).teCount = b.teCount := rfl
@[simp] theorem Block.setThread_adapters (b : Block) (th : Nat) (v : Thread) : (b.setThread th v).adapters = b.adapters := rfl
@[simp] theorem Block.setThread_host (b : Block) (th : Nat) (v : Thread) : (b.setThread th v).host = b.host := rfl
@[simp] theorem Block.setThread_groups (b : Block) (th : Nat) (v : Thread) : (b.setThread th v).groups = b.groups := rfl
@[simp] theorem Block.setThread_rdEngines (b : Block) (th : Nat) (v : Thread) : (b.setThread th v).rdEngines = b.rdEngines := rfl
@[simp] theorem Block.setThread_kreash (b : Block) (th : Nat) (v : Thread) : (b.setThread th v).kreash = b.kreash := rfl
@[simp] theorem Block.setThread_lock (b : Block) (th : Nat) (v : Thread) : (b.setThread th v).lock = b.lock := rfl
@[simp] theorem Block.setThread_lm (b : Block) (th : Nat) (v : Thread) : (b.setThread th v).lm = b.lm := rfl
@[simp] theorem Block.setThread_gl (b : Block) (th : Nat) (v : Thread) : (b.setThread th v).gl = b.gl := rfl
@[simp] theorem Block.setThread_attest (b : Block) (th : Nat) (v : Thread) : (b.setThread th v).attest = b.attest := rfl
@[simp] theorem Block.setThread_th (b : Block) (th : Nat) (v : Thread) : (b.setThread th v).th = b.th := rfl

@[simp] theorem Block.modThread_freeCtr (b : Block) (th : Nat) (f : Thread → Thread) : (b.modThread th f).freeCtr = b.freeCtr := rfl
@[simp] theorem Block.modThread_nextId (b : Block) (th : Nat) (f : Thread → Thread) : (b.modThread th f).nextId = b.nextId := rfl
@[simp] theorem Block.modThread_lastIssued (b : Block) (th : Nat) (f : Thread → Thread) : (b.modThread th f).lastIssued = b.lastIssued := rfl
@[simp] theorem Block.modThread_stores (b : Block) (th : Nat) (f : Thread → Thread) : (b.modThread th f).stores = b.stores := rfl
@[simp] theorem Block.modThread_rekeys (b : Block) (th : Nat) (f : Thread → Thread) : (b.modThread th f).rekeys = b.rekeys := rfl
@[simp] theorem Block.modThread_rooms (b : Block) (th : Nat) (f : Thread → Thread) : (b.modThread th f).rooms = b.rooms := rfl
@[simp] theorem Block.modThread_deferred (b : Block) (th : Nat) (f : Thread → Thread) : (b.modThread th f).deferred = b.deferred := rfl
@[simp] theorem Block.modThread_basins (b : Block) (th : Nat) (f : Thread → Thread) : (b.modThread th f).basins = b.basins := rfl
@[simp] theorem Block.modThread_contexts (b : Block) (th : Nat) (f : Thread → Thread) : (b.modThread th f).contexts = b.contexts := rfl
@[simp] theorem Block.modThread_parts (b : Block) (th : Nat) (f : Thread → Thread) : (b.modThread th f).parts = b.parts := rfl
@[simp] theorem Block.modThread_mem (b : Block) (th : Nat) (f : Thread → Thread) : (b.modThread th f).mem = b.mem := rfl
@[simp] theorem Block.modThread_faults (b : Block) (th : Nat) (f : Thread → Thread) : (b.modThread th f).faults = b.faults := rfl
@[simp] theorem Block.modThread_tier (b : Block) (th : Nat) (f : Thread → Thread) : (b.modThread th f).tier = b.tier := rfl
@[simp] theorem Block.modThread_slots (b : Block) (th : Nat) (f : Thread → Thread) : (b.modThread th f).slots = b.slots := rfl
@[simp] theorem Block.modThread_slotSel (b : Block) (th : Nat) (f : Thread → Thread) : (b.modThread th f).slotSel = b.slotSel := rfl
@[simp] theorem Block.modThread_revokedDrops (b : Block) (th : Nat) (f : Thread → Thread) : (b.modThread th f).revokedDrops = b.revokedDrops := rfl
@[simp] theorem Block.modThread_epochRetired (b : Block) (th : Nat) (f : Thread → Thread) : (b.modThread th f).epochRetired = b.epochRetired := rfl
@[simp] theorem Block.modThread_teardowns (b : Block) (th : Nat) (f : Thread → Thread) : (b.modThread th f).teardowns = b.teardowns := rfl
@[simp] theorem Block.modThread_lastTeardown (b : Block) (th : Nat) (f : Thread → Thread) : (b.modThread th f).lastTeardown = b.lastTeardown := rfl
@[simp] theorem Block.modThread_teCtrl (b : Block) (th : Nat) (f : Thread → Thread) : (b.modThread th f).teCtrl = b.teCtrl := rfl
@[simp] theorem Block.modThread_teCount (b : Block) (th : Nat) (f : Thread → Thread) : (b.modThread th f).teCount = b.teCount := rfl
@[simp] theorem Block.modThread_adapters (b : Block) (th : Nat) (f : Thread → Thread) : (b.modThread th f).adapters = b.adapters := rfl
@[simp] theorem Block.modThread_host (b : Block) (th : Nat) (f : Thread → Thread) : (b.modThread th f).host = b.host := rfl
@[simp] theorem Block.modThread_groups (b : Block) (th : Nat) (f : Thread → Thread) : (b.modThread th f).groups = b.groups := rfl
@[simp] theorem Block.modThread_rdEngines (b : Block) (th : Nat) (f : Thread → Thread) : (b.modThread th f).rdEngines = b.rdEngines := rfl
@[simp] theorem Block.modThread_kreash (b : Block) (th : Nat) (f : Thread → Thread) : (b.modThread th f).kreash = b.kreash := rfl
@[simp] theorem Block.modThread_lock (b : Block) (th : Nat) (f : Thread → Thread) : (b.modThread th f).lock = b.lock := rfl
@[simp] theorem Block.modThread_lm (b : Block) (th : Nat) (f : Thread → Thread) : (b.modThread th f).lm = b.lm := rfl
@[simp] theorem Block.modThread_gl (b : Block) (th : Nat) (f : Thread → Thread) : (b.modThread th f).gl = b.gl := rfl
@[simp] theorem Block.modThread_attest (b : Block) (th : Nat) (f : Thread → Thread) : (b.modThread th f).attest = b.attest := rfl
@[simp] theorem Block.modThread_th (b : Block) (th : Nat) (f : Thread → Thread) : (b.modThread th f).th = b.th := rfl

@[simp] theorem Block.setBasin_freeCtr (b : Block) (n : Nat) (v : Basin) : (b.setBasin n v).freeCtr = b.freeCtr := rfl
@[simp] theorem Block.setBasin_nextId (b : Block) (n : Nat) (v : Basin) : (b.setBasin n v).nextId = b.nextId := rfl
@[simp] theorem Block.setBasin_lastIssued (b : Block) (n : Nat) (v : Basin) : (b.setBasin n v).lastIssued = b.lastIssued := rfl
@[simp] theorem Block.setBasin_stores (b : Block) (n : Nat) (v : Basin) : (b.setBasin n v).stores = b.stores := rfl
@[simp] theorem Block.setBasin_rekeys (b : Block) (n : Nat) (v : Basin) : (b.setBasin n v).rekeys = b.rekeys := rfl
@[simp] theorem Block.setBasin_rooms (b : Block) (n : Nat) (v : Basin) : (b.setBasin n v).rooms = b.rooms := rfl
@[simp] theorem Block.setBasin_deferred (b : Block) (n : Nat) (v : Basin) : (b.setBasin n v).deferred = b.deferred := rfl
@[simp] theorem Block.setBasin_cores (b : Block) (n : Nat) (v : Basin) : (b.setBasin n v).cores = b.cores := rfl
@[simp] theorem Block.setBasin_contexts (b : Block) (n : Nat) (v : Basin) : (b.setBasin n v).contexts = b.contexts := rfl
@[simp] theorem Block.setBasin_parts (b : Block) (n : Nat) (v : Basin) : (b.setBasin n v).parts = b.parts := rfl
@[simp] theorem Block.setBasin_mem (b : Block) (n : Nat) (v : Basin) : (b.setBasin n v).mem = b.mem := rfl
@[simp] theorem Block.setBasin_faults (b : Block) (n : Nat) (v : Basin) : (b.setBasin n v).faults = b.faults := rfl
@[simp] theorem Block.setBasin_tier (b : Block) (n : Nat) (v : Basin) : (b.setBasin n v).tier = b.tier := rfl
@[simp] theorem Block.setBasin_slots (b : Block) (n : Nat) (v : Basin) : (b.setBasin n v).slots = b.slots := rfl
@[simp] theorem Block.setBasin_slotSel (b : Block) (n : Nat) (v : Basin) : (b.setBasin n v).slotSel = b.slotSel := rfl
@[simp] theorem Block.setBasin_revokedDrops (b : Block) (n : Nat) (v : Basin) : (b.setBasin n v).revokedDrops = b.revokedDrops := rfl
@[simp] theorem Block.setBasin_epochRetired (b : Block) (n : Nat) (v : Basin) : (b.setBasin n v).epochRetired = b.epochRetired := rfl
@[simp] theorem Block.setBasin_teardowns (b : Block) (n : Nat) (v : Basin) : (b.setBasin n v).teardowns = b.teardowns := rfl
@[simp] theorem Block.setBasin_lastTeardown (b : Block) (n : Nat) (v : Basin) : (b.setBasin n v).lastTeardown = b.lastTeardown := rfl
@[simp] theorem Block.setBasin_teCtrl (b : Block) (n : Nat) (v : Basin) : (b.setBasin n v).teCtrl = b.teCtrl := rfl
@[simp] theorem Block.setBasin_teCount (b : Block) (n : Nat) (v : Basin) : (b.setBasin n v).teCount = b.teCount := rfl
@[simp] theorem Block.setBasin_adapters (b : Block) (n : Nat) (v : Basin) : (b.setBasin n v).adapters = b.adapters := rfl
@[simp] theorem Block.setBasin_host (b : Block) (n : Nat) (v : Basin) : (b.setBasin n v).host = b.host := rfl
@[simp] theorem Block.setBasin_groups (b : Block) (n : Nat) (v : Basin) : (b.setBasin n v).groups = b.groups := rfl
@[simp] theorem Block.setBasin_rdEngines (b : Block) (n : Nat) (v : Basin) : (b.setBasin n v).rdEngines = b.rdEngines := rfl
@[simp] theorem Block.setBasin_kreash (b : Block) (n : Nat) (v : Basin) : (b.setBasin n v).kreash = b.kreash := rfl
@[simp] theorem Block.setBasin_lock (b : Block) (n : Nat) (v : Basin) : (b.setBasin n v).lock = b.lock := rfl
@[simp] theorem Block.setBasin_lm (b : Block) (n : Nat) (v : Basin) : (b.setBasin n v).lm = b.lm := rfl
@[simp] theorem Block.setBasin_gl (b : Block) (n : Nat) (v : Basin) : (b.setBasin n v).gl = b.gl := rfl
@[simp] theorem Block.setBasin_attest (b : Block) (n : Nat) (v : Basin) : (b.setBasin n v).attest = b.attest := rfl
@[simp] theorem Block.setBasin_th (b : Block) (n : Nat) (v : Basin) : (b.setBasin n v).th = b.th := rfl

@[simp] theorem Block.modBasin_freeCtr (b : Block) (n : Nat) (f : Basin → Basin) : (b.modBasin n f).freeCtr = b.freeCtr := rfl
@[simp] theorem Block.modBasin_nextId (b : Block) (n : Nat) (f : Basin → Basin) : (b.modBasin n f).nextId = b.nextId := rfl
@[simp] theorem Block.modBasin_lastIssued (b : Block) (n : Nat) (f : Basin → Basin) : (b.modBasin n f).lastIssued = b.lastIssued := rfl
@[simp] theorem Block.modBasin_stores (b : Block) (n : Nat) (f : Basin → Basin) : (b.modBasin n f).stores = b.stores := rfl
@[simp] theorem Block.modBasin_rekeys (b : Block) (n : Nat) (f : Basin → Basin) : (b.modBasin n f).rekeys = b.rekeys := rfl
@[simp] theorem Block.modBasin_rooms (b : Block) (n : Nat) (f : Basin → Basin) : (b.modBasin n f).rooms = b.rooms := rfl
@[simp] theorem Block.modBasin_deferred (b : Block) (n : Nat) (f : Basin → Basin) : (b.modBasin n f).deferred = b.deferred := rfl
@[simp] theorem Block.modBasin_cores (b : Block) (n : Nat) (f : Basin → Basin) : (b.modBasin n f).cores = b.cores := rfl
@[simp] theorem Block.modBasin_contexts (b : Block) (n : Nat) (f : Basin → Basin) : (b.modBasin n f).contexts = b.contexts := rfl
@[simp] theorem Block.modBasin_parts (b : Block) (n : Nat) (f : Basin → Basin) : (b.modBasin n f).parts = b.parts := rfl
@[simp] theorem Block.modBasin_mem (b : Block) (n : Nat) (f : Basin → Basin) : (b.modBasin n f).mem = b.mem := rfl
@[simp] theorem Block.modBasin_faults (b : Block) (n : Nat) (f : Basin → Basin) : (b.modBasin n f).faults = b.faults := rfl
@[simp] theorem Block.modBasin_tier (b : Block) (n : Nat) (f : Basin → Basin) : (b.modBasin n f).tier = b.tier := rfl
@[simp] theorem Block.modBasin_slots (b : Block) (n : Nat) (f : Basin → Basin) : (b.modBasin n f).slots = b.slots := rfl
@[simp] theorem Block.modBasin_slotSel (b : Block) (n : Nat) (f : Basin → Basin) : (b.modBasin n f).slotSel = b.slotSel := rfl
@[simp] theorem Block.modBasin_revokedDrops (b : Block) (n : Nat) (f : Basin → Basin) : (b.modBasin n f).revokedDrops = b.revokedDrops := rfl
@[simp] theorem Block.modBasin_epochRetired (b : Block) (n : Nat) (f : Basin → Basin) : (b.modBasin n f).epochRetired = b.epochRetired := rfl
@[simp] theorem Block.modBasin_teardowns (b : Block) (n : Nat) (f : Basin → Basin) : (b.modBasin n f).teardowns = b.teardowns := rfl
@[simp] theorem Block.modBasin_lastTeardown (b : Block) (n : Nat) (f : Basin → Basin) : (b.modBasin n f).lastTeardown = b.lastTeardown := rfl
@[simp] theorem Block.modBasin_teCtrl (b : Block) (n : Nat) (f : Basin → Basin) : (b.modBasin n f).teCtrl = b.teCtrl := rfl
@[simp] theorem Block.modBasin_teCount (b : Block) (n : Nat) (f : Basin → Basin) : (b.modBasin n f).teCount = b.teCount := rfl
@[simp] theorem Block.modBasin_adapters (b : Block) (n : Nat) (f : Basin → Basin) : (b.modBasin n f).adapters = b.adapters := rfl
@[simp] theorem Block.modBasin_host (b : Block) (n : Nat) (f : Basin → Basin) : (b.modBasin n f).host = b.host := rfl
@[simp] theorem Block.modBasin_groups (b : Block) (n : Nat) (f : Basin → Basin) : (b.modBasin n f).groups = b.groups := rfl
@[simp] theorem Block.modBasin_rdEngines (b : Block) (n : Nat) (f : Basin → Basin) : (b.modBasin n f).rdEngines = b.rdEngines := rfl
@[simp] theorem Block.modBasin_kreash (b : Block) (n : Nat) (f : Basin → Basin) : (b.modBasin n f).kreash = b.kreash := rfl
@[simp] theorem Block.modBasin_lock (b : Block) (n : Nat) (f : Basin → Basin) : (b.modBasin n f).lock = b.lock := rfl
@[simp] theorem Block.modBasin_lm (b : Block) (n : Nat) (f : Basin → Basin) : (b.modBasin n f).lm = b.lm := rfl
@[simp] theorem Block.modBasin_gl (b : Block) (n : Nat) (f : Basin → Basin) : (b.modBasin n f).gl = b.gl := rfl
@[simp] theorem Block.modBasin_attest (b : Block) (n : Nat) (f : Basin → Basin) : (b.modBasin n f).attest = b.attest := rfl
@[simp] theorem Block.modBasin_th (b : Block) (n : Nat) (f : Basin → Basin) : (b.modBasin n f).th = b.th := rfl

@[simp] theorem Block.setFunc_freeCtr (b : Block) (n : Nat) (v : Func) : (b.setFunc n v).freeCtr = b.freeCtr := rfl
@[simp] theorem Block.setFunc_nextId (b : Block) (n : Nat) (v : Func) : (b.setFunc n v).nextId = b.nextId := rfl
@[simp] theorem Block.setFunc_lastIssued (b : Block) (n : Nat) (v : Func) : (b.setFunc n v).lastIssued = b.lastIssued := rfl
@[simp] theorem Block.setFunc_stores (b : Block) (n : Nat) (v : Func) : (b.setFunc n v).stores = b.stores := rfl
@[simp] theorem Block.setFunc_rekeys (b : Block) (n : Nat) (v : Func) : (b.setFunc n v).rekeys = b.rekeys := rfl
@[simp] theorem Block.setFunc_rooms (b : Block) (n : Nat) (v : Func) : (b.setFunc n v).rooms = b.rooms := rfl
@[simp] theorem Block.setFunc_deferred (b : Block) (n : Nat) (v : Func) : (b.setFunc n v).deferred = b.deferred := rfl
@[simp] theorem Block.setFunc_cores (b : Block) (n : Nat) (v : Func) : (b.setFunc n v).cores = b.cores := rfl
@[simp] theorem Block.setFunc_basins (b : Block) (n : Nat) (v : Func) : (b.setFunc n v).basins = b.basins := rfl
@[simp] theorem Block.setFunc_contexts (b : Block) (n : Nat) (v : Func) : (b.setFunc n v).contexts = b.contexts := rfl
@[simp] theorem Block.setFunc_parts (b : Block) (n : Nat) (v : Func) : (b.setFunc n v).parts = b.parts := rfl
@[simp] theorem Block.setFunc_mem (b : Block) (n : Nat) (v : Func) : (b.setFunc n v).mem = b.mem := rfl
@[simp] theorem Block.setFunc_faults (b : Block) (n : Nat) (v : Func) : (b.setFunc n v).faults = b.faults := rfl
@[simp] theorem Block.setFunc_tier (b : Block) (n : Nat) (v : Func) : (b.setFunc n v).tier = b.tier := rfl
@[simp] theorem Block.setFunc_slots (b : Block) (n : Nat) (v : Func) : (b.setFunc n v).slots = b.slots := rfl
@[simp] theorem Block.setFunc_slotSel (b : Block) (n : Nat) (v : Func) : (b.setFunc n v).slotSel = b.slotSel := rfl
@[simp] theorem Block.setFunc_revokedDrops (b : Block) (n : Nat) (v : Func) : (b.setFunc n v).revokedDrops = b.revokedDrops := rfl
@[simp] theorem Block.setFunc_epochRetired (b : Block) (n : Nat) (v : Func) : (b.setFunc n v).epochRetired = b.epochRetired := rfl
@[simp] theorem Block.setFunc_teardowns (b : Block) (n : Nat) (v : Func) : (b.setFunc n v).teardowns = b.teardowns := rfl
@[simp] theorem Block.setFunc_lastTeardown (b : Block) (n : Nat) (v : Func) : (b.setFunc n v).lastTeardown = b.lastTeardown := rfl
@[simp] theorem Block.setFunc_teCtrl (b : Block) (n : Nat) (v : Func) : (b.setFunc n v).teCtrl = b.teCtrl := rfl
@[simp] theorem Block.setFunc_teCount (b : Block) (n : Nat) (v : Func) : (b.setFunc n v).teCount = b.teCount := rfl
@[simp] theorem Block.setFunc_adapters (b : Block) (n : Nat) (v : Func) : (b.setFunc n v).adapters = b.adapters := rfl
@[simp] theorem Block.setFunc_groups (b : Block) (n : Nat) (v : Func) : (b.setFunc n v).groups = b.groups := rfl
@[simp] theorem Block.setFunc_rdEngines (b : Block) (n : Nat) (v : Func) : (b.setFunc n v).rdEngines = b.rdEngines := rfl
@[simp] theorem Block.setFunc_kreash (b : Block) (n : Nat) (v : Func) : (b.setFunc n v).kreash = b.kreash := rfl
@[simp] theorem Block.setFunc_lock (b : Block) (n : Nat) (v : Func) : (b.setFunc n v).lock = b.lock := rfl
@[simp] theorem Block.setFunc_lm (b : Block) (n : Nat) (v : Func) : (b.setFunc n v).lm = b.lm := rfl
@[simp] theorem Block.setFunc_gl (b : Block) (n : Nat) (v : Func) : (b.setFunc n v).gl = b.gl := rfl
@[simp] theorem Block.setFunc_attest (b : Block) (n : Nat) (v : Func) : (b.setFunc n v).attest = b.attest := rfl
@[simp] theorem Block.setFunc_th (b : Block) (n : Nat) (v : Func) : (b.setFunc n v).th = b.th := rfl

@[simp] theorem Block.modFunc_freeCtr (b : Block) (n : Nat) (f : Func → Func) : (b.modFunc n f).freeCtr = b.freeCtr := rfl
@[simp] theorem Block.modFunc_nextId (b : Block) (n : Nat) (f : Func → Func) : (b.modFunc n f).nextId = b.nextId := rfl
@[simp] theorem Block.modFunc_lastIssued (b : Block) (n : Nat) (f : Func → Func) : (b.modFunc n f).lastIssued = b.lastIssued := rfl
@[simp] theorem Block.modFunc_stores (b : Block) (n : Nat) (f : Func → Func) : (b.modFunc n f).stores = b.stores := rfl
@[simp] theorem Block.modFunc_rekeys (b : Block) (n : Nat) (f : Func → Func) : (b.modFunc n f).rekeys = b.rekeys := rfl
@[simp] theorem Block.modFunc_rooms (b : Block) (n : Nat) (f : Func → Func) : (b.modFunc n f).rooms = b.rooms := rfl
@[simp] theorem Block.modFunc_deferred (b : Block) (n : Nat) (f : Func → Func) : (b.modFunc n f).deferred = b.deferred := rfl
@[simp] theorem Block.modFunc_cores (b : Block) (n : Nat) (f : Func → Func) : (b.modFunc n f).cores = b.cores := rfl
@[simp] theorem Block.modFunc_basins (b : Block) (n : Nat) (f : Func → Func) : (b.modFunc n f).basins = b.basins := rfl
@[simp] theorem Block.modFunc_contexts (b : Block) (n : Nat) (f : Func → Func) : (b.modFunc n f).contexts = b.contexts := rfl
@[simp] theorem Block.modFunc_parts (b : Block) (n : Nat) (f : Func → Func) : (b.modFunc n f).parts = b.parts := rfl
@[simp] theorem Block.modFunc_mem (b : Block) (n : Nat) (f : Func → Func) : (b.modFunc n f).mem = b.mem := rfl
@[simp] theorem Block.modFunc_faults (b : Block) (n : Nat) (f : Func → Func) : (b.modFunc n f).faults = b.faults := rfl
@[simp] theorem Block.modFunc_tier (b : Block) (n : Nat) (f : Func → Func) : (b.modFunc n f).tier = b.tier := rfl
@[simp] theorem Block.modFunc_slots (b : Block) (n : Nat) (f : Func → Func) : (b.modFunc n f).slots = b.slots := rfl
@[simp] theorem Block.modFunc_slotSel (b : Block) (n : Nat) (f : Func → Func) : (b.modFunc n f).slotSel = b.slotSel := rfl
@[simp] theorem Block.modFunc_revokedDrops (b : Block) (n : Nat) (f : Func → Func) : (b.modFunc n f).revokedDrops = b.revokedDrops := rfl
@[simp] theorem Block.modFunc_epochRetired (b : Block) (n : Nat) (f : Func → Func) : (b.modFunc n f).epochRetired = b.epochRetired := rfl
@[simp] theorem Block.modFunc_teardowns (b : Block) (n : Nat) (f : Func → Func) : (b.modFunc n f).teardowns = b.teardowns := rfl
@[simp] theorem Block.modFunc_lastTeardown (b : Block) (n : Nat) (f : Func → Func) : (b.modFunc n f).lastTeardown = b.lastTeardown := rfl
@[simp] theorem Block.modFunc_teCtrl (b : Block) (n : Nat) (f : Func → Func) : (b.modFunc n f).teCtrl = b.teCtrl := rfl
@[simp] theorem Block.modFunc_teCount (b : Block) (n : Nat) (f : Func → Func) : (b.modFunc n f).teCount = b.teCount := rfl
@[simp] theorem Block.modFunc_adapters (b : Block) (n : Nat) (f : Func → Func) : (b.modFunc n f).adapters = b.adapters := rfl
@[simp] theorem Block.modFunc_groups (b : Block) (n : Nat) (f : Func → Func) : (b.modFunc n f).groups = b.groups := rfl
@[simp] theorem Block.modFunc_rdEngines (b : Block) (n : Nat) (f : Func → Func) : (b.modFunc n f).rdEngines = b.rdEngines := rfl
@[simp] theorem Block.modFunc_kreash (b : Block) (n : Nat) (f : Func → Func) : (b.modFunc n f).kreash = b.kreash := rfl
@[simp] theorem Block.modFunc_lock (b : Block) (n : Nat) (f : Func → Func) : (b.modFunc n f).lock = b.lock := rfl
@[simp] theorem Block.modFunc_lm (b : Block) (n : Nat) (f : Func → Func) : (b.modFunc n f).lm = b.lm := rfl
@[simp] theorem Block.modFunc_gl (b : Block) (n : Nat) (f : Func → Func) : (b.modFunc n f).gl = b.gl := rfl
@[simp] theorem Block.modFunc_attest (b : Block) (n : Nat) (f : Func → Func) : (b.modFunc n f).attest = b.attest := rfl
@[simp] theorem Block.modFunc_th (b : Block) (n : Nat) (f : Func → Func) : (b.modFunc n f).th = b.th := rfl

@[simp] theorem Block.setSlot_freeCtr (b : Block) (k : Nat) (v : KeySlot) : (b.setSlot k v).freeCtr = b.freeCtr := rfl
@[simp] theorem Block.setSlot_nextId (b : Block) (k : Nat) (v : KeySlot) : (b.setSlot k v).nextId = b.nextId := rfl
@[simp] theorem Block.setSlot_lastIssued (b : Block) (k : Nat) (v : KeySlot) : (b.setSlot k v).lastIssued = b.lastIssued := rfl
@[simp] theorem Block.setSlot_stores (b : Block) (k : Nat) (v : KeySlot) : (b.setSlot k v).stores = b.stores := rfl
@[simp] theorem Block.setSlot_rekeys (b : Block) (k : Nat) (v : KeySlot) : (b.setSlot k v).rekeys = b.rekeys := rfl
@[simp] theorem Block.setSlot_rooms (b : Block) (k : Nat) (v : KeySlot) : (b.setSlot k v).rooms = b.rooms := rfl
@[simp] theorem Block.setSlot_deferred (b : Block) (k : Nat) (v : KeySlot) : (b.setSlot k v).deferred = b.deferred := rfl
@[simp] theorem Block.setSlot_cores (b : Block) (k : Nat) (v : KeySlot) : (b.setSlot k v).cores = b.cores := rfl
@[simp] theorem Block.setSlot_basins (b : Block) (k : Nat) (v : KeySlot) : (b.setSlot k v).basins = b.basins := rfl
@[simp] theorem Block.setSlot_contexts (b : Block) (k : Nat) (v : KeySlot) : (b.setSlot k v).contexts = b.contexts := rfl
@[simp] theorem Block.setSlot_parts (b : Block) (k : Nat) (v : KeySlot) : (b.setSlot k v).parts = b.parts := rfl
@[simp] theorem Block.setSlot_mem (b : Block) (k : Nat) (v : KeySlot) : (b.setSlot k v).mem = b.mem := rfl
@[simp] theorem Block.setSlot_faults (b : Block) (k : Nat) (v : KeySlot) : (b.setSlot k v).faults = b.faults := rfl
@[simp] theorem Block.setSlot_tier (b : Block) (k : Nat) (v : KeySlot) : (b.setSlot k v).tier = b.tier := rfl
@[simp] theorem Block.setSlot_slotSel (b : Block) (k : Nat) (v : KeySlot) : (b.setSlot k v).slotSel = b.slotSel := rfl
@[simp] theorem Block.setSlot_revokedDrops (b : Block) (k : Nat) (v : KeySlot) : (b.setSlot k v).revokedDrops = b.revokedDrops := rfl
@[simp] theorem Block.setSlot_epochRetired (b : Block) (k : Nat) (v : KeySlot) : (b.setSlot k v).epochRetired = b.epochRetired := rfl
@[simp] theorem Block.setSlot_teardowns (b : Block) (k : Nat) (v : KeySlot) : (b.setSlot k v).teardowns = b.teardowns := rfl
@[simp] theorem Block.setSlot_lastTeardown (b : Block) (k : Nat) (v : KeySlot) : (b.setSlot k v).lastTeardown = b.lastTeardown := rfl
@[simp] theorem Block.setSlot_teCtrl (b : Block) (k : Nat) (v : KeySlot) : (b.setSlot k v).teCtrl = b.teCtrl := rfl
@[simp] theorem Block.setSlot_teCount (b : Block) (k : Nat) (v : KeySlot) : (b.setSlot k v).teCount = b.teCount := rfl
@[simp] theorem Block.setSlot_adapters (b : Block) (k : Nat) (v : KeySlot) : (b.setSlot k v).adapters = b.adapters := rfl
@[simp] theorem Block.setSlot_host (b : Block) (k : Nat) (v : KeySlot) : (b.setSlot k v).host = b.host := rfl
@[simp] theorem Block.setSlot_groups (b : Block) (k : Nat) (v : KeySlot) : (b.setSlot k v).groups = b.groups := rfl
@[simp] theorem Block.setSlot_rdEngines (b : Block) (k : Nat) (v : KeySlot) : (b.setSlot k v).rdEngines = b.rdEngines := rfl
@[simp] theorem Block.setSlot_kreash (b : Block) (k : Nat) (v : KeySlot) : (b.setSlot k v).kreash = b.kreash := rfl
@[simp] theorem Block.setSlot_lock (b : Block) (k : Nat) (v : KeySlot) : (b.setSlot k v).lock = b.lock := rfl
@[simp] theorem Block.setSlot_lm (b : Block) (k : Nat) (v : KeySlot) : (b.setSlot k v).lm = b.lm := rfl
@[simp] theorem Block.setSlot_gl (b : Block) (k : Nat) (v : KeySlot) : (b.setSlot k v).gl = b.gl := rfl
@[simp] theorem Block.setSlot_attest (b : Block) (k : Nat) (v : KeySlot) : (b.setSlot k v).attest = b.attest := rfl
@[simp] theorem Block.setSlot_th (b : Block) (k : Nat) (v : KeySlot) : (b.setSlot k v).th = b.th := rfl

@[simp] theorem Block.modSlot_freeCtr (b : Block) (k : Nat) (f : KeySlot → KeySlot) : (b.modSlot k f).freeCtr = b.freeCtr := rfl
@[simp] theorem Block.modSlot_nextId (b : Block) (k : Nat) (f : KeySlot → KeySlot) : (b.modSlot k f).nextId = b.nextId := rfl
@[simp] theorem Block.modSlot_lastIssued (b : Block) (k : Nat) (f : KeySlot → KeySlot) : (b.modSlot k f).lastIssued = b.lastIssued := rfl
@[simp] theorem Block.modSlot_stores (b : Block) (k : Nat) (f : KeySlot → KeySlot) : (b.modSlot k f).stores = b.stores := rfl
@[simp] theorem Block.modSlot_rekeys (b : Block) (k : Nat) (f : KeySlot → KeySlot) : (b.modSlot k f).rekeys = b.rekeys := rfl
@[simp] theorem Block.modSlot_rooms (b : Block) (k : Nat) (f : KeySlot → KeySlot) : (b.modSlot k f).rooms = b.rooms := rfl
@[simp] theorem Block.modSlot_deferred (b : Block) (k : Nat) (f : KeySlot → KeySlot) : (b.modSlot k f).deferred = b.deferred := rfl
@[simp] theorem Block.modSlot_cores (b : Block) (k : Nat) (f : KeySlot → KeySlot) : (b.modSlot k f).cores = b.cores := rfl
@[simp] theorem Block.modSlot_basins (b : Block) (k : Nat) (f : KeySlot → KeySlot) : (b.modSlot k f).basins = b.basins := rfl
@[simp] theorem Block.modSlot_contexts (b : Block) (k : Nat) (f : KeySlot → KeySlot) : (b.modSlot k f).contexts = b.contexts := rfl
@[simp] theorem Block.modSlot_parts (b : Block) (k : Nat) (f : KeySlot → KeySlot) : (b.modSlot k f).parts = b.parts := rfl
@[simp] theorem Block.modSlot_mem (b : Block) (k : Nat) (f : KeySlot → KeySlot) : (b.modSlot k f).mem = b.mem := rfl
@[simp] theorem Block.modSlot_faults (b : Block) (k : Nat) (f : KeySlot → KeySlot) : (b.modSlot k f).faults = b.faults := rfl
@[simp] theorem Block.modSlot_tier (b : Block) (k : Nat) (f : KeySlot → KeySlot) : (b.modSlot k f).tier = b.tier := rfl
@[simp] theorem Block.modSlot_slotSel (b : Block) (k : Nat) (f : KeySlot → KeySlot) : (b.modSlot k f).slotSel = b.slotSel := rfl
@[simp] theorem Block.modSlot_revokedDrops (b : Block) (k : Nat) (f : KeySlot → KeySlot) : (b.modSlot k f).revokedDrops = b.revokedDrops := rfl
@[simp] theorem Block.modSlot_epochRetired (b : Block) (k : Nat) (f : KeySlot → KeySlot) : (b.modSlot k f).epochRetired = b.epochRetired := rfl
@[simp] theorem Block.modSlot_teardowns (b : Block) (k : Nat) (f : KeySlot → KeySlot) : (b.modSlot k f).teardowns = b.teardowns := rfl
@[simp] theorem Block.modSlot_lastTeardown (b : Block) (k : Nat) (f : KeySlot → KeySlot) : (b.modSlot k f).lastTeardown = b.lastTeardown := rfl
@[simp] theorem Block.modSlot_teCtrl (b : Block) (k : Nat) (f : KeySlot → KeySlot) : (b.modSlot k f).teCtrl = b.teCtrl := rfl
@[simp] theorem Block.modSlot_teCount (b : Block) (k : Nat) (f : KeySlot → KeySlot) : (b.modSlot k f).teCount = b.teCount := rfl
@[simp] theorem Block.modSlot_adapters (b : Block) (k : Nat) (f : KeySlot → KeySlot) : (b.modSlot k f).adapters = b.adapters := rfl
@[simp] theorem Block.modSlot_host (b : Block) (k : Nat) (f : KeySlot → KeySlot) : (b.modSlot k f).host = b.host := rfl
@[simp] theorem Block.modSlot_groups (b : Block) (k : Nat) (f : KeySlot → KeySlot) : (b.modSlot k f).groups = b.groups := rfl
@[simp] theorem Block.modSlot_rdEngines (b : Block) (k : Nat) (f : KeySlot → KeySlot) : (b.modSlot k f).rdEngines = b.rdEngines := rfl
@[simp] theorem Block.modSlot_kreash (b : Block) (k : Nat) (f : KeySlot → KeySlot) : (b.modSlot k f).kreash = b.kreash := rfl
@[simp] theorem Block.modSlot_lock (b : Block) (k : Nat) (f : KeySlot → KeySlot) : (b.modSlot k f).lock = b.lock := rfl
@[simp] theorem Block.modSlot_lm (b : Block) (k : Nat) (f : KeySlot → KeySlot) : (b.modSlot k f).lm = b.lm := rfl
@[simp] theorem Block.modSlot_gl (b : Block) (k : Nat) (f : KeySlot → KeySlot) : (b.modSlot k f).gl = b.gl := rfl
@[simp] theorem Block.modSlot_attest (b : Block) (k : Nat) (f : KeySlot → KeySlot) : (b.modSlot k f).attest = b.attest := rfl
@[simp] theorem Block.modSlot_th (b : Block) (k : Nat) (f : KeySlot → KeySlot) : (b.modSlot k f).th = b.th := rfl

@[simp] theorem Block.setTwq_freeCtr (b : Block) (c q : Nat) (v : TwQueue) : (b.setTwq c q v).freeCtr = b.freeCtr := rfl
@[simp] theorem Block.setTwq_nextId (b : Block) (c q : Nat) (v : TwQueue) : (b.setTwq c q v).nextId = b.nextId := rfl
@[simp] theorem Block.setTwq_lastIssued (b : Block) (c q : Nat) (v : TwQueue) : (b.setTwq c q v).lastIssued = b.lastIssued := rfl
@[simp] theorem Block.setTwq_stores (b : Block) (c q : Nat) (v : TwQueue) : (b.setTwq c q v).stores = b.stores := rfl
@[simp] theorem Block.setTwq_rekeys (b : Block) (c q : Nat) (v : TwQueue) : (b.setTwq c q v).rekeys = b.rekeys := rfl
@[simp] theorem Block.setTwq_rooms (b : Block) (c q : Nat) (v : TwQueue) : (b.setTwq c q v).rooms = b.rooms := rfl
@[simp] theorem Block.setTwq_deferred (b : Block) (c q : Nat) (v : TwQueue) : (b.setTwq c q v).deferred = b.deferred := rfl
@[simp] theorem Block.setTwq_basins (b : Block) (c q : Nat) (v : TwQueue) : (b.setTwq c q v).basins = b.basins := rfl
@[simp] theorem Block.setTwq_contexts (b : Block) (c q : Nat) (v : TwQueue) : (b.setTwq c q v).contexts = b.contexts := rfl
@[simp] theorem Block.setTwq_parts (b : Block) (c q : Nat) (v : TwQueue) : (b.setTwq c q v).parts = b.parts := rfl
@[simp] theorem Block.setTwq_mem (b : Block) (c q : Nat) (v : TwQueue) : (b.setTwq c q v).mem = b.mem := rfl
@[simp] theorem Block.setTwq_faults (b : Block) (c q : Nat) (v : TwQueue) : (b.setTwq c q v).faults = b.faults := rfl
@[simp] theorem Block.setTwq_tier (b : Block) (c q : Nat) (v : TwQueue) : (b.setTwq c q v).tier = b.tier := rfl
@[simp] theorem Block.setTwq_slots (b : Block) (c q : Nat) (v : TwQueue) : (b.setTwq c q v).slots = b.slots := rfl
@[simp] theorem Block.setTwq_slotSel (b : Block) (c q : Nat) (v : TwQueue) : (b.setTwq c q v).slotSel = b.slotSel := rfl
@[simp] theorem Block.setTwq_revokedDrops (b : Block) (c q : Nat) (v : TwQueue) : (b.setTwq c q v).revokedDrops = b.revokedDrops := rfl
@[simp] theorem Block.setTwq_epochRetired (b : Block) (c q : Nat) (v : TwQueue) : (b.setTwq c q v).epochRetired = b.epochRetired := rfl
@[simp] theorem Block.setTwq_teardowns (b : Block) (c q : Nat) (v : TwQueue) : (b.setTwq c q v).teardowns = b.teardowns := rfl
@[simp] theorem Block.setTwq_lastTeardown (b : Block) (c q : Nat) (v : TwQueue) : (b.setTwq c q v).lastTeardown = b.lastTeardown := rfl
@[simp] theorem Block.setTwq_teCtrl (b : Block) (c q : Nat) (v : TwQueue) : (b.setTwq c q v).teCtrl = b.teCtrl := rfl
@[simp] theorem Block.setTwq_teCount (b : Block) (c q : Nat) (v : TwQueue) : (b.setTwq c q v).teCount = b.teCount := rfl
@[simp] theorem Block.setTwq_adapters (b : Block) (c q : Nat) (v : TwQueue) : (b.setTwq c q v).adapters = b.adapters := rfl
@[simp] theorem Block.setTwq_host (b : Block) (c q : Nat) (v : TwQueue) : (b.setTwq c q v).host = b.host := rfl
@[simp] theorem Block.setTwq_groups (b : Block) (c q : Nat) (v : TwQueue) : (b.setTwq c q v).groups = b.groups := rfl
@[simp] theorem Block.setTwq_rdEngines (b : Block) (c q : Nat) (v : TwQueue) : (b.setTwq c q v).rdEngines = b.rdEngines := rfl
@[simp] theorem Block.setTwq_kreash (b : Block) (c q : Nat) (v : TwQueue) : (b.setTwq c q v).kreash = b.kreash := rfl
@[simp] theorem Block.setTwq_lock (b : Block) (c q : Nat) (v : TwQueue) : (b.setTwq c q v).lock = b.lock := rfl
@[simp] theorem Block.setTwq_lm (b : Block) (c q : Nat) (v : TwQueue) : (b.setTwq c q v).lm = b.lm := rfl
@[simp] theorem Block.setTwq_gl (b : Block) (c q : Nat) (v : TwQueue) : (b.setTwq c q v).gl = b.gl := rfl
@[simp] theorem Block.setTwq_attest (b : Block) (c q : Nat) (v : TwQueue) : (b.setTwq c q v).attest = b.attest := rfl
@[simp] theorem Block.setTwq_th (b : Block) (c q : Nat) (v : TwQueue) : (b.setTwq c q v).th = b.th := rfl

@[simp] theorem Block.modTwq_freeCtr (b : Block) (c q : Nat) (f : TwQueue → TwQueue) : (b.modTwq c q f).freeCtr = b.freeCtr := rfl
@[simp] theorem Block.modTwq_nextId (b : Block) (c q : Nat) (f : TwQueue → TwQueue) : (b.modTwq c q f).nextId = b.nextId := rfl
@[simp] theorem Block.modTwq_lastIssued (b : Block) (c q : Nat) (f : TwQueue → TwQueue) : (b.modTwq c q f).lastIssued = b.lastIssued := rfl
@[simp] theorem Block.modTwq_stores (b : Block) (c q : Nat) (f : TwQueue → TwQueue) : (b.modTwq c q f).stores = b.stores := rfl
@[simp] theorem Block.modTwq_rekeys (b : Block) (c q : Nat) (f : TwQueue → TwQueue) : (b.modTwq c q f).rekeys = b.rekeys := rfl
@[simp] theorem Block.modTwq_rooms (b : Block) (c q : Nat) (f : TwQueue → TwQueue) : (b.modTwq c q f).rooms = b.rooms := rfl
@[simp] theorem Block.modTwq_deferred (b : Block) (c q : Nat) (f : TwQueue → TwQueue) : (b.modTwq c q f).deferred = b.deferred := rfl
@[simp] theorem Block.modTwq_basins (b : Block) (c q : Nat) (f : TwQueue → TwQueue) : (b.modTwq c q f).basins = b.basins := rfl
@[simp] theorem Block.modTwq_contexts (b : Block) (c q : Nat) (f : TwQueue → TwQueue) : (b.modTwq c q f).contexts = b.contexts := rfl
@[simp] theorem Block.modTwq_parts (b : Block) (c q : Nat) (f : TwQueue → TwQueue) : (b.modTwq c q f).parts = b.parts := rfl
@[simp] theorem Block.modTwq_mem (b : Block) (c q : Nat) (f : TwQueue → TwQueue) : (b.modTwq c q f).mem = b.mem := rfl
@[simp] theorem Block.modTwq_faults (b : Block) (c q : Nat) (f : TwQueue → TwQueue) : (b.modTwq c q f).faults = b.faults := rfl
@[simp] theorem Block.modTwq_tier (b : Block) (c q : Nat) (f : TwQueue → TwQueue) : (b.modTwq c q f).tier = b.tier := rfl
@[simp] theorem Block.modTwq_slots (b : Block) (c q : Nat) (f : TwQueue → TwQueue) : (b.modTwq c q f).slots = b.slots := rfl
@[simp] theorem Block.modTwq_slotSel (b : Block) (c q : Nat) (f : TwQueue → TwQueue) : (b.modTwq c q f).slotSel = b.slotSel := rfl
@[simp] theorem Block.modTwq_revokedDrops (b : Block) (c q : Nat) (f : TwQueue → TwQueue) : (b.modTwq c q f).revokedDrops = b.revokedDrops := rfl
@[simp] theorem Block.modTwq_epochRetired (b : Block) (c q : Nat) (f : TwQueue → TwQueue) : (b.modTwq c q f).epochRetired = b.epochRetired := rfl
@[simp] theorem Block.modTwq_teardowns (b : Block) (c q : Nat) (f : TwQueue → TwQueue) : (b.modTwq c q f).teardowns = b.teardowns := rfl
@[simp] theorem Block.modTwq_lastTeardown (b : Block) (c q : Nat) (f : TwQueue → TwQueue) : (b.modTwq c q f).lastTeardown = b.lastTeardown := rfl
@[simp] theorem Block.modTwq_teCtrl (b : Block) (c q : Nat) (f : TwQueue → TwQueue) : (b.modTwq c q f).teCtrl = b.teCtrl := rfl
@[simp] theorem Block.modTwq_teCount (b : Block) (c q : Nat) (f : TwQueue → TwQueue) : (b.modTwq c q f).teCount = b.teCount := rfl
@[simp] theorem Block.modTwq_adapters (b : Block) (c q : Nat) (f : TwQueue → TwQueue) : (b.modTwq c q f).adapters = b.adapters := rfl
@[simp] theorem Block.modTwq_host (b : Block) (c q : Nat) (f : TwQueue → TwQueue) : (b.modTwq c q f).host = b.host := rfl
@[simp] theorem Block.modTwq_groups (b : Block) (c q : Nat) (f : TwQueue → TwQueue) : (b.modTwq c q f).groups = b.groups := rfl
@[simp] theorem Block.modTwq_rdEngines (b : Block) (c q : Nat) (f : TwQueue → TwQueue) : (b.modTwq c q f).rdEngines = b.rdEngines := rfl
@[simp] theorem Block.modTwq_kreash (b : Block) (c q : Nat) (f : TwQueue → TwQueue) : (b.modTwq c q f).kreash = b.kreash := rfl
@[simp] theorem Block.modTwq_lock (b : Block) (c q : Nat) (f : TwQueue → TwQueue) : (b.modTwq c q f).lock = b.lock := rfl
@[simp] theorem Block.modTwq_lm (b : Block) (c q : Nat) (f : TwQueue → TwQueue) : (b.modTwq c q f).lm = b.lm := rfl
@[simp] theorem Block.modTwq_gl (b : Block) (c q : Nat) (f : TwQueue → TwQueue) : (b.modTwq c q f).gl = b.gl := rfl
@[simp] theorem Block.modTwq_attest (b : Block) (c q : Nat) (f : TwQueue → TwQueue) : (b.modTwq c q f).attest = b.attest := rfl
@[simp] theorem Block.modTwq_th (b : Block) (c q : Nat) (f : TwQueue → TwQueue) : (b.modTwq c q f).th = b.th := rfl

@[simp] theorem Block.spent_nextId (b : Block) (n : Nat) : (b.spent n).nextId = b.nextId := rfl
@[simp] theorem Block.spent_lastIssued (b : Block) (n : Nat) : (b.spent n).lastIssued = b.lastIssued := rfl
@[simp] theorem Block.spent_stores (b : Block) (n : Nat) : (b.spent n).stores = b.stores := rfl
@[simp] theorem Block.spent_rekeys (b : Block) (n : Nat) : (b.spent n).rekeys = b.rekeys := rfl
@[simp] theorem Block.spent_rooms (b : Block) (n : Nat) : (b.spent n).rooms = b.rooms := rfl
@[simp] theorem Block.spent_deferred (b : Block) (n : Nat) : (b.spent n).deferred = b.deferred := rfl
@[simp] theorem Block.spent_cores (b : Block) (n : Nat) : (b.spent n).cores = b.cores := rfl
@[simp] theorem Block.spent_basins (b : Block) (n : Nat) : (b.spent n).basins = b.basins := rfl
@[simp] theorem Block.spent_contexts (b : Block) (n : Nat) : (b.spent n).contexts = b.contexts := rfl
@[simp] theorem Block.spent_parts (b : Block) (n : Nat) : (b.spent n).parts = b.parts := rfl
@[simp] theorem Block.spent_mem (b : Block) (n : Nat) : (b.spent n).mem = b.mem := rfl
@[simp] theorem Block.spent_faults (b : Block) (n : Nat) : (b.spent n).faults = b.faults := rfl
@[simp] theorem Block.spent_tier (b : Block) (n : Nat) : (b.spent n).tier = b.tier := rfl
@[simp] theorem Block.spent_slots (b : Block) (n : Nat) : (b.spent n).slots = b.slots := rfl
@[simp] theorem Block.spent_slotSel (b : Block) (n : Nat) : (b.spent n).slotSel = b.slotSel := rfl
@[simp] theorem Block.spent_revokedDrops (b : Block) (n : Nat) : (b.spent n).revokedDrops = b.revokedDrops := rfl
@[simp] theorem Block.spent_epochRetired (b : Block) (n : Nat) : (b.spent n).epochRetired = b.epochRetired := rfl
@[simp] theorem Block.spent_teardowns (b : Block) (n : Nat) : (b.spent n).teardowns = b.teardowns := rfl
@[simp] theorem Block.spent_lastTeardown (b : Block) (n : Nat) : (b.spent n).lastTeardown = b.lastTeardown := rfl
@[simp] theorem Block.spent_teCtrl (b : Block) (n : Nat) : (b.spent n).teCtrl = b.teCtrl := rfl
@[simp] theorem Block.spent_teCount (b : Block) (n : Nat) : (b.spent n).teCount = b.teCount := rfl
@[simp] theorem Block.spent_adapters (b : Block) (n : Nat) : (b.spent n).adapters = b.adapters := rfl
@[simp] theorem Block.spent_host (b : Block) (n : Nat) : (b.spent n).host = b.host := rfl
@[simp] theorem Block.spent_groups (b : Block) (n : Nat) : (b.spent n).groups = b.groups := rfl
@[simp] theorem Block.spent_rdEngines (b : Block) (n : Nat) : (b.spent n).rdEngines = b.rdEngines := rfl
@[simp] theorem Block.spent_kreash (b : Block) (n : Nat) : (b.spent n).kreash = b.kreash := rfl
@[simp] theorem Block.spent_lock (b : Block) (n : Nat) : (b.spent n).lock = b.lock := rfl
@[simp] theorem Block.spent_lm (b : Block) (n : Nat) : (b.spent n).lm = b.lm := rfl
@[simp] theorem Block.spent_gl (b : Block) (n : Nat) : (b.spent n).gl = b.gl := rfl
@[simp] theorem Block.spent_attest (b : Block) (n : Nat) : (b.spent n).attest = b.attest := rfl
@[simp] theorem Block.spent_th (b : Block) (n : Nat) : (b.spent n).th = b.th := rfl

/-! ### The units after an update -/

@[simp] theorem Block.core_setCore_same (b : Block) (c : Nat) (v : Core) : (b.setCore c v).core c = v := SMap.get_put_same ..
theorem Block.core_setCore_other (b : Block) (c d : Nat) (v : Core) (h : d ≠ c) : (b.setCore c v).core d = b.core d :=
  SMap.get_put_other _ _ _ _ _ h
@[simp] theorem Block.basin_setBasin_same (b : Block) (n : Nat) (v : Basin) : (b.setBasin n v).basin n = v := SMap.get_put_same ..
theorem Block.basin_setBasin_other (b : Block) (n m : Nat) (v : Basin) (h : m ≠ n) : (b.setBasin n v).basin m = b.basin m :=
  SMap.get_put_other _ _ _ _ _ h
@[simp] theorem Block.func_setFunc_same (b : Block) (n : Nat) (v : Func) : (b.setFunc n v).func n = v := SMap.get_put_same ..
theorem Block.func_setFunc_other (b : Block) (n m : Nat) (v : Func) (h : m ≠ n) : (b.setFunc n v).func m = b.func m :=
  SMap.get_put_other _ _ _ _ _ h
@[simp] theorem Block.slot_setSlot_same (b : Block) (n : Nat) (v : KeySlot) : (b.setSlot n v).slot n = v := SMap.get_put_same ..
theorem Block.slot_setSlot_other (b : Block) (n m : Nat) (v : KeySlot) (h : m ≠ n) : (b.setSlot n v).slot m = b.slot m :=
  SMap.get_put_other _ _ _ _ _ h
@[simp] theorem Core.thread_setThread_same (c : Core) (n : Nat) (v : Thread) : (c.setThread n v).thread n = v := SMap.get_put_same ..
theorem Core.thread_setThread_other (c : Core) (n m : Nat) (v : Thread) (h : m ≠ n) : (c.setThread n v).thread m = c.thread m :=
  SMap.get_put_other _ _ _ _ _ h
@[simp] theorem Core.pair_setPair_same (c : Core) (n : Nat) (v : Pair) : (c.setPair n v).pair n = v := SMap.get_put_same ..
theorem Core.pair_setPair_other (c : Core) (n m : Nat) (v : Pair) (h : m ≠ n) : (c.setPair n v).pair m = c.pair m :=
  SMap.get_put_other _ _ _ _ _ h
@[simp] theorem Core.twq_setTwq_same (c : Core) (n : Nat) (v : TwQueue) : (c.setTwq n v).twq n = v := SMap.get_put_same ..
theorem Core.twq_setTwq_other (c : Core) (n m : Nat) (v : TwQueue) (h : m ≠ n) : (c.setTwq n v).twq m = c.twq m :=
  SMap.get_put_other _ _ _ _ _ h

@[simp] theorem Block.thread_setThread_same (b : Block) (th : Nat) (v : Thread) : (b.setThread th v).thread th = v := by
  simp [Block.thread, Block.setThread, Block.modCore]

theorem Block.thread_setThread_other (b : Block) (th n : Nat) (v : Thread) (h : n ≠ th) :
    (b.setThread th v).thread n = b.thread n := by
  unfold Block.thread Block.setThread Block.modCore
  by_cases hc : n / 16 = th / 16
  · rw [hc, Block.core_setCore_same, Core.thread_setThread_other _ _ _ _ (by omega)]
  · rw [Block.core_setCore_other _ _ _ _ hc]

/-- Setting a thread leaves every other field of its core, and every other core, as it is. -/
theorem Block.core_setThread (b : Block) (th c : Nat) (v : Thread) :
    (b.setThread th v).core c = if c = th / 16 then (b.core c).setThread (th % 16) v else b.core c := by
  unfold Block.setThread Block.modCore
  split
  · subst_vars; simp
  · rw [Block.core_setCore_other _ _ _ _ ‹_›]

/-! ### Registers of a thread -/

@[simp] theorem Thread.getG_zero (t : Thread) : t.getG 0 = 0 := rfl
@[simp] theorem Thread.getP_zero (t : Thread) : t.getP 0 = true := rfl
@[simp] theorem Thread.setG_zero (t : Thread) (v : U64) : t.setG 0 v = t := rfl

theorem Thread.getG_setG (t : Thread) (r x : Reg) (v : U64) :
    (t.setG r v).getG x = if x = r ∧ r ≠ 0 then v else t.getG x := by
  by_cases hr : r = 0
  · rw [Thread.setG, if_pos hr, if_neg fun h : x = r ∧ r ≠ 0 => h.2 hr]
  · rw [Thread.setG, if_neg hr, Thread.getG, Thread.getG]
    by_cases h : x = r
    · subst h; rw [if_neg hr, if_pos ⟨rfl, hr⟩]; exact SMap.get_put_same ..
    · have : x.toNat ≠ r.toNat := fun e => h (BitVec.eq_of_toNat_eq e)
      rw [if_neg fun e : x = r ∧ r ≠ 0 => h e.1, SMap.get_put_other _ _ _ _ _ this]

theorem Thread.setG_eq (t : Thread) (r : Reg) (v : U64) : t.setG r v = { t with g := (t.setG r v).g } := by
  unfold Thread.setG; split <;> rfl

end Sys2Proof.Machine
end

