-- ==== Sys2Proof/Laws/Issue.lean ====
section
/-! SUPPORT. What the forms of the commands do: the issue of an instruction, the guard of a command whose operands name
units, and the passage from the block to the state. -/

namespace Sys2Proof.Machine

/-- A command whose effect on the block is a next block completes and keeps the queue. -/
theorem onBlock_next {b b' : Block} {f : Block → BlockResult} (q : List Instr) (h : f b = .next b') :
    onBlock ⟨b, q⟩ f = .next ⟨b', q⟩ := by simp [onBlock, h]

/-- A command completes when its effect on the block answers a next block. -/
theorem does_of {i : Instr} {b b' : Block} {f : Block → BlockResult} (he : ∀ s, exec i s = onBlock s f) (h : f b = .next b') :
    Does i b b' := fun q => (he _).trans (onBlock_next q h)

/-- A guard that holds is passed. -/
@[simp] theorem within_true (b : Block) (f : Block → Block) : within true b f = .next (f b) := rfl
@[simp] theorem within_false (b : Block) (f : Block → Block) : within false b f = .fault .noSuchUnit := rfl
theorem within_of {ok : Bool} (b : Block) (f : Block → Block) (h : ok = true) : within ok b f = .next (f b) := by
  simp [within, h]

/-- An instruction whose thread is READY, whose words are cached and whose turn it is takes its effect. -/
theorem issue_of {b : Block} {th : Nat} {two : Bool} (f : Block → Block) (h : canIssue b th two = true) :
    issue th two b f = .next (noted th (f b)) := by
  simp only [canIssue, Bool.and_eq_true, decide_eq_true_eq] at h
  simp [issue, h.1.1.2, h.1.2, h.2, Nat.not_le.2 h.1.1.1]

/-- All that the issue of an instruction can do: stop on a thread the module does not have, leave the block as it is,
start a fetch, or the instruction's effect, with the note of who issued. -/
theorem issue_cases {b : Block} {th : Nat} {two : Bool} (f : Block → Block) :
    issue th two b f = .fault .noSuchUnit ∨ issue th two b f = .next b ∨ issue th two b f = .next (fetchMiss th two b)
      ∨ issue th two b f = .next (noted th (f b)) := by
  unfold issue
  split
  · exact .inl rfl
  · split
    · exact .inr (.inl rfl)
    · split
      · exact .inr (.inr (.inl rfl))
      · split
        · exact .inr (.inr (.inr rfl))
        · exact .inr (.inl rfl)

/-- The instruction of a thread whose turn it is not stays where it is. -/
theorem issue_notTurn {b : Block} {th : Nat} {two : Bool} (f : Block → Block) (hth : th < threadCount)
    (hf : fetchHits b th two = true) (h : issueTurn b th = false) : issue th two b f = .next b := by
  simp [issue, hf, h, Nat.not_le.2 hth]

/-- As `issue_of`, for a word that reads or writes predicates no unfinished command has to write. -/
theorem issueP_of {b : Block} {th : Nat} {ps : List Pred} (f : Block → Block) (h : canIssue b th false = true)
    (hp : predsReady b th ps = true) : issueP th ps b f = .next (noted th (f b)) := by
  simp [issueP, issue_of f h, hp]

/-- A word that reads or writes a predicate still to be written leaves its thread WAITING for it (R103). -/
theorem issueP_waits {b : Block} {th : Nat} {ps : List Pred} (f : Block → Block) (hth : th < threadCount)
    (hr : (b.thread th).st = .ready) (hf : fetchHits b th false = true) (hp : predsReady b th ps = false) :
    issueP th ps b f = .next (b.modThread th fun t => { t with st := .waiting, wait := .operand }) := by
  simp [issueP, hth, hr, hf, hp]

/-- An instruction that completes as its thread's issue does. -/
theorem issues_of {i : Instr} {b b' : Block} {th : Nat} {f : Block → BlockResult} (he : ∀ s, exec i s = onBlock s f)
    (h : f b = .next (noted th b')) : Issues th i b b' := does_of he h

/-- The note of who issued changes the last issuer of one core and nothing else. -/
@[simp] theorem noted_core (b : Block) (th c : Nat) : (noted th b).core c = b.core c := rfl
@[simp] theorem noted_thread (b : Block) (th n : Nat) : (noted th b).thread n = b.thread n := rfl
@[simp] theorem noted_mem (b : Block) (th : Nat) : (noted th b).mem = b.mem := rfl
@[simp] theorem noted_lastThread (b : Block) (th : Nat) : (noted th b).lastThread (th / 16) = th % 16 := by
  simp [noted, Block.lastThread]
theorem noted_lastThread_other (b : Block) (th c : Nat) (h : c ≠ th / 16) : (noted th b).lastThread c = b.lastThread c := by
  simp [noted, Block.lastThread, SMap.get_put_other _ _ _ _ _ h]
theorem noted_eq (b : Block) (th : Nat) : { noted th b with lastIssued := b.lastIssued } = b := rfl

/-- A thread that is not READY issues nothing. -/
theorem issue_notReady {b : Block} {th : Nat} {two : Bool} (f : Block → Block) (hth : th < threadCount)
    (h : (b.thread th).st ≠ .ready) : issue th two b f = .next b := by
  simp [issue, h, Nat.not_le.2 hth]

/-- A thread whose instruction is not in its cache waits for the line. -/
theorem issue_miss {b : Block} {th : Nat} {two : Bool} (f : Block → Block) (hth : th < threadCount)
    (h : (b.thread th).st = .ready) (hm : fetchHits b th two = false) : issue th two b f = .next (fetchMiss th two b) := by
  simp [issue, h, hm, Nat.not_le.2 hth]

/-- Setting the one thread that an instruction belongs to leaves the rest of the block alone. -/
theorem onlyThread_modThread (b : Block) (th : Nat) (f : Thread → Thread) : onlyThread th b (b.modThread th f) := by
  refine ⟨fun n h => Block.thread_setThread_other _ _ _ _ h, fun c => ?_, rfl⟩
  rw [Block.modThread, Block.core_setThread]
  split <;> rfl

@[simp] theorem Block.thread_modThread_same (b : Block) (th : Nat) (f : Thread → Thread) :
    (b.modThread th f).thread th = f (b.thread th) := Block.thread_setThread_same ..

/-! ### Entries of rings and service queues -/

/-- An entry that is ready takes its operation's effect. -/
theorem runOp_of {b : Block} {p : Poster} {op : Nat} {t : Taken} (f : Taken → Block → Block) (h : opReady b p op t) :
    within (posterOk p) b (runOp p op f) = .next (f t b) := by
  simp [within, h.poster, runOp, h.taken, h.up, h.op, h.fresh, h.turn, h.may]

/-- All that an operation's row can do: nothing, end its entry with PERM_FAULT, or its operation's effect. -/
theorem runOp_cases (p : Poster) (op : Nat) (f : Taken → Block → Block) (b : Block) :
    runOp p op f b = b ∨ runOp p op f b = complete p .permFault 0 b
      ∨ ∃ t, b.host.taken.find? (fun x => x.poster == p) = some t ∧ t.op = op ∧ runOp p op f b = f t b := by
  unfold runOp
  split
  · exact .inl rfl
  · rename_i t ht
    split
    · exact .inl rfl
    · split
      · exact .inr (.inl rfl)
      · rename_i h _
        exact .inr (.inr ⟨t, ht, by simp at h; exact h.1.1.2, rfl⟩)

end Sys2Proof.Machine
end

