-- ==== Sys2Proof/Machine/Fetch.lean ====
section
/-! DEFINITION. The instruction at a thread's program counter, read from its core's instruction cache (R97, R104, R107,
R1009). The rows that a thread issues name their instruction; this is the one its memory spells (assumption 1). -/

namespace Sys2Proof.Machine

/-- The word at a virtual address in the cache's lines. -/
def Core.cachedWord (c : Core) (ctx va : Nat) : Option Nat :=
  (c.icache.find? fun l => l.ctx == ctx && l.va == va / 64 * 64).map fun l => leNat ((l.data.drop (va % 64)).take 4)

/-- The instruction that a READY thread issues next, where its fetch hits. -/
def nextInstr (s : Block) (th : Nat) : Option Instr :=
  let c := s.core (th / 16)
  let ctx := (s.ctxOf (th / 16)).getD 0xFFFF
  let pc := (s.thread th).pc.toNat
  match c.cachedWord ctx pc with
  | none => none
  | some w => if canIssue s th (wordIsLong w) then decodeNonov th w ((c.cachedWord ctx (pc + 4)).getD 0) else none

end Sys2Proof.Machine
end

