-- ==== Sys2Proof/Tests/Slice0.lean ====
section
/-! SUPPORT. The model's own tests: ill-formed terms that the check refuses, single steps with results taken from the manual's
tables and worked values, and witnesses that the hypotheses of the statements can be met. A clause whose hypothesis asks an opaque
function of Config for a value (a signature that verifies, a key agreement that succeeds) has no concrete witness: nothing in Lean
evaluates it. -/

namespace Sys2Proof.Tests

open Sys2Proof Sys2Proof.Machine

set_option maxRecDepth 20000

/-! ### Ill-formed commands: one for each check -/

theorem test_wf_thread : (Instr.add 65664 1 2 3).wellFormed = false := by decide
theorem test_wf_thread_last : (Instr.add 65663 1 2 3).wellFormed = true := by decide
theorem test_wf_core : (Instr.flipSwap 4096).wellFormed = false := by decide
theorem test_wf_queue : (Instr.commandComplete (.mx 4096)).wellFormed = false ∧ (Instr.passStart (.mv 256)).wellFormed = false
    ∧ (Instr.depSatisfied (.sysRd 16)).wellFormed = false := by decide
theorem test_wf_basin : (Instr.lockGrantSlot 256).wellFormed = false := by decide
theorem test_wf_stop : (Instr.engineStopPoint (.towpath 4096 0)).wellFormed = false := by decide
theorem test_wf_tier : (Instr.pageMove 8).wellFormed = false := by decide
theorem test_wf_context : (Instr.scheduleEntryStart 65536).wellFormed = false ∧ (Instr.serviceQueuePoll 65536).wellFormed = false := by decide
theorem test_wf_slot : (Instr.rekeyPage 4096 0 0).wellFormed = false ∧ (Instr.keyReserve 4096 0).wellFormed = false := by decide
theorem test_wf_die : (Instr.faultRecordTake 8).wellFormed = false := by decide
theorem test_wf_sram : (Instr.patrolSram 0 17 0 1).wellFormed = false ∧ (Instr.patrolSram 0 0 0xC0000 1).wellFormed = false := by decide
theorem test_wf_memory : (Instr.patrolMem .t1 0xD8_0000_0000 []).wellFormed = false := by decide
theorem test_wf_partition : (Instr.ticketModeChange 64).wellFormed = false := by decide
theorem test_wf_poster : (Instr.adMode (.ring 64 0 0)).wellFormed = false ∧ (Instr.adMode (.ring 0 4 0)).wellFormed = false
    ∧ (Instr.adMode (.service 65536 0)).wellFormed = false := by decide
theorem test_wf_entry : (Instr.revokeGraceExpiry 16777216).wellFormed = false := by decide
theorem test_wf_function : (Instr.functionLevelReset 64).wellFormed = false ∧ (Instr.hiCrTail 64 0 0).wellFormed = false := by decide
theorem test_wf_link : (Instr.linkDown 12).wellFormed = false := by decide
theorem test_wf_stream : (Instr.streamEnable 1024 0).wellFormed = false ∧ (Instr.streamRecordRx 0 31).wellFormed = false
    ∧ (Instr.rdRecordRx 0 32).wellFormed = false ∧ (Instr.linkReturnTimeout 31).wellFormed = false := by decide
theorem test_wf_group : (Instr.rdTimeout 16 0).wellFormed = false := by decide
theorem test_wf_module : (Instr.weirNoticeRx 4096).wellFormed = false := by decide
theorem test_wf_gate : (Instr.unitStop (.core 4096 false)).wellFormed = false := by decide

/-! ### Instruction words, written out from the manual's encodings -/

/-- The loop of chapter 3's worked example, word by word. -/
theorem test_words_loop : decodeNonov 0 0x40E41800 0 = some (.ldt 0 7 4 3 false 0) ∧ decodeNonov 0 0x04A53800 0 = some (.add 0 5 5 7)
    ∧ decodeNonov 0 0x08840008 0 = some (.addi 0 4 4 8) ∧ decodeNonov 0 0x0908FFFF 0 = some (.addi 0 8 8 0xFFFF)
    ∧ decodeNonov 0 0x24280800 0 = some (.cmpi 0 .set 1 .ne 8 0) ∧ decodeNonov 0 0x3220FFFB 0 = some (.branch 0 true 1 0xFFFB) := by decide
/-- `nop` (R109) and the all-zero word (R108). -/
theorem test_words_nop : decodeNonov 0 0x08000000 0 = some (.addi 0 0 0 0) ∧ decodeNonov 0 0 0 = some (.illegalOp 0) := by decide
/-- Reserved fields: F[10:6] of `int`, B of `clz`, 0b11 of `shi`, F of `jr` above 1 (R109, R110, R112, R120). -/
theorem test_words_reserved : decodeNonov 0 0x04000040 0 = some (.illegalOp 0) ∧ decodeNonov 0 0x04000814 0 = some (.illegalOp 0)
    ∧ decodeNonov 0 0x18000600 0 = some (.illegalOp 0) ∧ decodeNonov 0 0x3C000002 0 = some (.illegalOp 0) := by decide
/-- `li` takes imm48 from I and the second word; `jl` with its link bit (R108, R121). -/
theorem test_words_long : decodeNonov 0 0xE0208000 5 = some (.li 0 1 0x800000000005) ∧ decodeNonov 0 0xEA000000 7 = some (.jl 0 true 7)
    ∧ wordIsLong 0xE0208000 = true := by decide
/-- `amo.cas` of 64 bits, `th.start`, `rdst` TICK, `sy.fence.dev` (R132, R135, R139, R200). -/
theorem test_words_thread : decodeNonov 0 0x50221A60 0 = some (.amoCas 0 1 2 3 true) ∧ decodeNonov 0 0x60221802 0 = some (.thStart 0 1 2 3)
    ∧ decodeNonov 0 0x64200006 0 = some (.rdst 0 1 .tick) ∧ decodeNonov 0 0x74002001 0 = some (.syFence 0 .dev) := by decide
/-- `eng g9, g20, vx, vx.exp`; a reserved unit; a reserved code, which the unit's first row carries
(R141, R143, R284, R358). -/
theorem test_words_eng : decodeNonov 0 0x7134204A 0 = some (.vxExp 0 9 20 0) ∧ decodeNonov 0 0x71345801 0 = some (.illegalOp 0)
    ∧ decodeNonov 0 0x71340810 0 = some (.mxFwd 0 9 20 ⟨0, 0x10⟩) := by decide
/-- A reserved `sys` word: PRIV_OP outside the system class, ILLEGAL_OP inside it (R147). -/
theorem test_words_sys : decodeNonov 0 0x80000009 0 = some (.sysTstop 0 0 0) ∧ decodeNonov 65536 0x80000009 0 = some (.illegalOp 65536)
    ∧ decodeNonov 65536 0x80221805 0 = some (.sysCtxbind 65536 1 2 3) := by decide

/-! ### Small states -/

/-- The line of addresses 0 to 63 in an instruction cache. -/
def line (ctx : Nat) : ICLine := { ctx := ctx, va := 0, set := 0, way := 0, data := [] }

/-- A core of a compute die in no context whose thread 0 is READY at 0, with some g registers. -/
def core0 (g : SMap U64) : Core :=
  { Core.init with threads := [(0, { Thread.init with st := .ready, g := g })], icache := [line 0xFFFF] }
def one (g : SMap U64) : Block := { Block.reset with cores := [(0, core0 g)] }

/-- The instruction at a program counter, from the bytes of a held line, least significant first. -/
theorem test_next_instr : nextInstr { one [] with cores := [(0, { core0 [] with icache := [{ line 0xFFFF with data := [0x00, 0x38, 0xA5, 0x04] }] })] } 0
    = some (.add 0 5 5 7) := by decide

/-- Firmware's core 4096, in its context 0 of direct addresses, whose thread 0 is READY. -/
def firmware (g : SMap U64) : Block :=
  { Block.reset with
    cores := [(4096, { Core.init with ctx := some 0, threads := [(0, { Thread.init with st := .ready, g := g })], icache := [line 0] })]
    contexts := [(0, firmwareContext)] }

/-- Module up and READY, with what the host has posted taken. -/
def up (ts : List Taken) : Block :=
  { Block.reset with
    th := { Tollhouse.init with railUp := true, mainUp := true, perstN := true, stage := .ready }
    host := { HostIf.init with taken := ts }
    attest := { Attest.init with identityOk := true } }
/-- Entry 0 of ring 0 of the physical function. -/
def entry (op : Nat) (args : List U64) : Taken := { poster := .ring 0 0 0, op := op, tag := 0, args := args, started := false, outcome := none }
/-- Entry 0 of the service queue of context 1. -/
def posted (op : Nat) (args : List U64) : Taken := { poster := .service 1 0, op := op, tag := 0, args := args, started := false, outcome := none }

/-! ### Single steps -/

/-- What a field of the next state is. -/
def after {α : Type} (i : Instr) (b : Block) (f : Block → α) : Option α :=
  match exec i ⟨b, []⟩ with
  | .next s => some (f s.block)
  | _ => none

/-- R110: addition is modulo 2^64. -/
theorem test_add_wraps : after (.add 0 3 1 2) (one [(1, 0xFFFF_FFFF_FFFF_FFFF), (2, 2)]) (fun b => b.g 0 3) = some 1 := by decide
/-- R97: g0 reads 0 and discards a write. -/
theorem test_g0 : after (.add 0 0 1 1) (one [(1, 5)]) (fun b => b.g 0 0) = some 0 := by decide
/-- R111: division by 0 gives all ones, and its remainder the dividend. -/
theorem test_div_zero : after (.div 0 3 1 2) (one [(1, 7)]) (fun b => b.g 0 3) = some 0xFFFF_FFFF_FFFF_FFFF := by decide
theorem test_rem_zero : after (.rem 0 3 1 2) (one [(1, 7)]) (fun b => b.g 0 3) = some 7 := by decide
/-- R111: the most negative dividend by −1. -/
theorem test_div_min : after (.div 0 3 1 2) (one [(1, 0x8000_0000_0000_0000), (2, 0xFFFF_FFFF_FFFF_FFFF)]) (fun b => b.g 0 3)
    = some 0x8000_0000_0000_0000 := by decide
/-- R110: an arithmetic shift keeps the sign, and takes the amount modulo 64. -/
theorem test_sra : after (.sra 0 3 1 2) (one [(1, 0x8000_0000_0000_0000), (2, 65)]) (fun b => b.g 0 3) = some 0xC000_0000_0000_0000 := by decide
theorem test_clz : after (.clz 0 3 1) (one [(1, 1)]) (fun b => b.g 0 3) = some 63 := by decide
/-- R119: a call writes the address of the next instruction to g31, and its target counts words. -/
theorem test_call : after (.call 0 4) (one []) (fun b => (b.g 0 31, (b.thread 0).pc)) = some (4, 16) := by decide
/-- R152: a breakpoint stops its thread with cause BREAK, at its word. -/
theorem test_brk : after (.thBrk 0) (one []) (fun b => ((b.thread 0).st, (b.thread 0).cause, (b.thread 0).pc)) = some (.stopped, .brk, 0) := by decide
/-- R147: a privileged word of a compute-die core halts it with PRIV_OP. -/
theorem test_priv : after (.sysScrub 0 1 2) (one []) (fun b => ((b.thread 0).st, (b.thread 0).cause)) = some (.halted, .privOp) := by decide
/-- R123: a store and its low bytes, in little-endian order. -/
theorem test_stt : after (.stt 0 1 2 1 0) (one [(1, 0xABCD), (2, 0x100)]) (fun b => ((b.core 0).ts.byte 0x100, (b.core 0).ts.byte 0x101))
    = some (0xCD, 0xAB) := by decide
/-- R125: the last byte of the tile store is in range, the one after it is not. -/
theorem test_ldt_range : after (.ldt 0 3 2 0 false 0) (one [(2, 0x7FFFF)]) (fun b => (b.thread 0).cause) = some .none
    ∧ after (.ldt 0 3 2 0 false 0) (one [(2, 0x80000)]) (fun b => (b.thread 0).cause) = some .tsRange := by decide
/-- R124: an address that is no multiple of the size traps. -/
theorem test_misaligned : after (.ldt 0 3 2 3 false 0) (one [(2, 4)]) (fun b => (b.thread 0).cause) = some .misaligned := by decide
/-- R137: a wake is kept for the next park. -/
theorem test_wake_then_park : after (.thWake 0 0) (one []) (fun b => (b.thread 0).wake) = some true := by decide
/-- R139: the identity selectors. -/
theorem test_rdst : after (.rdst 0 3 .threadLocal) (one []) (fun b => b.g 0 3) = some 0 := by decide
/-- R144: a matrix word of a system core is no word of it. -/
theorem test_eng_unit : after (.mxFwd 65536 1 2 ⟨0, 1⟩) (firmware []) (fun b => (b.thread 65536).cause) = some .illegalOp := by decide
/-- A word that no line holds leaves its thread WAITING (R104). -/
theorem test_fetch_miss : after (.add 0 3 1 2) { one [] with cores := [(0, { core0 [] with icache := [] })] } (fun b => (b.thread 0).st)
    = some .waiting := by decide
/-- R801: KEY_ZEROIZE of a slot that is not REVOKED is BUSY. -/
theorem test_zeroize_busy : after (.keyZeroize (.fw false) 5) (up []) (fun b => b.attest.keyStatus) = some .busy := by decide
/-- R886: a link whose EN is set trains. -/
theorem test_link_enable : after (.linkEnable 3 true) (up []) (fun b => (b.link 3).st) = some .train := by decide
/-- R915: a sample of 43 V takes the module to level 2. -/
theorem test_weir : after (.vinSample 430 false false) (up []) (fun b => b.lock.level) = some 2 := by decide
/-- R840, R842: an entry that completes leaves its status in the entry, at byte 1. -/
theorem test_complete : after (.partDestroy (.ring 0 0 0)) (up [entry 0x39 [5]]) (fun b => b.mem.host.byte 1) = some 0x7F := by decide
/-- An empty queue is one tick (assumption 18). -/
theorem test_tick : (match step ⟨{ Block.reset with th := { Tollhouse.init with railUp := true, refclk := true } }, []⟩ with
    | .next s => s.block.gl.timebase
    | _ => 0) = 1 := by decide
/-- The conversions to E4M3 of the example after R306: 460, 470, the word after 0.001's rounding, −0 and infinity. -/
theorem test_e4m3 : (convert .e4m3 none (.fin false 460 0)).1 = 0x7E ∧ (convert .e4m3 none (.fin false 470 0)) = (0x7E, ⟨0, 0, 1⟩)
    ∧ (convert .e4m3 none (f32Val 0x3A83126F)).1 = 0x01 ∧ (convert .e4m3 none (.fin true 0 0)).1 = 0x80
    ∧ (convert .e4m3 none (.inf false)) = (0x7E, ⟨0, 0, 1⟩) ∧ (convert .e4m3 none .nan) = (0x7F, ⟨1, 0, 0⟩) := by decide
/-- The register of the address map's example lies at 0x0111_5118 of PF BAR0. -/
theorem test_address : pfReg 0x0111_5118 = some (.twStat (17 * 16 + 5) 2) := by decide
theorem test_decode : decodeTableWord 32 0 = none := by decide

/-! ### Witnesses: states that meet the hypotheses of the statements -/

/-- SafeStatesStepToSafeStates. -/
theorem test_wit_safe : State.safe ⟨one [], [.add 0 1 2 3, .rqAdmit (.ring 0 0 0)]⟩ := by
  intro c h; simp at h; rcases h with rfl | rfl <;> decide
/-- The statements of instructions that issue: one word, two words, with predicates. -/
theorem test_wit_issue : canIssue (one []) 0 false = true ∧ canIssue (one []) 0 true = true ∧ predsReady (one []) 0 [1, 2, 7] = true
    ∧ canIssue (firmware []) 65536 false = true := by decide
/-- JumpsReachTheirTargets: the target of a jump is fetched; a predicate of each sense. -/
theorem test_wit_jump : fetchStatus (one []) 0 60 = none ∧ ((one []).thread 0).getP 0 = true ∧ ((one []).thread 0).getP 1 = false := by decide
/-- TrapsAreTaken: a misaligned address, one just past the end, and a misaligned atomic of each size. -/
theorem test_wit_traps : (effAddr (one [(2, 1)]) 0 2 1 0).toNat % sizeBytes 1 ≠ 0
    ∧ 0x7FFFF - sizeBytes 0 + 1 < (effAddr (one [(2, 0x80000)]) 0 2 0 0).toNat ∧ (effAddr (one [(2, 0x80000)]) 0 2 0 0).toNat % sizeBytes 0 = 0
    ∧ ((one [(2, 4)]).g 0 2).toNat % 8 ≠ 0 ∧ ((one [(2, 2)]).g 0 2).toNat % 4 ≠ 0 := by decide
/-- NotReadyThreadsIssueNothing. -/
theorem test_wit_notReady : (Block.reset.thread 65663).st ≠ .ready
    ∧ fetchHits { one [] with cores := [(0, { core0 [] with icache := [] })] } 0 false = false := by decide
/-- TileLoadReadsItsBytes and TileStoreWritesItsBytesOnly, at the last byte of the tile store. -/
theorem test_wit_tile : (effAddr (one [(2, 0x7FFFF)]) 0 2 0 0).toNat ≤ 0x7FFFF - 1 + 1 ∧ ((one []).core 0).streamTouch 0x7FFFF 1 = none
    ∧ ((one []).core 0).badIn 0x7FFFF 1 = none ∧ ((one []).core 0).tsWriteBad 0x7FFFF 1 = none := by decide
/-- A core whose pair 0 has its lower half as compute chamber. -/
def paired : Core := { core0 [] with pairs := [(0, { enabled := true, base := 0, half := 64, upperCompute := false, flipWait := false })] }
/-- TileAccessWaitsForItsChamber: the upper half is the stream chamber. -/
theorem test_wit_chamber : (({ one [] with cores := [(0, paired)] } : Block).core 0).streamTouch 64 8 = some (0, true) := by decide

/-- The result of a translation. -/
def reaches (b : Block) (va acc : Nat) : Bool := match (translate none 0 va acc b).1 with
  | .ok _ => true
  | .error _ => false
/-- DeviceLoadReturnsItsBytes, DeviceStoreWritesItsBytesOnly and AtomicsUpdateOneLocation: firmware's direct addresses translate. -/
theorem test_wit_translate : reaches (firmware []) 0x1000 accRead = true ∧ reaches (firmware []) 0x1000 accWrite = true
    ∧ reaches (firmware []) 0x1000 accAtomic = true ∧ reaches (firmware []) 0 accExec = true ∧ t1WriteBad (firmware []) 0x1000 8 = none
    ∧ t1BadIn (firmware []) 0x1000 8 = none := by decide
/-- Firmware's core with an empty instruction cache, its thread 0 as given. -/
def unfilled (st : TState) (w : WaitOp) : Block :=
  { Block.reset with
    cores := [(4096, { Core.init with ctx := some 0, threads := [(0, { Thread.init with st := st, wait := w })] })]
    contexts := [(0, firmwareContext)] }
/-- InstructionCacheFillReleasesTheThread: a READY thread whose line is not held and one whose line is, a thread that waits for a
line, one that waits for none; the line's bytes may be executed and are sound. -/
theorem test_wit_fill : ((unfilled .ready .none).thread 65536).st = .ready ∧ ((unfilled .ready .none).core 4096).holdsLine 0 0 = false
    ∧ ((firmware []).core 4096).holdsLine 0 0 = true ∧ ((unfilled .waiting (.fetch 0 false 0)).thread 65536).wait = .fetch 0 false 0
    ∧ ((unfilled .parked .none).thread 65536).st ≠ .ready
    ∧ (translateAccess (tlbOf 4096) 0 accExec 0 4 (unfilled .waiting (.fetch 0 false 0))).1.1 = none
    ∧ t1BadIn (unfilled .waiting (.fetch 0 false 0)) 0 64 = none := by decide
/-- A fill brings the line, and its thread is READY. -/
theorem test_fill : after (.icacheFill 65536) (unfilled .waiting (.fetch 0 false 0))
    (fun b => ((b.thread 65536).st, (b.core 4096).holdsLine 0 0)) = some (.ready, true) := by decide +kernel
/-- Two READY threads of core 0, the first of which issued last. -/
def twoReady : Block :=
  { Block.reset with
    cores := [(0, { core0 [] with threads := [(0, { Thread.init with st := .ready }), (1, { Thread.init with st := .ready })] })]
    lastIssued := [(0, 0)] }
/-- NotReadyThreadsIssueNothing: the thread that issued last is not in turn, the next one is (R101). -/
theorem test_wit_turn : fetchHits twoReady 0 false = true ∧ issueTurn twoReady 0 = false ∧ issueTurn twoReady 1 = true
    ∧ (∀ i < 16, i ≠ 1 → ((twoReady.core 0).thread i).st = .ready →
      (1 + 15 - twoReady.lastThread 0 % 16) % 16 < (i + 15 - twoReady.lastThread 0 % 16) % 16) := by decide
/-- DeviceStoreWritesItsBytesOnly and AtomicsUpdateOneLocation: nothing holds the access back. -/
theorem test_wit_held : writeHeld (firmware []) 0 0x1000 8 accWrite = false ∧ writeHeld (firmware []) 0 0x1000 8 accAtomic = false
    ∧ atomicHeld (firmware []) 65536 0x1000 8 0 = false ∧ wrongIn (firmware []).mem.t1Bad 0x1000 8 = [] ∧ (firmware []).stores = [] := by decide
/-- A thread of core 0 as given. -/
def oneThread (t : Thread) : Block := { Block.reset with cores := [(0, { core0 [] with threads := [(0, t)] })] }
/-- Data that returns; a thread that waits for a line, yields, or is parked until a tick. -/
theorem test_wit_waits :
    ((oneThread { Thread.init with st := .waiting, wait := .load 3 0x1000 0x1000 8 false false 0 }).thread 0).wait
      = .load 3 0x1000 0x1000 8 false false 0
    ∧ ((oneThread { Thread.init with st := .waiting, wait := .amo .cas 3 0x1000 0x1000 true 1 2 false 0 0 }).thread 0).st = .waiting
    ∧ ((oneThread { Thread.init with st := .waiting, wait := .fetch 0 false 0 }).thread 0).wait = .fetch 0 false 0
    ∧ ((oneThread { Thread.init with st := .waiting, wait := .yield }).thread 0).pagerDue = false
    ∧ ((oneThread { Thread.init with st := .parked, reason := .parkt }).thread 0).reason = .parkt := by decide
/-- ThreadControlEffects and WakesAreNeverLost: a wake pending or not, a target that is FREE or not. -/
theorem test_wit_control : ((oneThread { Thread.init with st := .ready, wake := true }).thread 0).wake = true ∧ ((one []).thread 0).wake = false
    ∧ ((one []).thread 1).st = .free ∧ ((one []).thread 0).st ≠ .free
    ∧ ((oneThread { Thread.init with st := .parked, reason := .park }).thread 0).st = .parked := by decide

/-- A sound command block of a unit and code. -/
def blockOf (unit code : Nat) : List Byte := [BitVec.ofNat 8 unit, BitVec.ofNat 8 code, 0, 0, 0, 0, 0, 1] ++ List.replicate 56 0
/-- A queued command that has entered, not started. -/
def cmd (unit code : Nat) : Cmd :=
  { id := 0, unit := unit, code := code, index := 0, core := 0, thread := 0, block := blockOf unit code, refuse := none, cancel := none
    quiet := false, depOn := none, phase := .entered, heavy := false, passClass := 4, energy := 0, power := 0, more := 0, resumePass := false, pk := 0, gather := none
    stopping := false, pos := 0, faultVa := none, hold := false, step := 0, guard := [], broken := false, passBasin := 0
    carried := [], strict := none, clash := [], shard := [] }
/-- Core 0 with commands in its vector queue. -/
def queued (cs : List Cmd) : Block :=
  { Block.reset with cores := [(0, { core0 [] with q := { CoreQueues.init with vx := cs, entered := [(4, cs.length)] } })] }
/-- WaitAndFenceEffects: the null ticket, one of a reserved unit, a stale one, one that waits and one that is done. -/
theorem test_wit_tickets : ticketIs (one []) 0 0x0001 = .invalid ∧ ticketIs (one []) 0 0x4000 = .stale
    ∧ ticketIs (queued [cmd 4 1]) 0 0x4000 = .waiting 0
    ∧ ticketIs { Block.reset with cores := [(0, { core0 [] with q := { CoreQueues.init with entered := [(4, 1)], done := [{ unit := 4, index := 0, status := some .ok }] } })] } 0 0x4000
      = .done .ok
    ∧ ((allQueues (queued [cmd 4 1])).filter fun e => e.2.thread == 0) ≠ [] ∧ ((allQueues (one [])).filter fun e => e.2.thread == 0) = [] := by
  decide
/-- EngineCommandsEnterTheirQueues: a unit not of the core, a full queue, and one with room whose block is read. -/
theorem test_wit_engine : queueOf 4096 1 = none ∧ queueOf 0 4 = some (.vx 0) ∧ blockTrap 0 ((one []).g 0 1) = none
    ∧ (QueueRef.vx 0).depth ≤ ((queued (List.replicate 8 (cmd 4 1))).queue (.vx 0)).length ∧ ((one []).queue (.vx 0)).length < (QueueRef.vx 0).depth
    ∧ (readBlock 0 0 (one [])).1.isSome = true ∧ grantState (one []) (.vx 0) 0 = some false := by decide
/-- Core 0's partition 0 in ticket mode, number 1 granted next to its vector queue. -/
def ticketed : Block :=
  { one [] with
    parts := [(0, { basins := [0], t1Quota := 64, t2Quota := 64, lookahead := 0, lookaheadAct := 0, schedEn := true })]
    gl := { Global.init with ticketAct := 1, grantQ := [((QueueRef.vx 0).key, 1)] } }
/-- EngineCommandsEnterTheirQueues: a grant number in turn, one that repeats, one whose turn has not come; reserved codes. -/
theorem test_wit_grants : grantState ticketed (.vx 0) 1 = some false ∧ grantState ticketed (.vx 0) 0 = some true
    ∧ grantState ticketed (.vx 0) 2 = none ∧ (0x10#8).toNat ∉ unitCodes 1 ∧ (0x00#8).toNat ∉ unitCodes 10 := by decide
/-- WordsThatAnswerAtOnce: sound blocks of the two words. -/
theorem test_wit_answers : headerOk (blockOf 9 3) 9 3 = true ∧ allZero (blockOf 9 3) 0x20 32 = true ∧ headerOk (blockOf 4 2) 4 2 = true
    ∧ allZero (blockOf 4 2) 0x1B 37 = true := by decide
/-- A partition of basin 0. -/
def part : Partition :=
  { basins := [0], t1Quota := 64, t2Quota := 64, lookahead := 0, lookaheadAct := 0, schedEn := true }
/-- SystemOperationsComplete: what each operation asks of its thread, context or core. -/
theorem test_wit_system : ((one []).thread 0).st = .ready ∧ ((oneThread { Thread.init with st := .stopped }).thread 0).st = .stopped
    ∧ (bindCore 0 0 { firmware [] with cores := [(0, Core.init)], parts := [(64, part)] }).isSome = true ∧ ((firmware []).context 0).isSome = true
    ∧ accessThreads (firmware []) 0 none = [] ∧ (Block.reset.core 0).allFree = true ∧ coreIdle Block.reset 0 = true := by decide
/-- SaveRecordRoundTrip. -/
theorem test_wit_record : ({ Thread.init with st := .stopped, pc := 8 } : Thread).pc.toNat % 4 = 0 := by decide
/-- QueuedCommandsComplete: a command refused at entry ends; one that is granted may start; a pass that its pool pays. -/
theorem test_wit_queue : readiness (queued [{ cmd 4 1 with refuse := some .internal }]) (.vx 0) { cmd 4 1 with refuse := some .internal }
      = .finish .internal false
    ∧ startable { queued [{ cmd 4 1 with phase := .granted }] with
        basins := [(0, { Basin.init with passes := [] })] } (.vx 0) { cmd 4 1 with phase := .granted } = true
    ∧ poolPays Block.reset 0 64 1 = true ∧ Block.reset.ticketMode 64 = false ∧ Block.reset.lock.level < 3 := by decide

/-- A command that runs, and one of a carriage whose TLB grant number repeats, does not come yet, or comes now. -/
theorem test_wit_life : readiness (queued [{ cmd 4 1 with phase := .running }]) (.vx 0) { cmd 4 1 with phase := .running } = .go
    ∧ mustStop (queued [{ cmd 4 1 with phase := .running }]) (.vx 0) { cmd 4 1 with phase := .running } = false
    ∧ startableLight (queued [cmd 4 1]) (.vx 0) (cmd 4 1) = true
    ∧ readiness (queued [{ cmd 4 1 with heavy := true, energy := 7, power := 8 }]) (.vx 0) { cmd 4 1 with heavy := true, energy := 7, power := 8 } = .weigh 7 8
    ∧ passAsked (queued [cmd 4 1]) (cmd 4 1) = false ∧ tlbGate (one []) (.mv 0) (cmd 3 1) = some false
    ∧ tlbGate { ticketed with gl := { ticketed.gl with grantTlb := [(0, [1])] } } (.mv 0) (cmd 3 1) = some true
    ∧ depMet (cmd 4 1) = true := by decide +kernel
/-- A towpath image of no move, and its program. -/
def img (i : List U64) : TwImage :=
  { a := [0, 0, 0, 0], strides := [0, 0, 0, 0], instrs := i, doneAddr := 0, wakeThread := 0, wakeEn := false, armThread := 0, grantTlb := 0 }
def prog (i : List U64) : TwProg :=
  { img := img i, a := [0, 0, 0, 0], index := 0, counters := [0, 0, 0, 0], serial := 0, nextGrant := 0, moved := 0, ended := none }
/-- Core 0 with a towpath queue 0. -/
def tow (q : TwQueue) : Block := { Block.reset with cores := [(0, { paired with tw := [(0, q)] })] }
/-- TowpathProgramsRun: a pending image and an empty slot; the first word of a program is read. -/
theorem test_wit_towpath : ((tow { TwQueue.init with pending := some (img []) }).twq 0 0).active = none ∧ coreStopped Block.reset 0 = false
    ∧ nextTw (tow { TwQueue.init with active := some (prog [0x7000_0000_0000_0000]) }) 0 0 = some (prog [0x7000_0000_0000_0000], .endp)
    ∧ nextTw (tow { TwQueue.init with active := some (prog [0x2000_0000_0000_0000]) }) 0 0 = some (prog [0x2000_0000_0000_0000], .adds 0 0)
    ∧ nextTw (tow { TwQueue.init with active := some (prog [0x5000_0000_0000_0000]) }) 0 0
      = some (prog [0x5000_0000_0000_0000], .signal 0 false)
    ∧ nextTw (tow { TwQueue.init with active := some (prog [0x4000_0000_0000_0000]) }) 0 0
      = some (prog [0x4000_0000_0000_0000], .waitc 0 0 0)
    ∧ nextTw (tow { TwQueue.init with active := some { prog [0, 0x3000_0002_0000_0000] with index := 1 } }) 0 0
      = some ({ prog [0, 0x3000_0002_0000_0000] with index := 1 }, .loop 0 0 1)
    ∧ (nextTw (tow { TwQueue.init with active := some (prog [0x1000_0002_0000_0000]) }) 0 0)
      = some (prog [0x1000_0002_0000_0000], .move 0 false 0 0 0 false 0 false 1 0)
    ∧ ((tow TwQueue.init).core 0).pair 0 = { enabled := true, base := 0, half := 64, upperCompute := false, flipWait := false } := by decide
/-- A queue accepts a transfer, or has no room for one. -/
theorem test_wit_accepts : TwQueue.init.accepts = true := by simp [TwQueue.accepts, TwQueue.init]
theorem test_wit_full (t : Transfer) : ({ TwQueue.init with emitted := List.replicate (Config.emitRoom + 1) t } : TwQueue).accepts = false := by
  simp [TwQueue.accepts]
/-- A transfer into the compute chamber's far half. -/
def transfer : Transfer :=
  { id := 0, serial := 0, far := 0x1000, ts := 64, len := 64, out := false, grants := [0], retried := false, sent := none, clash := [],
    farClash := [] }
/-- TransfersMoveTheirBytes. -/
theorem test_wit_transfer : ((tow { TwQueue.init with emitted := [transfer] }).twq 0 0).emitted = [transfer]
    ∧ ((tow { TwQueue.init with emitted := [transfer] }).core 0).computeTouch 64 64 = none
    ∧ ((tow { TwQueue.init with issued := [transfer] }).twq 0 0).issued[0]? = some transfer
    ∧ ((tow TwQueue.init).core 0).tsWriteBad 64 64 = none := by decide

/-- A request of a tier engine, and a context in partition 0. -/
def tierReq : TierReq := { owner := .pager, ctx := 1, va := 0, dest := 1, cfmt := 15, charge := 0, ord := 0, rot := none, result := none }
def context1 : Context := { firmwareContext with part := 0, fn := 1, slots := [2], cores := [0], sched := [{ layer := 0, dest := 1, flags := 0, cfmt := 15, charge := 0, va := 0, pages := 1 }] }
/-- A page fault of a thread. -/
def fault1 : List Byte := leBytes 1 0x12 ++ leBytes 1 1 ++ zeros 30
/-- PagesMoveAndFaultsResolve: a request at the head of an engine, a schedule entry due, a fault record. -/
theorem test_wit_pages : (({ Block.reset with tier := [(0, { TierEngine.init with reqs := [tierReq] })] } : Block).tierEngine 0).reqs.find?
      (fun r => r.result.isNone && !Block.reset.ctxFrozen r.ctx) = some tierReq
    ∧ frameInUse Block.reset true 0 65536 = false ∧ (FaultRec.ofBytes fault1).status = .permFault
    ∧ (({ Block.reset with contexts := [(1, context1)], parts := [(0, part)] } : Block).context 1).bind (fun c => c.sched[c.cursor]?) ≠ none
    ∧ SMap.get [] 0 ({ Block.reset with faults := [(0, [fault1])] } : Block).faults ≠ [] ∧ Status.ofCode 0x12 = some .permFault := by decide
/-- Page tables that map a VA by one leaf, from the root table at 0x10000. -/
def tables (va : Nat) (l : U64) : Mem :=
  [(0x10000, 1, 0x11001), (0x11000, 2, 0x12001), (0x12000, 3, 0x13001), (0x13000, 4, l.toNat)].foldl
    (fun m (e : Nat × Nat × Nat) => Mem.write m (entryAddr e.1 e.2.1 va) (leBytes 8 e.2.2)) []
/-- Context 1 with VA 0 mapped by one leaf, and key slot 2 ACTIVE. -/
def mapped (l : U64) (b : Block) : Block :=
  { b with
    mem := { b.mem with t1 := tables 0 l }
    contexts := [(1, { context1 with direct := false, ptRoot := 0x10000 })], slots := [(2, { KeySlot.init with st := .active })] }
def leafOn (home frame : Nat) : U64 := mkLeaf home true true true false 0 frame 0 2
/-- The page of VA 0 in a stage of its move. -/
def moving (stage home frame : Nat) (b : Block) : Block × TierJob :=
  let l := setMoving true (leafOn home frame)
  (mapped l b, { req := tierReq, stage := stage, va := 0, addr := 0x13000, big := false, old := l, new := leafOn 1 0x30000 })
/-- PagesMoveAndFaultsResolve: a page that may move and one that is where it is to go; a page in each stage; one that a write holds. -/
theorem test_wit_moves : (match judgeMove tierReq (mapped (leafOn 2 0x20000) Block.reset) with
      | some (.ok x) => x.addr == 0x13000
      | _ => false) = true
    ∧ (match judgeMove tierReq (mapped (leafOn 1 0x20000) Block.reset) with
      | some (.error st) => st == .ok
      | _ => false) = true
    ∧ (stillMoving (moving 1 2 0x20000 Block.reset).1 (moving 1 2 0x20000 Block.reset).2).isSome = true
    ∧ leafHome (leafOn 1 0x20000) = 1 ∧ leafHome (leafOn 2 0x20000) ≠ 1
    ∧ frameInUse (oneThread { Thread.init with st := .waiting, wait := .amo .cas 3 0 0x20000 true 1 2 false 2 0 }) true 0x20000 65536 = true := by
  decide +kernel
/-- A page in step 1 whose copy succeeds, and one whose key slot is revoked. -/
theorem test_wit_copies :
    (let x := moving 1 1 0x20000 Block.reset
     let j := { x.2 with req := { tierReq with dest := 3 } }
     let b := { x.1 with slots := [(2, { KeySlot.init with st := .active, cur := some { key := 0, ivPrefix := 0, counter := 0 } })] }
     match stillMoving b j with
      | some l => (match (copyPage 0 j l b).1 with
        | .ok _ => true
        | .error _ => false)
      | none => false) = true
    ∧ (let x := moving 1 2 0x20000 Block.reset
       let b := { x.1 with slots := [(2, { KeySlot.init with st := .revoked })] }
       match stillMoving b x.2 with
      | some l => (match (copyPage 0 x.2 l b).1 with
        | .ok _ => false
        | .error st => st == .keyRevoked)
      | none => false) = true := by decide +kernel
/-- A page of a slot that rotates, at the epoch before. -/
theorem test_wit_rekey :
    (let b := { mapped (leafOn 2 0x20000) Block.reset with slots := [(2, { KeySlot.init with st := .rotating, epoch := 1 })] }
     (leafOf b 1 0).isSome = true ∧ leafEpoch (leafOn 2 0x20000) = ((b.slot 2).epoch - 1).toNat ∧ (b.slot 2).st = .rotating) := by decide +kernel
/-- What work on a command comes to: a status, a fault, a stop point, or none yet. -/
def workEnd (w : Work) : Option Status × Nat := match w with
  | .done st _ => (some st, 0)
  | .fault _ _ _ => (none, 1)
  | .point _ _ _ => (none, 2)
  | .notYet _ => (none, 3)
/-- A running `up.take` of 3 granules of core 0, which discards them or stores them from VA 0 on. -/
def takeCmd (discard : Byte) : Cmd :=
  { cmd 7 1 with phase := .running, block := ((blockOf 7 1).set 0x22 3).set 0x23 discard }
/-- Core 0 in context 1, whose page at VA 0 is in T2. -/
def takes : Block := { mapped (leafOn 2 0x20000) Block.reset with cores := [(0, { core0 [] with ctx := some 1 })] }
/-- QueuedCommandsComplete: work that is done, that reaches its next stop point, and that meets a fault; a command whose operands
fail its checks. -/
theorem test_wit_work : workEnd (runCmd (.up 0) (takeCmd 1) none takes) = (some .ok, 0)
    ∧ workEnd (runCmd (.up 0) (takeCmd 1) (some 1) takes) = (none, 2) ∧ workEnd (runCmd (.up 0) (takeCmd 0) none takes) = (none, 1)
    ∧ mustStop takes (.up 0) (takeCmd 1) = false ∧ tlbGate takes (.up 0) (takeCmd 1) = some false
    ∧ readyEntered (one []) (.mx 0) (cmd 1 1) = .finish .internal true := by decide +kernel
/-- TransfersMoveTheirBytes: a grant number in turn, one that does not come yet, one that repeats. -/
theorem test_wit_tlb : tlbTurn { ticketed with gl := { ticketed.gl with grantTlb := [(0, [1])] } } (.tw 0) 1 = some false
    ∧ tlbTurn { ticketed with gl := { ticketed.gl with grantTlb := [(0, [1])] } } (.tw 0) 2 = none
    ∧ tlbTurn { ticketed with gl := { ticketed.gl with grantTlb := [(0, [1])] } } (.tw 0) 0 = some true := by decide
/-- PatrolReadsCountErrors: one wrong symbol is corrected, three that the decoder finds uncorrectable are not (R545). -/
theorem test_wit_symbols : rsRead (addSyms [] [(0, 1)]) = some ([], true) ∧ rsRead (addSyms [] [(0, 1), (1, 1), (2, 2)]) = none := by decide +kernel
/-- PatrolReadsCountErrors. -/
theorem test_wit_patrol : Block.reset.gl.patrolEn = true ∧ SMap.get [] 0 Block.reset.mem.t1Bad = [] ∧ coreAt Block.reset 0 0 = some 0
    ∧ (Block.reset.core 0).bad.contains 0 = false := by decide
/-- UnitGatesFollowTheirWrites: a unit of each state. -/
theorem test_wit_gates : GateRef.ok (.core 4095 true) = true ∧ GateRef.ok (.basin 255 false) = true ∧ (Block.reset.gate (.core 0 false)).st = .on
    ∧ ((Block.reset.setGate (.core 0 false) { Gate.init with st := .stopping }).gate (.core 0 false)).st = .stopping
    ∧ (∀ q ∈ gateQueues (.core 0 false), ∀ c ∈ Block.reset.queue q, c.phase ≠ .running) := by decide
/-- RatesAndModesChange: a partition at rest whose mode is to change. -/
theorem test_wit_modes : partQuiet { Block.reset with parts := [(0, part)] } part = true ∧ (up []).th.mainUp = true
    ∧ bitOf ({ Global.init with ticketReq := 1 } : Global).ticketReq.toNat 0 ≠ bitOf Global.init.ticketAct.toNat 0 := by decide
/-- The module up at a weir level, with a history of VIN. -/
def atWeir (level : Nat) (hist : List Nat) : Block := { up [] with lock := { LockKeeper.init with level := level, vinHist := hist } }
/-- WeirLevelsFollowTheSupply. -/
theorem test_wit_weir : (atWeir 3 []).lock.level ≤ 3 ∧ vinBelow (atWeir 2 [480]).lock 450 = false ∧ vinBelow (atWeir 1 [480]).lock 470 = false
    ∧ vinBelow (atWeir 3 [390]).lock 400 = true ∧ vinBelow (atWeir 4 [410]).lock 410 = false ∧ triggered (atWeir 0 [480]).lock = 0 := by decide
/-- Core 4095 asked to stop. -/
def stoppedCore : Block := { Block.reset with cores := [(4095, { Core.init with regs := { CoreRegs.init with stopReq := true } })] }
/-- CalibrationAndSpares: a slot with a core at rest, a basin with no spare left, and one of no partition. -/
theorem test_wit_spares : coreAt Block.reset 255 15 = some 4095 ∧ Basin.init.spare ≠ 0x1F ∧ coreAtRest stoppedCore 4095 = true
    ∧ Block.reset.partOfBasin 255 = none ∧ ({ Block.reset with parts := [(0, part)] } : Block).partOfBasin 0 ≠ none
    ∧ (({ Block.reset with basins := [(0, { Basin.init with spare := 0x1F })] } : Block).basin 0).spare = 0x1F := by decide
/-- The physical function with an enabled ring 0 that has one entry, of an operation. -/
def ringed (op : Byte) : Block :=
  { up [] with
    mem := { Memories.init with host := Mem.write [] 0x1000 [op] }
    host := { HostIf.init with fns := [(0, { Func.init with crs := [{ CmdRing.init with base := 0x1000, en := true, tail := 1 }, .init, .init, .init] })] } }
/-- EntriesAreTakenInOrder: an entry to fetch, of an operation a table names; TAIL at and beyond the ring's size. -/
theorem test_wit_ring : ((ringed 0x07).func 0).cr 0 = { CmdRing.init with base := 0x1000, en := true, tail := 1 }
    ∧ hostStatus (ringed 0x07) 0x1000 64 = none ∧ (ringed 0x07).mem.host.read 0x1000 1 = [0x07] ∧ opKnown (.ring 0 0 0) 0x07 = true
    ∧ actorNamed (.ring 0 0 0) 0x07 = true ∧ (64 : Nat) ≤ 2 ^ CmdRing.init.size.toNat ∧ 2 ^ CmdRing.init.size.toNat < 65 := by decide
/-- Context 1 of the physical function, whose service queue holds one entry at HEAD 0. -/
def serviced : Block :=
  { up [] with
    mem := { Memories.init with t1 := Mem.write (tables svcQueue (leafOn 1 0x20000)) (0x20000 + 8) (leBytes 8 1) }
    contexts := [(1, { context1 with direct := false, ptRoot := 0x10000 })] }
/-- EntriesAreTakenInOrder: an entry of a service queue. -/
theorem test_wit_service : (fwSee 1 svcQueue 16 serviced).1 = some (leBytes 8 0 ++ leBytes 8 1) ∧ (fwSee 1 (svcEntry 0) 64 serviced).1 = some (zeros 64)
    ∧ fwUp serviced = true ∧ (serviced.func 1).frozen = false ∧ ignoreBeyond 0 1 [] = [] := by decide +kernel
/-- CompletionWritesTheEntryBack: of two entries that name one partition the second waits for the first. -/
theorem test_wit_shares : ({ entry 0x39 [5] with poster := .ring 0 1 0 } : Taken).shares (entry 0x39 [5]) = true := by decide
/-- CompletionWritesTheEntryBack. -/
theorem test_wit_complete : (up [entry 0x39 [5]]).host.taken.find? (fun x => x.poster == .ring 0 0 0) = some (entry 0x39 [5])
    ∧ (up []).mem.hostBad = [] ∧ (((up []).func 0).er 0).en = false := by decide
/-- FunctionPageEffects. -/
theorem test_wit_function : fwUp (up []) = true ∧ (up []).th.perstN = true ∧ ((0 : U32) - 0).toNat ≤ ((1 : U32) - 0).toNat
    ∧ (BitVec.ofNat 64 0x26).getLsbD 5 = true ∧ (BitVec.ofNat 64 0x06).getLsbD 5 = false := by decide

/-- An entry that may run, as one decidable condition. -/
def runs (b : Block) (p : Poster) (op : Nat) (t : Taken) : Bool :=
  posterOk p && b.host.taken.find? (fun x => x.poster == p) == some t && t.poster == p && t.op == op && !t.started && fwUp b && mayBegin t b
    && posterMay t b
theorem runs_ready {b : Block} {p : Poster} {op : Nat} {t : Taken} (h : runs b p op t = true) : opReady b p op t := by
  simp only [runs, Bool.and_eq_true, beq_iff_eq, Bool.not_eq_true'] at h
  exact ⟨h.1.1.1.1.1.1.1, h.1.1.1.1.1.1.2, h.1.1.1.1.1.2, h.1.1.1.1.2, h.1.1.1.2, h.1.1.2, h.1.2, h.2⟩
/-- The physical function's entry of an operation is ready in a block. -/
def runsIn (f : Block → Block) (op : Nat) (args : List U64) : Bool := runs (f (up [entry op args])) (.ring 0 0 0) op (entry op args)
/-- A directory entry of slot 2, present in its first version slot. -/
def dirEntry : DirEntry :=
  { id := 9, slot := 2, st := 1, baseSlot := 0, cur := false, static := false, trainable := false, lastUse := 0
    vs0 := { VSlot.init with version := 1, st := 1, pages := 2 }, vs1 := .init, grace := [], revoker := none }
/-- A directory, an active slot 2, a partition 0, and context 1 of virtual function 1. -/
def staffed (b : Block) : Block :=
  { b with adapters := { Adapters.init with mode := true, dir := [(0, dirEntry)] }, slots := [(2, { KeySlot.init with st := .active })]
           parts := [(0, part)], contexts := [(1, context1)] }
/-- The host's operations of every family are ready somewhere. -/
theorem test_wit_ops : runsIn staffed 0x01 [0, 2] = true ∧ runsIn staffed 0x03 [0] = true ∧ runsIn staffed 0x04 [0] = true
    ∧ runsIn staffed 0x05 [0, 1] = true ∧ runsIn staffed 0x06 [0] = true ∧ runsIn staffed 0x07 [0] = true ∧ runsIn staffed 0x08 [1] = true
    ∧ runsIn staffed 0x10 [9, 2] = true ∧ runsIn staffed 0x11 [1] = true ∧ runsIn staffed 0x18 [0, 65536] = true ∧ runsIn staffed 0x19 [] = true
    ∧ runsIn staffed 0x1A [0] = true ∧ runsIn staffed 0x20 [2, 1048576] = true ∧ runsIn staffed 0x23 [2] = true := by decide
theorem test_wit_host_ops : runsIn staffed 0x30 [1, 0, 0] = true ∧ runsIn staffed 0x31 [2] = true ∧ runsIn staffed 0x38 [256] = true
    ∧ runsIn staffed 0x39 [0] = true ∧ runsIn staffed 0x3A [1] = true ∧ runsIn staffed 0x3B [0] = true ∧ runsIn staffed 0x40 [2] = true
    ∧ runsIn staffed 0x41 [1] = true ∧ runsIn staffed 0x42 [1, 2] = true ∧ runsIn staffed 0x43 [1] = true := by decide
theorem test_wit_migration : runsIn staffed 0x50 [1] = true ∧ runsIn staffed 0x51 [1] = true ∧ runsIn staffed 0x52 [1, 1] = true
    ∧ runsIn staffed 0x53 [1] = true ∧ runsIn staffed 0x54 [1, 0, 0x10_0000] = true ∧ runsIn staffed 0x55 [1] = true
    ∧ runsIn staffed 0x56 [1] = true ∧ runsIn staffed 0x57 [1] = true ∧ runsIn staffed 0x58 [1] = true
    ∧ migFn (entry 0x50 [63]) = some 63 := by decide
/-- The operations of a program, posted to its service queue. -/
theorem test_wit_posted : runs (staffed (up [posted 0x02 [0]])) (.service 1 0) 0x02 (posted 0x02 [0]) = true
    ∧ runs (staffed (up [posted 0x21 [0, 1]])) (.service 1 0) 0x21 (posted 0x21 [0, 1]) = true
    ∧ runs (staffed (up [posted 0x22 [0, 1]])) (.service 1 0) 0x22 (posted 0x22 [0, 1]) = true := by decide
/-- DirectoryOperations and RequestsBeginAndEnd: what they ask of a directory entry. -/
theorem test_wit_directory : ((staffed (up [])).dirEntry 0).map entryBar = some none ∧ dirEntry.st ≠ 2 ∧ dirEntry.vs0.pins = 0
    ∧ (({ dirEntry with st := 2 } : DirEntry)).st = 2 ∧ dirEntry.revoker = none := by decide
/-- PartitionsAndContexts: free cores and basins. -/
theorem test_wit_parts : 1 ≤ (freeCores (staffed (up [])) part).length ∧ 256 ≤ (freeBasins (up [])).length := by decide
/-- KeyCommandsMoveTheirSlots, RotationKeepsTheOldEpoch and TeardownsRunToTheirEnd. -/
theorem test_wit_slots : revocable (staffed (up [])) 2 = true ∧ revocable (staffed (up [])) 3 = false ∧ slotMapped (staffed (up [])) 2 = false
    ∧ ((staffed (up [])).slot 2).usable = true ∧ ((staffed (up [])).slot 4095).st = .free ∧ (up []).teardowns = [] := by decide
/-- AttestationAnswers and InterfacesAreLockedAndRun: a session that has finished, and one that has not. -/
theorem test_wit_sessions : ({ up [] with attest := { Attest.init with identityOk := true, sessions := [{ id := 0, conn := .doe, secret := [], kemCt := [], finished := true }] } } : Block).secured .doe 0 = true
    ∧ (up []).secured .doe 0 = false ∧ handshakeOpen (up []) .doe = false ∧ ((up []).func 63).tdi = .unlocked := by decide
/-- A flit of module 5 for module `dst` that carries one byte as a whole record. -/
def flitTo (dst : Nat) : List Byte := mkFlit dst 5 0 0 1 3 0 [0x11]
/-- Links 0 and 1 UP, the route table naming link 1 for every module of the first 16. -/
def linked : Block :=
  { up [] with kreash := { Kreash.init with
      links := [(0, { Link.init with en := true, st := .up }), (1, { Link.init with en := true, st := .up })]
      routes := [(0, 0x1111_1111_1111_1111)] } }
/-- KreashTakesAndForwards: a sound flit for this module, one for another, and one with a wrong CRC. -/
theorem test_wit_flits : flitOk (flitTo 0) = true ∧ flitOk (flitTo 7) = true ∧ fld (flitTo 7) 0 2 = 7 ∧ routeLink linked 7 = some 1
    ∧ routeLink (up []) 7 = none ∧ flitOk ((flitTo 0).set 12 0x22) = false ∧ (linked.link 0).st = .up := by decide +kernel
/-- R878: the flit for another module leaves unchanged on the link that the route table names. -/
theorem test_forward : after (.flitRx 0 (flitTo 7) { corrected := 0, uncorrectable := 0, lost := false }) linked (fun b => (b.link 1).sent) = some [flitTo 7] := by decide +kernel
/-- RecordsReachTheirPlaces: an assembled record of a stream. -/
theorem test_wit_records : (firstAssembled { up [] with kreash := { Kreash.init with assembled := [{ src := 5, vs := 1023, link := 0, bytes := [] }] } } 5 1023).isSome
      = true ∧ firstAssembled (up []) 5 31 = none ∧ (up []).lock.level < 3 := by decide
/-- ReductionsRepeatWhenLate. -/
theorem test_wit_reductions : (({ RdGroup.init with closing := true, members := 2 } : RdGroup)).allClosed = false ∧ RdGroup.init.closing = false
    ∧ RdGroup.init.epoch.toNat < (BitVec.ofNat 64 1).toNat % 2 ^ 32 := by decide
/-- StartUpRunsItsStages: a bundle that has not the form, and no configuration record. -/
theorem test_wit_stages : bundleForm [] = false ∧ recordIn [] = none ∧ warmStart (up []) = false
    ∧ (BitVec.ofNat 64 0x1000_0000).getLsbD 28 = true := by decide
/-- RegisterWritesActByTheirFields: registers that a writer reaches, or not. -/
theorem test_wit_registers : writtenReg (up []) .fw 0x0111_5118 = some (.twStat 277 2) ∧ writtenReg (up []) (.host 0) 0x10 = none
    ∧ (∃ off < 0x20_0000, off % 8 = 0 ∧ writtenReg (up []) (.host 0) off = some .thArg) ∧ hostLink (up []) = true
    ∧ (rwMask .thArg ||| actMask .thArg) % 2 ^ 32 ≠ 0 := by
  refine ⟨by decide, by decide, ⟨0x10_0018, by decide⟩, by decide, by decide⟩

end Sys2Proof.Tests
end

section
/-! PROOFS. What a write of a register does (R14, R17, R949, R979–R983): the window of BAR2, the accesses that change nothing,
the value that a write of each size stores, and the obligation about them. -/

namespace Sys2Proof.Machine

/-- The PF's host driver writes its BAR2, whose offsets begin at 0x0400_0000 (assumption 58). -/
def inBootWindow (a : Actor) (off : Nat) : Prop := a = .host 0 ∧ 0x400_0000 ≤ off

section Writes
variable {a : Actor} {off size : Nat} {v : U64} {b b' : Block} {r : RegName}

/-- REGISTER_WRITE completes in every block, with what `registerWrite` makes of it. -/
theorem does_registerWrite (h : registerWrite a off size v b = b') : Does (.registerWrite a off size v) b b' :=
  does_of (exec_registerWrite a off size v) (congrArg _ h)

/-! ### Which register a write reaches -/

/-- No register lies in the boot window. -/
theorem not_inBootWindow_of_writtenReg (h : writtenReg b a off = some r) : ¬ inBootWindow a off := by
  rintro ⟨rfl, ho⟩
  simp [writtenReg, Nat.not_lt.2 ho] at h

/-- Nobody reaches a register while the main rails are down. -/
theorem writtenReg_mainsDown (h : b.th.mainUp = false) : writtenReg b a off = none := by
  have hl : hostLink b = false := by simp [hostLink, h]
  unfold writtenReg
  split
  · simp [h]
  · simp [hl]
  · simp [hl]

/-! ### What a write does, by where it goes -/

theorem registerWrite_window (h : inBootWindow a off) :
    registerWrite a off size v b = writeBar2 (off - 0x400_0000) size v b := by
  obtain ⟨rfl, ho⟩ := h
  simp [registerWrite, ho]

/-- Where BAR2 is answered, a write of at most 8 bytes within it stores its bytes (R949). -/
theorem writeBar2_stores (hl : hostLink b = true) (hs : b.th.stage ≠ .degraded) (hn : size ≤ 8) (ho : off + size ≤ 0x1000_0000) :
    writeBar2 off size v b = { b with th := { b.th with bar2 := Mem.write b.th.bar2 off (leBytes size v.toNat) } } := by
  simp [writeBar2, Block.modTh, hl, hs, hn, ho]

/-- An access that is not 4 or 8 bytes long and aligned changes no register (R982). -/
theorem registerWrite_malformed (hw : ¬ inBootWindow a off) (h : (size ≠ 4 ∧ size ≠ 8) ∨ off % size ≠ 0) :
    registerWrite a off size v b = b := by
  simp [registerWrite, show ¬ (a = .host 0 ∧ 0x400_0000 ≤ off) from hw, h]

/-- A write that reaches no register changes nothing (R979–R981). -/
theorem registerWrite_unreached (hw : ¬ inBootWindow a off) (h : writtenReg b a off = none) :
    registerWrite a off size v b = b := by
  simp [registerWrite, show ¬ (a = .host 0 ∧ 0x400_0000 ≤ off) from hw, h]

/-- A write that reaches a register and covers none of its fields that can be written changes nothing (R14). -/
theorem registerWrite_uncovered (hr : writtenReg b a off = some r) (hm : (rwMask r ||| actMask r) &&& accessMask off size = 0) :
    registerWrite a off size v b = b := by
  have hw : ¬ (a = .host 0 ∧ 0x400_0000 ≤ off) := not_inBootWindow_of_writtenReg hr
  simp [registerWrite, hw, hr, hm]

/-- An aligned write of 4 or 8 bytes that covers a field which can be written writes its register with the merged value (R983). -/
theorem registerWrite_covered (hr : writtenReg b a off = some r) (hs : size = 4 ∨ size = 8) (ha : off % size = 0)
    (hm : (rwMask r ||| actMask r) &&& accessMask off size ≠ 0) :
    registerWrite a off size v b = writeReg r (mergedValue b r off size v) b := by
  have hw : ¬ (a = .host 0 ∧ 0x400_0000 ≤ off) := not_inBootWindow_of_writtenReg hr
  have hs' : ¬ (size ≠ 4 ∧ size ≠ 8) := by omega
  simp [registerWrite, hw, hr, hm, ha, hs']

/-! ### The merged value of each size -/

theorem accessMask_whole : accessMask off 8 = 2 ^ 64 - 1 := rfl
theorem accessMask_low (h : off % 8 = 0) : accessMask off 4 = 2 ^ 32 - 1 := by simp [accessMask, h]
theorem accessMask_high (h : off % 8 = 4) : accessMask off 4 = 2 ^ 64 - 2 ^ 32 := by simp [accessMask, h]

theorem mergedValue_whole : mergedValue b r off 8 v = v.toNat := by simp [mergedValue, accessMask_whole]

theorem mergedValue_low (h : off % 8 = 0) :
    mergedValue b r off 4 v = v.toNat % 2 ^ 32 + ((readReg b r &&& rwMask r) &&& (2 ^ 64 - 2 ^ 32)) := by
  simp [mergedValue, accessMask_low h, h]

theorem mergedValue_high (h : off % 8 = 4) :
    mergedValue b r off 4 v = v.toNat % 2 ^ 32 * 2 ^ 32 + ((readReg b r &&& rwMask r) &&& (2 ^ 32 - 1)) := by
  simp [mergedValue, accessMask_high h, h]

/-! ### A write of each size that reaches a register and covers a field of it -/

theorem registerWrite_whole (hr : writtenReg b a off = some r) (ha : off % 8 = 0) (hm : (rwMask r ||| actMask r) % 2 ^ 64 ≠ 0) :
    registerWrite a off 8 v b = writeReg r v.toNat b := by
  rw [registerWrite_covered hr (.inr rfl) ha (by rwa [accessMask_whole, Nat.and_two_pow_sub_one_eq_mod]), mergedValue_whole]

theorem registerWrite_low (hr : writtenReg b a off = some r) (ha : off % 8 = 0) (hm : (rwMask r ||| actMask r) % 2 ^ 32 ≠ 0) :
    registerWrite a off 4 v b
      = writeReg r (v.toNat % 2 ^ 32 + ((readReg b r &&& rwMask r) &&& (2 ^ 64 - 2 ^ 32))) b := by
  rw [registerWrite_covered hr (.inl rfl) (by omega) (by rwa [accessMask_low ha, Nat.and_two_pow_sub_one_eq_mod]),
    mergedValue_low ha]

theorem registerWrite_high (hr : writtenReg b a off = some r) (ha : off % 8 = 4)
    (hm : (rwMask r ||| actMask r) &&& (2 ^ 64 - 2 ^ 32) ≠ 0) :
    registerWrite a off 4 v b
      = writeReg r (v.toNat % 2 ^ 32 * 2 ^ 32 + ((readReg b r &&& rwMask r) &&& (2 ^ 32 - 1))) b := by
  rw [registerWrite_covered hr (.inl rfl) (by omega) (by rwa [accessMask_high ha]), mergedValue_high ha]

end Writes

/-! ### Two registers whose every bit software stores -/

/-- TH_ARG holds what is written. -/
theorem writeReg_thArg (v : U64) (b : Block) : writeReg .thArg v.toNat b = { b with th := { b.th with arg := v } } := by
  simp [writeReg, RegName.block, writeTh, Block.modTh]

/-- KL_ROUTE_n reads what was written to it, and a write of another route leaves it. -/
theorem readReg_writeReg_klRoute (n m : Nat) (v : U64) (b : Block) :
    readReg (writeReg (.klRoute n) v.toNat b) (.klRoute m) = if m = n then v.toNat else readReg b (.klRoute m) := by
  simp only [readReg, writeReg, RegName.block, readKl, writeKl, Block.modKreash, SMap.get_put, BitVec.ofNat_toNat,
    BitVec.setWidth_eq]
  split <;> rfl

/-- Settles O60, by where a write goes: the boot window, no register, or a register with or without a field in reach. -/
theorem registerWritesActByTheirFields : Obligations.RegisterWritesActByTheirFields := by
  intro b a off size v window
  refine ⟨fun hw h => does_registerWrite (registerWrite_malformed hw h),
    fun hw h => does_registerWrite (registerWrite_unreached hw h),
    fun _ r hr => ⟨fun ha hm => does_registerWrite (registerWrite_whole hr ha hm),
      fun ha hm => does_registerWrite (registerWrite_low hr ha hm),
      fun ha hm => does_registerWrite (registerWrite_high hr ha hm),
      fun _ hm => does_registerWrite (registerWrite_uncovered hr hm)⟩,
    fun hu hw => does_registerWrite (registerWrite_unreached hw (writtenReg_mainsDown hu)),
    fun ha hr => ?thArg, fun n ha hr => ?klRoute, fun hw hl hs hn ho => ?window⟩
  case thArg =>
    have covered : (rwMask .thArg ||| actMask .thArg) % 2 ^ 64 ≠ 0 := by decide
    exact does_registerWrite ((registerWrite_whole hr ha covered).trans (writeReg_thArg v b))
  case klRoute =>
    have covered : (rwMask (.klRoute n) ||| actMask (.klRoute n)) % 2 ^ 64 ≠ 0 := by simp [rwMask, actMask]
    refine ⟨_, does_registerWrite (registerWrite_whole hr ha covered), ?_, fun m hm => ?_⟩
    · simp [readReg_writeReg_klRoute]
    · simp [readReg_writeReg_klRoute, hm]
  case window => exact does_registerWrite ((registerWrite_window hw).trans (writeBar2_stores hl hs hn ho))

end Sys2Proof.Machine
end

section
/-! PROOFS. A command whose operands are in order completes and leaves the queue of waiting commands alone, form by form of the
commands (R27, R28, R181): the obligations about the step. -/

namespace Sys2Proof.Machine

/-- Where `ok` holds, a command's effect on the block answers a next block, whatever the block. -/
def CompletesIf (ok : Bool) (f : Block → BlockResult) : Prop := ok = true → ∀ b, ∃ b', f b = .next b'

section Forms
variable {ok ok' : Bool} {f : Block → BlockResult} {g : Block → Block} {th : Nat} {two : Bool} {ps : List Pred}

theorem CompletesIf.mono (hf : CompletesIf ok f) (h : ok' = true → ok = true) : CompletesIf ok' f := fun h' => hf (h h')

theorem completesIf_next : CompletesIf true fun b => .next (g b) := fun _ b => ⟨g b, rfl⟩

theorem completesIf_within : CompletesIf ok fun b => within ok b g := fun h b => ⟨g b, within_of b g h⟩

/-- An instruction of a thread that the module has completes, whether it issues, misses its line or has to stay where it is. -/
theorem completesIf_issue : CompletesIf (threadOk th) fun b => issue th two b g := by
  intro h b
  have hth : ¬ threadCount ≤ th := Nat.not_le.2 (of_decide_eq_true h)
  simp only [issue, if_neg hth]
  split
  · exact ⟨_, rfl⟩
  · split
    · exact ⟨_, rfl⟩
    · split <;> exact ⟨_, rfl⟩

theorem completesIf_issueP : CompletesIf (threadOk th) fun b => issueP th ps b g := by
  intro h b
  simp only [issueP]
  split
  · exact ⟨_, rfl⟩
  · exact completesIf_issue h b

/-- The first row of a unit completes with its own code as the row does, and enters its queue with a code that is reserved. -/
theorem completesIf_issueFirst {d a : Reg} {pk : Pred} {unit own : Nat} {code : BitVec 8} (hf : CompletesIf (threadOk th) f) :
    CompletesIf (threadOk th && firstCode unit own code) (issueFirst th d a pk unit own code f) := by
  intro h b
  obtain ⟨hth, hcode⟩ := Bool.and_eq_true_iff.1 h
  unfold issueFirst
  split
  case isTrue => exact hf hth b
  case isFalse hown =>
    have reserved : ¬ (unitCodes unit).contains code.toNat = true := by simpa [firstCode, hown] using hcode
    rw [if_neg reserved]
    exact completesIf_issueP hth b

/-- A command whose effect on the block completes changes the block and nothing else of the state. -/
theorem onBlock_completes (hf : CompletesIf ok f) (h : ok = true) (s : State) :
    ∃ b, onBlock s f = .next { s with block := b } := by
  obtain ⟨b, hb⟩ := hf h s.block
  exact ⟨b, onBlock_next s.pending hb⟩

end Forms

/-- A well-formed FLIT_RX names a link of the module, whatever else is asked of its FEC counts. -/
theorem link_lt_of_wellFormed {link : Nat} {flit : List Byte} {fec : FecOutcome} (h : (Instr.flitRx link flit fec).wellFormed = true) :
    decide (link < 12) = true :=
  (Bool.and_eq_true_iff.1 (Bool.and_eq_true_iff.1 h).1).1

/-- A well-formed command completes in every state and changes the block only, as its form does. -/
theorem exec_completes (c : Instr) (s : State) (hc : c.wellFormed = true) : ∃ b, exec c s = .next { s with block := b } := by
  cases c with
  | add | sub | mul | mulh | mulhu | div | divu | rem | remu | andd | orr | xor | andn | sll | srl | sra | minS | maxS | minu |
  maxu | clz | ctz | popc | sextB | sextH | sextW | zextW | addi | andi | ori | xori | shiLeft | shiLogicalRight | shiArithRight
  | lui | jump | call | jr | jl | li | lih | addil | illegalOp | ldt | stt | ldv | stv | amoAdd | amoAnd | amoOr | amoXor |
  amoMin | amoMax | amoMinu | amoMaxu | amoSwap | amoCas | thPark | thWake | thStart | thExit | thYield | thBrk | thParkt | rdst
  | syWait | syFence | sysTstop | sysTsave | sysTrest | sysTgo | sysTfree | sysCtxbind | sysPtroot | sysTlbinv | sysScrub =>
    exact onBlock_completes completesIf_issue hc s
  | cmp | cmpi | pand | por | pxor | pandn | pnot | pmov | pset | pclr | sel | branch | mxRev | mxFwd3 | mxRev3 | mxDrain |
  cxBack | cxGrad | mvRev | mvFwd3 | vxSum | vxStep | vxTload | vxComb | vxMov | vxAdd | vxSub | vxMul | vxFma | vxDiv | vxRecip
  | vxSqrt | vxRsqrt | vxExp | vxExp2 | vxLog | vxLog2 | vxMin | vxMax | vxAbs | vxNeg | vxClamp | vxCvt | vxLut | vxShuf |
  vxRsum | vxRmax | vxRmin | twFlip | twPair | atBack | atMerge | upNorm | upApply | upDigest | rdClose | rdHash | tmLayer |
  tmHome =>
    exact onBlock_completes completesIf_issueP hc s
  | mxFwd | cxDown | mvFwd | vxRun | twArm | atRun | upTake | rdSum | tmMove | ckRun =>
    exact onBlock_completes (completesIf_issueFirst completesIf_issueP) hc s
  | ldvDataReturn | icacheFill | yieldExpiry | parktTimeout | gatherWindowExpiry | flipSwap | pairSet | programActivate | move |
  adds | loopBack | waitc | signal | endProg | transferIssue | transferComplete | depSatisfied | lockGrantSlot | passStart |
  engineStopPoint | pageMove | scheduleEntryStart | rekeyPage | faultRecordTake | bsFaultEnd | patrolMem | patrolSram |
  ticketModeChange | adRegister | adPublish | adRevoke | adRemove | adLoad | adExport | adQuery | adMode | rqAdmit | rqEnd |
  baseLoad | baseSwitch | baseRetire | resCreate | resAppend | resTake | resClear | serviceQueuePoll | revokeGraceExpiry |
  hiCrTail | ringEntryTake | slotReserve | slotTeardown | partCreate | partDestroy | fnBind | grpSet | ctxCreate | ctxLoad |
  ctxAddslot | ctxEnd | migOffer | migKey | migDirty | migFreeze | migSave | migThaw | migDiscard | migRestore | migStart |
  hiCrCtrl | hiErCtrl | hiErHead | interruptModTimer | msixUnmask | functionLevelReset | configRequest | atsInvalidation |
  keyReserve | keyInstall | keyRotate | keyRevoke | keyZeroize | keyFree | setBind | getTdispVersion | getTdispCapabilities |
  lockInterface | getDeviceInterfaceReport | getDeviceInterfaceState | startInterfaceRequest | stopInterfaceRequest |
  streamRecordRx | rdRecordRx | weirNoticeRx | revokeRecordRx | revokeAckRx | rdTimeout | rdCloseTimeout | reGroupEpoch |
  linkEnable | linkTrainDone | linkTrainRetry | linkIdentDone | linkDown | streamEnable | unitStop | unitEnable | unitGated |
  unitStarted | copyCore | deadCore | testCore | bsCoreCtrl | bsBasinCtrl | commandComplete | linkReturnTimeout |
  teardownAckTimeout =>
    exact onBlock_completes completesIf_within hc s
  | rateWindow | boundaryPoll | pcieFatalError | getVersion | getCapabilities | negotiateAlgorithms | getDigests |
  getCertificate | challenge | getMeasurements | keyExchange | finishMsg | heartbeat | keyUpdate | endSession | chunkSend |
  chunkGet | hkPqsig | hkReport | hkKemkey | hkKemek | hkKemct | hkKeyop | vinSample | weirFall | sagNEdge | weirLevel4Entry |
  weirLevel4Exit | tollhouseRailUp | inrushDone | pwrEnRise | pwrEnFall | perstNFall | perstNRise | currentLimitTrip |
  thermalSample | telemetryPeriod | bundleGo | stageVerifyDone | stageConfigDone | stageTrainDone | stageInitDone |
  stageReleaseDone | telemetry | report | zeroizeAll | resetWarm | resetModule | powerOff | cfgWrite | setEndpointId |
  i3cDynamicAddress | pldmSensorRead | platformEventMessage | registerWrite | tollhouseRailDown | ideKm =>
    exact onBlock_completes completesIf_next hc s
  -- The rows below are rewritten to their meanings first: left to find them, Lean unfolds what they compute.
  | glVcoreCtrl => rw [exec_glVcoreCtrl]; exact onBlock_completes completesIf_within hc s
  | refclkChange => rw [exec_refclkChange]; exact onBlock_completes completesIf_next hc s
  | calNow => rw [exec_calNow]; exact onBlock_completes completesIf_next hc s
  | calibrationPeriod => rw [exec_calibrationPeriod]; exact onBlock_completes completesIf_next hc s
  | flitRx => exact onBlock_completes (completesIf_within.mono link_lt_of_wellFormed) hc s
/-- A step from a safe state changes the block and takes the front command off the queue. -/
theorem step_completes (s : State) (h : s.safe) : ∃ b, step s = .next ⟨b, s.pending.tail⟩ := by
  obtain ⟨b, q⟩ := s
  cases q with
  | nil => exact ⟨tickTime b, rfl⟩
  | cons c rest => exact exec_completes c ⟨b, rest⟩ (h c List.mem_cons_self)

/-- Settles O4: a step makes one well-formed command and leaves a part of the queue. -/
theorem safeStatesStepToSafeStates : Obligations.SafeStatesStepToSafeStates := by
  intro s h
  obtain ⟨b, hb⟩ := step_completes s h
  exact ⟨_, hb, rfl, fun c hc => h c (List.mem_of_mem_tail hc)⟩

/-- FLIT_RX completes on every link of the module, whatever its FEC counts say. -/
theorem does_flitRx {link : Nat} (flit : List Byte) (fec : FecOutcome) (b : Block) (h : link < 12) :
    Does (.flitRx link flit fec) b (takeFlit link flit fec b) :=
  does_of (exec_flitRx link flit fec) (within_of b _ (decide_eq_true h))

/-- Refutes O3: FLIT_RX asks only for a link of the module, but a well-formed one also has FEC counts that a flit can have,
of two codewords at most (R875); with three corrected codewords it is not well formed and completes all the same. -/
theorem not_commandsCompleteExactlyWhenWellFormed : ¬ Obligations.CommandsCompleteExactlyWhenWellFormed := by
  intro h
  have completes := does_flitRx [] ⟨3, 0, false⟩ Block.reset (link := 0) (by decide) []
  have wf : (Instr.flitRx 0 [] ⟨3, 0, false⟩).wellFormed = true := (h _ ⟨Block.reset, []⟩).1.1 ⟨_, completes⟩
  exact absurd wf (by decide)

end Sys2Proof.Machine
end

section
/-! PROOFS. The rows of the system class where they complete with OK (R148, R158–R164, R525–R528, R541, R542): a thread's stores
land without touching a core, and each row comes down to its one effect. -/

namespace Sys2Proof.Machine

/-! ### What lands in memory leaves every core alone -/

/-- A fold keeps what each of its steps keeps. -/
theorem foldl_keeps {α β σ : Type} (g : σ → β) (f : σ → α → σ) (h : ∀ s x, g (f s x) = g s) (l : List α) (s : σ) :
    g (l.foldl f s) = g s :=
  List.foldlRecOn (motive := fun s' => g s' = g s) l f rfl fun s' h' x _ => (h s' x).trans h'

@[simp] theorem raiseVector_cores (f v : Nat) (b : Block) : (raiseVector f v b).cores = b.cores := rfl
@[simp] theorem dropRecord_cores (f r : Nat) (b : Block) : (dropRecord f r b).cores = b.cores := rfl
@[simp] theorem hostWrite_cores (a : Nat) (bs : List Byte) (b : Block) : (hostWrite a bs b).cores = b.cores := rfl

@[simp] theorem hostReport_cores (f a n : Nat) (b : Block) : (hostReport f a n b).cores = b.cores := by
  unfold hostReport; split <;> rfl

@[simp] theorem atsFill_cores (f page : Nat) (b : Block) : (atsFill f page b).cores = b.cores := by
  simp only [atsFill]
  split
  · rfl
  · split <;> rfl

@[simp] theorem atsTouch_cores (f a n : Nat) (b : Block) : (atsTouch f a n b).cores = b.cores :=
  foldl_keeps Block.cores _ (fun _ _ => atsFill_cores ..) _ _

@[simp] theorem writeRecord_cores (f r : Nat) (rec : List Byte) (b : Block) : (writeRecord f r rec b).cores = b.cores := by
  simp only [writeRecord]
  split
  · simp
  · split <;> simp

@[simp] theorem postRecord_cores (f r : Nat) (rec : List Byte) (b : Block) : (postRecord f r rec b).cores = b.cores := by
  simp only [postRecord]
  split
  · rfl
  · split
    · split <;> rfl
    · exact writeRecord_cores ..

@[simp] theorem corrT1_cores (pa : Nat) (patrol : Bool) (b : Block) : (corrT1 pa patrol b).cores = b.cores :=
  postRecord_cores ..

@[simp] theorem t1Met_cores (pa n : Nat) (b : Block) : (t1Met pa n b).cores = b.cores :=
  foldl_keeps Block.cores _ (fun _ _ => by split <;> simp) _ _

@[simp] theorem t1Correct_cores (a : Nat) (b : Block) : (t1Correct a b).cores = b.cores := t1Met_cores ..

@[simp] theorem t1Write_cores (pa : Nat) (bs : List Byte) (b : Block) : (t1Write pa bs b).cores = b.cores := by
  unfold t1Write
  split
  · rfl
  · exact foldl_keeps Block.cores _ (fun _ _ => t1Correct_cores ..) _ _

@[simp] theorem landed_cores (slot : Nat) (prev : Bool) (b : Block) : (landed slot prev b).cores = b.cores := by
  unfold landed; split <;> rfl

@[simp] theorem landWhere_cores (p : Store → Bool) (b : Block) : (landWhere p b).cores = b.cores :=
  foldl_keeps Block.cores _ (fun _ _ => by simp [landStore]) _ _

/-- A thread's stores land in memory and leave every thread as it is. -/
@[simp] theorem landOwn_thread (n k : Nat) (b : Block) : (landOwn n b).thread k = b.thread k := by
  simp only [Block.thread, Block.core, landOwn, landWhere_cores]

/-! ### A row of the system class -/

section Rows
variable {b b' : Block} {th n : Nat} {d : Reg}

/-- A `sys` word that a system core's thread issues takes its effect (R146, R147). -/
theorem issues_sysWord {i : Instr} {f : Block → Block} (he : ∀ s, exec i s = onBlock s fun b => sysWord th b f)
    (hi : canIssue b th false = true) (hth : 65536 ≤ th) (h : f b = b') : Issues th i b b' := by
  have hsys : isSystem (th / 16) = true := decide_eq_true (by omega)
  exact issues_of he (by rw [sysWord, issue_of _ hi, if_pos hsys, h])

theorem partyThread_of (h : n < 65536) : partyThread n = true := decide_eq_true h

/-- Only what a change makes of the thread it changes matters. -/
theorem modThread_congr {f g : Thread → Thread} (h : f (b.thread n) = g (b.thread n)) : b.modThread n f = b.modThread n g := by
  rw [Block.modThread, Block.modThread, h]

/-! ### Stopping and resuming a thread -/

/-- What a thread that is stopped goes on to wait for: a command whose ticket it named (R159). -/
def WaitOp.kept : WaitOp → WaitOp
  | .ticket u k a => .ticket u k a
  | _ => .none

theorem WaitOp.kept_of_ne_ticket {w : WaitOp} (h : ∀ u k a, w ≠ .ticket u k a) : w.kept = .none := by
  unfold WaitOp.kept
  split
  · exact absurd rfl (h _ _ _)
  · rfl

/-- A thread with no outstanding access is stopped now, once its stores have been made (R159, R160). -/
theorem stopThread_now (hl : ∀ a₁ a₂ a₃ a₄ a₅ a₆ a₇, (b.thread n).wait ≠ .load a₁ a₂ a₃ a₄ a₅ a₆ a₇)
    (ha : ∀ a₁ a₂ a₃ a₄ a₅ a₆ a₇ a₈ a₉ a₁₀, (b.thread n).wait ≠ .amo a₁ a₂ a₃ a₄ a₅ a₆ a₇ a₈ a₉ a₁₀) :
    stopThread n b = (true, (landOwn n b).modThread n fun t =>
      { t with st := .stopped, wait := (b.thread n).wait.kept, stopAsked := false }) := by
  unfold stopThread
  simp only [landOwn_thread]
  split
  case h_1 h => exact absurd h (hl _ _ _ _ _ _ _)
  case h_2 h => exact absurd h (ha _ _ _ _ _ _ _ _ _ _)
  case h_3 u k a h => exact congrArg _ (modThread_congr (by simp [stopNow, WaitOp.kept, h]))
  case h_4 h => rw [WaitOp.kept_of_ne_ticket h]; rfl

/-- A STOPPED thread that was not parked is READY again (R148). -/
theorem goThread_unparked (hr : (b.thread n).reason = .none) (hp : (b.thread n).pagerDue = false) :
    goThread n b = b.setThread n { b.thread n with st := .ready, wait := .none, parkArg := 0, weirSaved := none } := by
  simp only [goThread, Thread.release, hr, hp]
  rfl
/-! ### Each row where it completes with OK, on the thread, context or core `n` that gA names -/

section Row
variable {x y : Reg} {t : Thread} (hi : canIssue b th false = true) (hth : 65536 ≤ th) (hn : (b.g th x).toNat = n)
include hi hth hn

theorem issues_sysTstop (hp : n < 65536) (hf : (b.thread n).st ≠ .free) (hs : (b.thread n).st ≠ .stopped)
    (hh : (b.thread n).st ≠ .halted) (h : stopThread n b = (true, b')) : Issues th (.sysTstop th d x) b (finishG th d 0 b') := by
  refine issues_sysWord (exec_sysTstop th d x) hi hth ?_
  -- With `hf`, `hs` and `hh` the thread's state is none of those that the row answers before it stops the thread.
  simp only [hn, partyThread_of hp, h]; rfl

theorem issues_sysTsave (hp : n < 65536) (hst : (b.thread n).st = .stopped ∨ (b.thread n).st = .halted)
    (hw : writeHeld b 0 (b.g th y).toNat 320 accWrite = false)
    (h : vwrite (whoThread b th 1) none (b.g th y).toNat (saveRecord (b.thread n)) b = (.ok (), b')) :
    Issues th (.sysTsave th d x y) b (finishG th d 0 b') := by
  refine issues_sysWord (exec_sysTsave th d x y) hi hth ?_
  rcases hst with hst | hst <;> simp [hn, partyThread_of hp, hst, hw, h] <;> rfl

theorem issues_sysTfree (hp : n < 65536) (hst : (b.thread n).st = .stopped ∨ (b.thread n).st = .halted) :
    Issues th (.sysTfree th d x) b (finishG th d 0 (b.modThread n fun t => { t with st := .free, reason := .none, wait := .none })) := by
  refine issues_sysWord (exec_sysTfree th d x) hi hth ?_
  rcases hst with hst | hst <;> simp [hn, partyThread_of hp, hst] <;> rfl

theorem issues_sysTrest {r : List Byte} (hp : n < 65536) (hst : (b.thread n).st = .free)
    (hr : vread (whoThread b th 1) none (b.g th y).toNat 320 b = (.ok r, b')) (ht : readRecord r = some t) :
    Issues th (.sysTrest th d x y) b (finishG th d 0 (b'.setThread n t)) := by
  refine issues_sysWord (exec_sysTrest th d x y) hi hth ?_
  simp [hn, partyThread_of hp, hst, hr, ht]; rfl

theorem issues_sysTgo (hp : n < 65536) (hst : (b.thread n).st = .stopped) :
    Issues th (.sysTgo th d x) b (finishG th d 0 (goThread n b)) := by
  refine issues_sysWord (exec_sysTgo th d x) hi hth ?_
  simp [hn, partyThread_of hp, hst]; rfl

theorem issues_sysCtxbind (h : bindCore n (b.g th y).toNat b = some b') :
    Issues th (.sysCtxbind th d x y) b (finishG th d 0 b') :=
  issues_sysWord (exec_sysCtxbind th d x y) hi hth (by rw [hn, h]; rfl)

theorem issues_sysPtroot {c : Context} (h : b.context n = some c) : Issues th (.sysPtroot th d x y) b (finishG th d 0
    (b.modContext n fun c => { c with ptRoot := (b.g th y).toNat % 2 ^ 48 / 4096 * 4096, direct := false })) :=
  issues_sysWord (exec_sysPtroot th d x y) hi hth (by simp only [hn, h]; rfl)

theorem issues_sysTlbinv {va : Option Nat} (hva : va = if b.g th y = BitVec.allOnes 64 then none else some (b.g th y).toNat)
    (h : accessThreads b n va = []) : Issues th (.sysTlbinv th d x y) b (finishG th d 0 (tlbInvalidate n va (landPage n va b))) :=
  issues_sysWord (exec_sysTlbinv th d x y) hi hth (by simp only [hn, ← hva, h]; rfl)

theorem issues_sysScrub (hc : n < 4096) (hf : (b.core n).allFree = true) (hq : coreIdle b n = true) :
    Issues th (.sysScrub th d x) b (finishG th d 0 (leaveContext n (b.modCore n Core.scrub))) := by
  refine issues_sysWord (exec_sysScrub th d x) hi hth ?_
  simp [hn, hf, hq, Nat.not_le.2 hc]; rfl

end Row
end Rows

/-- Settles O27, row by row: the operands name a thread, a context or a core of the kind the row asks for, so it takes its effect. -/
theorem systemOperationsComplete : Obligations.SystemOperationsComplete := by
  intro b th d x y hi hth n t ok
  refine ⟨fun hp hf hs hh hl ha => issues_sysTstop hi hth rfl hp hf hs hh (stopThread_now hl ha),
    fun hp hst => ⟨fun hw b₁ h => issues_sysTsave hi hth rfl hp hst hw h, issues_sysTfree hi hth rfl hp hst⟩,
    fun hp hst b₁ r u hr hu => issues_sysTrest hi hth rfl hp hst hr hu, fun hp hst hr hd => ?tgo,
    fun b₁ h => issues_sysCtxbind hi hth rfl h, fun c hc => issues_sysPtroot hi hth rfl hc,
    fun va hva h => issues_sysTlbinv hi hth rfl hva h, fun hc hf hq => issues_sysScrub hi hth rfl hc hf hq⟩
  case tgo =>
    rw [← goThread_unparked hr hd]
    exact issues_sysTgo hi hth rfl hp hst

end Sys2Proof.Machine
end

section
/-! PROOFS. The host's operations on key slots, partitions, functions, groups and contexts where they complete with OK (R43–R53,
R165–R172, R845–R848): each comes down to its one effect on the block. -/

namespace Sys2Proof.Machine

/-- Bit 0 of a number is its parity. -/
theorem bitOf_zero (n : Nat) : bitOf n 0 = decide (n % 2 = 1) := by simp [bitOf, bitsOf, Bool.beq_eq_decide_eq]

/-- The lowest bits of a number. -/
theorem bitsOf_zero (n len : Nat) : bitsOf n 0 len = n % 2 ^ len := rfl

theorem bitsOf_eq (n lo len : Nat) : bitsOf n lo len = n / 2 ^ lo % 2 ^ len := by rw [bitsOf, Nat.shiftRight_eq_div_pow]

section Operations
variable {b b' : Block} {p : Poster} {op : Nat} {t : Taken} {i : Instr} {f : Taken → Block → Block}

/-- An operation whose entry may run takes its effect, and completes. -/
theorem does_runOp (he : ∀ s, exec i s = onBlock s fun b => within (posterOk p) b (runOp p op f)) (h : opReady b p op t)
    (hf : f t b = b') : Does i b b' :=
  does_of he (by rw [runOp_of f h, hf])

/-! ### Key slots -/

/-- SLOT_RESERVE's slot, before any key is placed in it. -/
def reserveSlot (p : Poster) (t : Taken) (k : Nat) (b : Block) : Block :=
  (b.setSlot k { KeySlot.init with
    st := .reserved, party := BitVec.ofNat 128 (t.arg 0 + t.arg 1 * 2 ^ 64), holder := some (posterFn b p) }).spent 1

theorem does_slotReserve {k : Nat} (h : opReady b p 0x30 t) (hid : b.attest.identityOk = true) (hk : freeSlot b = some k)
    (hm : t.arg 2 % 2 = 0) : Does (.slotReserve p) b (complete p .ok k (reserveSlot p t k b)) := by
  refine does_runOp (exec_slotReserve p) h ?_
  simp [slotReserve, h.names, hid, hk, bitOf_zero, hm, reserveSlot]

theorem does_slotReserve_withKey {k : Nat} (h : opReady b p 0x30 t) (hid : b.attest.identityOk = true) (hk : freeSlot b = some k)
    (hm : t.arg 2 % 2 = 1) : Does (.slotReserve p) b (complete p .ok k
      (installSecret k (Config.drbg b.attest.drbgCtr) (drawSecret (reserveSlot p t k b)).2)) := by
  refine does_runOp (exec_slotReserve p) h ?_
  simp [slotReserve, h.names, hid, hk, bitOf_zero, hm, reserveSlot]; rfl

/-- The slot that a secret was installed in. -/
theorem slot_installSecret (k : Nat) (key : BitVec 256) (b : Block) : (installSecret k key b).slot k =
    { b.slot k with st := .active, epoch := 0, cur := some (newSecret b key), prev := none, zeroized := false } :=
  Block.slot_setSlot_same ..

@[simp] theorem slot_drawSecret (k : Nat) (b : Block) : (drawSecret b).2.slot k = b.slot k := rfl
@[simp] theorem newSecret_drawSecret (key : BitVec 256) (b : Block) : newSecret (drawSecret b).2 key = newSecret b key := rfl

theorem slot_spent (k n : Nat) (b : Block) : (b.spent n).slot k = b.slot k := rfl

theorem slot_reserveSlot (p : Poster) (t : Taken) (k : Nat) (b : Block) : (reserveSlot p t k b).slot k =
    { KeySlot.init with
      st := .reserved, party := BitVec.ofNat 128 (t.arg 0 + t.arg 1 * 2 ^ 64), holder := some (posterFn b p) } := by
  rw [reserveSlot, slot_spent, Block.slot_setSlot_same]

@[simp] theorem newSecret_reserveSlot (p : Poster) (t : Taken) (k : Nat) (b : Block) (key : BitVec 256) :
    newSecret (reserveSlot p t k b) key = newSecret b key := rfl

/-! ### Partitions -/

/-- The partition that PART_CREATE makes under number `q`. -/
def newPartition (t : Taken) (q : Nat) (b : Block) : Partition :=
  { basins := (b.spent 1).chooseMany (t.arg 0 % 512) (freeBasins b), t1Quota := t.arg 1 % 65536, t2Quota := t.arg 1 / 65536 % 65536
    lookahead := BitVec.ofNat 8 (teCtrlOf b q), lookaheadAct := BitVec.ofNat 8 (teCtrlOf b q), schedEn := bitOf (teCtrlOf b q) 8 }

/-- The block with that partition: its shares' pools are full, its ticket mode as asked, and the choice of its basins made. -/
def withPartition (t : Taken) (q : Nat) (b : Block) : Block :=
  { b with parts := SMap.set q (newPartition t q b) b.parts
           lock := { b.lock with pools := b.lock.pools.filter fun e => e.1 % 64 != q }
           gl := { b.gl with ticketReq := setBit64 b.gl.ticketReq q (bitOf (t.arg 0) 9) }
           freeCtr := b.freeCtr + 1 + t.arg 0 % 512 }

theorem does_partCreate {q : Nat} (h : opReady b p 0x38 t)
    (hq : b.choice (fun n => decide (n < 64) && (SMap.find n b.parts).isNone)
      ((List.range 64).find? fun n => decide (n < 64) && (SMap.find n b.parts).isNone) = some q)
    (h1 : 1 ≤ t.arg 0 % 512) (h2 : t.arg 0 % 512 ≤ 256) (h3 : t.arg 0 % 512 ≤ (freeBasins b).length) :
    Does (.partCreate p) b (complete p .ok q (withPartition t q b)) := by
  refine does_runOp (exec_partCreate p) h ?_
  have hn : bitsOf (t.arg 0) 0 9 = t.arg 0 % 512 := bitsOf_zero ..
  have hform : ¬ (t.arg 0 % 512 = 0 ∨ 256 < t.arg 0 % 512) := by omega
  simp [partCreate, hq, hn, hform, Nat.not_lt.2 h3, h.names, withPartition, newPartition, bitsOf_eq]

theorem does_partDestroy {x : Partition} (h : opReady b p 0x39 t) (hx : SMap.find (t.arg 0 % 64) b.parts = some x)
    (hf : (b.host.fns.any fun f => f.2.bound == some (t.arg 0 % 64)) = false)
    (hc : (b.contexts.any fun c => c.2.part == t.arg 0 % 64) = false) :
    Does (.partDestroy p) b (complete p .ok 0 { b with parts := SMap.del (t.arg 0 % 64) b.parts }) := by
  refine does_runOp (exec_partDestroy p) h ?_
  simp only [partDestroy, hx, hf, hc, h.names]; rfl

theorem does_fnBind {x : Partition} (h : opReady b p 0x3A t) (hc : (b.contexts.any fun c => c.2.fn == t.arg 0 % 64) = false)
    (hx : SMap.find (t.arg 0 / 256 % 64) b.parts = some x) (hv : t.arg 0 % 64 = 0 ∨ x.basins.length ≤ 240) :
    Does (.fnBind p) b (complete p .ok 0 (b.modFunc (t.arg 0 % 64) fun y => { y with bound := some (t.arg 0 / 256 % 64) })) := by
  refine does_runOp (exec_fnBind p) h ?_
  have hn : bitsOf (t.arg 0) 8 6 = t.arg 0 / 256 % 64 := bitsOf_eq ..
  have hform : ¬ (t.arg 0 % 64 ≠ 0 ∧ 240 < x.basins.length) := by omega
  simp only [fnBind, hc, hn, hx]
  simp [hform, h.names]

/-! ### Reduction groups -/

/-- What GRP_SET asks of its operands: the party's group or none, and members, rank, rings and epoch in range (R742). -/
structure GroupForm (t : Taken) (f : Nat) (x : RdGroup) (part : Nat) : Prop where
  own : f = 0 ∨ x.en = false ∨ x.part = part
  members : 1 ≤ bitsOf (t.arg 0) 16 13 ∧ bitsOf (t.arg 0) 16 13 ≤ 4096
  rank : bitsOf (t.arg 0) 4 12 < bitsOf (t.arg 0) 16 13
  rings : 1 ≤ bitsOf (t.arg 0) 29 3 ∧ bitsOf (t.arg 0) 29 3 ≤ 6
  epoch : x.epoch.toNat < t.arg 1 % 2 ^ 32

/-- What GRP_SET asks of the member list: modules, this one at its rank, and none twice. -/
structure MemberList (ids : List Nat) (members rank me : Nat) : Prop where
  modules : ∀ m ∈ ids, m < 4096
  self : ids[rank]? = some me
  distinct : ids.eraseDups.length = members

theorem does_grpSet {g part : Nat} {bs : List Byte} {ids : List Nat} (h : opReady b p 0x3B t) (hg : g = bitsOf (t.arg 0) 0 4)
    (hpart : part = ((b.func (posterFn b p)).bound).getD (b.group g).part) (hform : GroupForm t (posterFn b p) (b.group g) part)
    (hread : hostRead (posterFn b p) (t.arg 2) (2 * bitsOf (t.arg 0) 16 13) b = (.ok bs, b'))
    (hids : ids = (List.range (bitsOf (t.arg 0) 16 13)).map fun i => fld bs (2 * i) 2)
    (hlist : MemberList ids (bitsOf (t.arg 0) 16 13) (bitsOf (t.arg 0) 4 12) b'.kreash.moduleId.toNat) :
    Does (.grpSet p) b (complete p .ok 0 (newEpoch g (BitVec.ofNat 32 (t.arg 1 % 2 ^ 32)) (b'.modGroup g fun x => { x with
      en := true, rank := bitsOf (t.arg 0) 4 12, members := bitsOf (t.arg 0) 16 13, rings := bitsOf (t.arg 0) 29 3
      part := part, devices := ids }))) := by
  obtain ⟨hown, hm, hrank, hrings, hepoch⟩ := hform
  refine does_runOp (exec_grpSet p) h ?_
  simp only [grpSet, h.names, ← hg, ← hpart, hread, ← hids]
  rw [if_neg, if_neg, if_neg]
  · simpa [hlist.self, hlist.distinct] using hlist.modules
  · simp; omega
  · rcases hown with hown | hown | hown <;> simp [hown]

/-! ### Contexts -/

/-- The partition of a context that `p` creates: the PF names it, a VF is bound to it. -/
def contextPart (b : Block) (p : Poster) (t : Taken) : Nat :=
  if posterFn b p = 0 then t.arg 5 % 64 else ((b.func (posterFn b p)).bound).getD 64

/-- The party of a context that an entry creates. -/
def contextParty (t : Taken) : U128 := BitVec.ofNat 128 (t.arg 2 + t.arg 3 * 2 ^ 64)

/-- What CTX_CREATE asks of its operands: its party's ACTIVE slot, a count of cores that its partition has free, and no other
party in the partition unless the context mixes (R792). -/
structure ContextForm (b : Block) (p : Poster) (t : Taken) (q : Partition) : Prop where
  part : SMap.find (contextPart b p t) b.parts = some q
  active : (b.slot (t.arg 0 % 4096)).st = .active
  party : (b.slot (t.arg 0 % 4096)).party = contextParty t
  count : 1 ≤ bitsOf (t.arg 0) 16 13 ∧ bitsOf (t.arg 0) 16 13 ≤ 4096
  alone : bitOf (t.arg 0) 12 = true ∨ foreignParty b (contextPart b p t) (contextParty t) = false
  room : bitsOf (t.arg 0) 16 13 ≤ (freeCores b q).length

/-- The context that CTX_CREATE makes, with its cores and the root of its page table. -/
def newContext (b : Block) (p : Poster) (t : Taken) (cores : List Nat) (root : Nat) : Context :=
  { mixing := bitOf (t.arg 0) 12, part := contextPart b p t, fn := posterFn b p, party := contextParty t, slots := [t.arg 0 % 4096]
    baseRead := [], ptRoot := root, direct := false, seed := BitVec.ofNat 64 (t.arg 1), cores := cores, nextImage := 0x1000_0000
    sched := [], runs := [], layer := 0, cursor := 0, round := 0, tickOffset := 0, svcIgnored := [] }

theorem does_ctxCreate {q : Partition} {ctx root : Nat} {cores : List Nat} {b₁ b₂ : Block} (h : opReady b p 0x40 t)
    (hform : ContextForm b p t q) (hctx : freeContext b = some ctx)
    (hcores : cores = (b.spent 1).chooseMany (bitsOf (t.arg 0) 16 13) (freeCores b q))
    (hroot : newRoot (b.spent (1 + bitsOf (t.arg 0) 16 13)) = (root, b₁))
    (hpages : createPages ctx true true false true (t.arg 0 % 4096) ((pageRun 0xC400_0000_0000 129).map fun va => (va, ([] : List Byte)))
      { b₁ with contexts := SMap.set ctx (newContext b p t cores root) b₁.contexts } = some b₂) :
    Does (.ctxCreate p) b (complete p .ok ctx (bindCores ctx cores b₂)) := by
  obtain ⟨hpart, hactive, hparty, hcount, halone, hroom⟩ := hform
  refine does_runOp (exec_ctxCreate p) h ?_
  have hslot : bitsOf (t.arg 0) 0 12 = t.arg 0 % 4096 := bitsOf_zero ..
  rw [newContext, contextPart, contextParty, hcores] at hpages
  have hshared : ¬ (!bitOf (t.arg 0) 12 && foreignParty b (contextPart b p t) (contextParty t)) = true := by
    rcases halone with hmix | hnone
    · simp only [hmix, Bool.not_true, Bool.false_and, Bool.false_eq_true, not_false_eq_true]
    · simp only [hnone, Bool.and_false, Bool.false_eq_true, not_false_eq_true]
  rw [contextPart] at hpart hshared
  rw [contextParty] at hparty hshared
  simp only [ctxCreate, h.names, hslot, hpart]
  rw [if_neg (by simp [hactive, hparty]), if_neg (by simp; omega), if_neg hshared]
  simp only [hctx, if_neg (Nat.not_lt.2 hroom), hroot, hpages, hcores]

theorem does_ctxAddslot {c : Context} (h : opReady b p 0x42 t) (hc : b.context (t.arg 0) = some c) (hm : c.mixing = true)
    (hs : (b.slot (t.arg 1 % 4096)).st = .active) :
    Does (.ctxAddslot p) b (complete p .ok 0 (b.modContext (t.arg 0) fun c =>
      { c with slots := if c.slots.contains (t.arg 1 % 4096) then c.slots else c.slots ++ [t.arg 1 % 4096] })) := by
  refine does_runOp (exec_ctxAddslot p) h ?_
  simp [ctxAddslot, hc, hm, hs, h.names]

theorem does_ctxEnd {c : Context} (h : opReady b p 0x43 t) (hc : b.context (t.arg 0) = some c) :
    Does (.ctxEnd p) b (complete p .ok 0 (endContext (t.arg 0) b)) := by
  refine does_runOp (exec_ctxEnd p) h ?_
  simp [ctxEnd, hc, h.names]

theorem does_ctxLoad {c : Context} {o a h' : List Byte} {b₁ b₂ b₃ : Block} (h : opReady b p 0x41 t)
    (hc : b.context (t.arg 0 % 65536) = some c) (hn : t.arg 3 % 2 ^ 17 ≤ 65536)
    (hh : hostRead (posterFn b p) (t.arg 1) 64 b = (.ok h', b₁)) (hlo : 64 ≤ fld h' 0x10 8) (hhi : fld h' 0x10 8 ≤ 2 ^ 40)
    (ho : hostRead (posterFn b p) (t.arg 1) (fld h' 0x10 8) b₁ = (.ok o, b₂))
    (ha : (if t.arg 3 % 2 ^ 17 = 0 then (.ok [], b₂) else hostRead (posterFn b p) (t.arg 2) (t.arg 3 % 2 ^ 17) b₂) = (.ok a, b₃)) :
    Does (.ctxLoad p) b (loadObject t (t.arg 0 % 65536) c o a b₃) := by
  refine does_runOp (exec_ctxLoad p) h ?_
  simp only [ctxLoad, hc, h.names, hh, ho, bitsOf_zero, ha]
  rw [if_neg (by omega), if_neg (by simp; omega)]

end Operations

/-- Settles O48, operation by operation: the operands meet what each operation asks of them, so it takes its effect. -/
theorem partitionsAndContexts : Obligations.PartitionsAndContexts := by
  intro b p t f
  refine ⟨fun h hid hm k hk => does_slotReserve h hid hk hm, fun h hid hm k hk => ⟨_, does_slotReserve_withKey h hid hk hm, ?key⟩,
    fun h q hq h1 h2 h3 => ⟨_, does_partCreate h hq h1 h2 h3, ?part⟩, fun h hx hf hc => ?destroy,
    fun h hc x hx hv => does_fnBind h hc hx hv,
    fun h hown hm hm' hrank hr hr' he bs b₁ hread hlt hme hdis =>
      does_grpSet h rfl rfl ⟨hown, ⟨hm, hm'⟩, hrank, ⟨hr, hr'⟩, he⟩ hread rfl ⟨hlt, hme, hdis⟩,
    fun h q ctx hpart hactive hparty hn hn' halone hctx hroom b₂ hpages =>
      does_ctxCreate h ⟨hpart, hactive, hparty, ⟨hn, hn'⟩, halone, hroom⟩ hctx rfl rfl hpages,
    fun h c x b₁ o b₂ args b₃ hc hn hx hlo hhi ho ha => does_ctxLoad h hc hn hx hlo hhi ho ha,
    fun h c hc hm hs => does_ctxAddslot h hc hm hs, fun h hc => ?ctxEnd⟩
  case key => simp [slot_installSecret, slot_reserveSlot]
  case part =>
    exact ⟨SMap.find_set_same .., fun k hk => SMap.find_set_other _ _ _ _ hk, rfl, rfl⟩
  case destroy =>
    obtain ⟨x, hx⟩ := Option.isSome_iff_exists.1 hx
    exact does_partDestroy h hx hf hc
  case ctxEnd =>
    obtain ⟨c, hc⟩ := Option.isSome_iff_exists.1 hc
    exact does_ctxEnd h hc

end Sys2Proof.Machine
end

section
/-! PROOFS. Atomics (R89, R132–R134, R466): how one comes to wait for the memory controller, the new value of R132's table,
what a write of T1 leaves, and the one step in which the location and gD change. -/

namespace Sys2Proof.Machine

/-- A row whose operands name units the module has takes its effect. -/
theorem does_within {i : Instr} {ok : Bool} {b b' : Block} {f : Block → Block}
    (he : ∀ s, exec i s = onBlock s fun b => within ok b f) (hok : ok = true) (h : f b = b') : Does i b b' :=
  does_of he ((within_of b f hok).trans (congrArg _ h))

/-! ### Bytes and the numbers they spell -/

@[simp] theorem length_leBytes (n w : Nat) : (leBytes n w).length = n := by
  induction n generalizing w with
  | zero => rfl
  | succ n ih => rw [leBytes, List.length_cons, ih]

theorem leNat_lt (bs : List Byte) : leNat bs < 2 ^ (8 * bs.length) := by
  induction bs with
  | nil => exact Nat.one_pos
  | cons x bs ih =>
    have byte : x.toNat < 256 := x.isLt
    rw [leNat, List.length_cons, Nat.mul_succ, Nat.pow_add]
    omega

@[simp] theorem Mem.length_read (m : Mem) (a n : Nat) : (m.read a n).length = n := by simp [Mem.read_eq]

/-- Correcting what is read changes bytes and not how many they are. -/
@[simp] theorem length_readThrough (m : SMap SymErrs) (pa : Nat) (bs : List Byte) : (readThrough m pa bs).length = bs.length := by
  refine foldl_keeps List.length _ (fun bs e => ?_) m bs
  split
  · rfl
  · refine foldl_keeps List.length _ (fun bs x => ?_) _ bs
    split
    · exact List.length_modify ..
    · rfl

@[simp] theorem length_t1Data (b : Block) (pa n : Nat) : (t1Data b pa n).length = n := by simp [t1Data]

/-! ### R132's table -/

/-- R132's table, before the value is cut to the location's width of `w` bits. -/
def amoNew (op : AmoOp) (w old u e : Nat) : Nat :=
  match op with
  | .add => old + u | .and => old &&& u | .or => old ||| u % 2 ^ w | .xor => old ^^^ u % 2 ^ w
  | .min => if sextInt w u < sextInt w old then u else old
  | .max => if sextInt w old < sextInt w u then u else old
  | .minu => if u % 2 ^ w < old then u else old | .maxu => if old < u % 2 ^ w then u else old
  | .swap => u | .cas => if old = e % 2 ^ w then u else old

/-- What an atomic stores is the value of the table cut to the location's width, whatever it had held. -/
theorem amoValue_eq_amoNew {op : AmoOp} {w old u e : Nat} (h : old < 2 ^ w) :
    amoValue op w old u e = amoNew op w old u e % 2 ^ w := by
  have hold : old % 2 ^ w = old := Nat.mod_eq_of_lt h
  have hu : u % 2 ^ w < 2 ^ w := Nat.mod_lt _ (Nat.two_pow_pos w)
  cases op with
  | add | swap => rfl
  | and => rw [amoNew, Nat.and_mod_two_pow, hold]; rfl
  | or => exact (Nat.mod_eq_of_lt (Nat.or_lt_two_pow h hu)).symm
  | xor => exact (Nat.mod_eq_of_lt (Nat.xor_lt_two_pow h hu)).symm
  | min | max | cas => simp only [amoValue, amoNew, apply_ite (· % 2 ^ w), hold]
  | minu | maxu =>
    simp only [amoValue, amoNew, apply_ite (· % 2 ^ w), hold]
    split <;> omega

/-! ### What looking at memory and noting a write leave alone -/

@[simp] theorem landStore_cores (x : Store) (b : Block) : (landStore x b).cores = b.cores := by simp [landStore]

@[simp] theorem landSeen_cores (p : Store → Bool) (b : Block) : (landSeen p b).cores = b.cores :=
  foldl_keeps Block.cores _ (fun s x => by simp only []; split <;> simp [Block.freeBelow]) _ _

@[simp] theorem landLook_cores (pa n : Nat) (b : Block) : (landLook pa n b).cores = b.cores := landSeen_cores ..

@[simp] theorem inflight_cores (slot : Nat) (prev : Bool) (b : Block) : (inflight slot prev b).cores = b.cores := by
  unfold inflight; split <;> rfl

@[simp] theorem landed_mem (slot : Nat) (prev : Bool) (b : Block) : (landed slot prev b).mem = b.mem := by
  unfold landed; split <;> rfl

@[simp] theorem noteShard_cores (u k c va : Nat) (old new : List Byte) (b : Block) :
    (noteShard u k c va old new b).cores = b.cores := by
  simp only [noteShard]; split <;> rfl

@[simp] theorem noteShard_mem (u k c va : Nat) (old new : List Byte) (b : Block) :
    (noteShard u k c va old new b).mem = b.mem := by
  simp only [noteShard]; split <;> rfl

/-- Blocks with the same cores have the same threads. -/
theorem thread_eq_of_cores {b b' : Block} (h : b'.cores = b.cores) (n : Nat) : b'.thread n = b.thread n := by
  simp only [Block.thread, Block.core, h]

/-! ### A write of T1 -/

section Write
variable {b : Block} {pa n : Nat} {bs : List Byte}

/-- Where a range can be read, it can be written: the codewords a write changes in part are among those it touches. -/
theorem t1WriteBad_of_t1BadIn (h : t1BadIn b pa n = none) : t1WriteBad b pa n = none := by
  simp only [t1BadIn, t1WriteBad, firstBad, Option.map_eq_none_iff, List.find?_eq_none] at h ⊢
  exact fun e he => h e (List.mem_filter.1 he).1

/-- A write that can be made reads back. -/
theorem t1Write_reads (hn : bs.length = n) (h : t1WriteBad b pa n = none) : (t1Write pa bs b).mem.t1.read pa n = bs := by
  subst hn
  rw [t1Write, if_neg (by simp [h])]
  exact Mem.read_write_same ..

/-- Where no codeword of its range holds errors, a write changes the bytes of its range alone. -/
theorem t1Write_elsewhere {a : Nat} (hn : bs.length = n) (h : wrongIn b.mem.t1Bad pa n = []) (ha : a < pa ∨ pa + n ≤ a) :
    (t1Write pa bs b).mem.t1.byte a = b.mem.t1.byte a := by
  subst hn
  have part : partIn b.mem.t1Bad pa bs.length = [] := by simp [partIn, h]
  simp only [t1Write, t1WriteBad, part]
  exact Mem.byte_write_outside _ _ _ _ ha

end Write

/-! ### The end of an outstanding access -/

theorem SMap.get_map {α : Type} {d : α} {f : α → α} (hd : f d = d) (k : Nat) (m : SMap α) :
    SMap.get d k (m.map fun e => (e.1, f e.2)) = f (SMap.get d k m) := by
  induction m with
  | nil => exact hd.symm
  | cons e m ih =>
    obtain ⟨k', v⟩ := e
    simp only [List.map_cons, SMap.get_cons, ih, apply_ite f]

/-- A core, and a block, with every thread changed in one way. -/
def Core.mapThreads (f : Thread → Thread) (c : Core) : Core := { c with threads := c.threads.map fun t => (t.1, f t.2) }
def Block.mapThreads (f : Thread → Thread) (b : Block) : Block := { b with cores := b.cores.map fun e => (e.1, e.2.mapThreads f) }

theorem Core.thread_mapThreads {f : Thread → Thread} (hf : f Thread.init = Thread.init) (c : Core) (n : Nat) :
    (c.mapThreads f).thread n = f (c.thread n) := SMap.get_map hf ..

theorem Block.thread_mapThreads {f : Thread → Thread} (hf : f Thread.init = Thread.init) (b : Block) (n : Nat) :
    (b.mapThreads f).thread n = f (b.thread n) := by
  simp only [Block.thread, Block.core, Block.mapThreads]
  rw [SMap.get_map (f := Core.mapThreads f) rfl, Core.thread_mapThreads hf]

theorem accessOver_eq (th : Nat) (b : Block) : accessOver th b = answerTstop th (b.mapThreads (invalStep th)) := rfl

theorem invalStep_of_none {th : Nat} {t : Thread} (h : t.wait = .none) : invalStep th t = t := by simp [invalStep, h]

/-- A thread that became READY gives a `sys.tstop` no answer. -/
theorem answerTstop_ready {b : Block} {th : Nat} (h : (b.thread th).st = .ready) : answerTstop th b = b := by
  simp [answerTstop, h, tstopAnswer]

/-- A thread that is READY again is left so by those who waited for its access. -/
theorem accessOver_ready {b : Block} {th : Nat} (hst : (b.thread th).st = .ready) (hw : (b.thread th).wait = .none) :
    (accessOver th b).thread th = b.thread th ∧ (accessOver th b).mem = b.mem := by
  have same : (b.mapThreads (invalStep th)).thread th = b.thread th := by
    rw [Block.thread_mapThreads (invalStep_of_none rfl), invalStep_of_none hw]
  rw [accessOver_eq, answerTstop_ready (same ▸ hst)]
  exact ⟨same, rfl⟩

/-- A thread whose access ends with no stop or page due is READY, with the value in gD. -/
theorem finishAccess_ready {t : Thread} {d : Nat} {v : U64} (hs : t.stopAsked = false) (hp : t.pagerDue = false) :
    (finishAccess d v t).st = .ready ∧ (finishAccess d v t).wait = .none
      ∧ (finishAccess d v t).g = (t.setG (BitVec.ofNat 5 d) v).g := by
  have stop : (t.setG (BitVec.ofNat 5 d) v).stopAsked = false := by rw [Thread.setG_eq]; exact hs
  have page : (t.setG (BitVec.ofNat 5 d) v).pagerDue = false := by rw [Thread.setG_eq]; exact hp
  simp [finishAccess, Thread.next, Thread.release, stop, page]

/-! ### The two halves of an atomic -/

section Atomic
variable {b b₁ : Block} {op : AmoOp} {th d va pa slot order : Nat} {wide prev : Bool} {u e : U64} {x y dr : Reg} {p : Xlate}

/-- Bytes of an atomic's location. -/
def amoBytes (wide : Bool) : Nat := if wide then 8 else 4

/-- An access that no page in a move holds and whose translation succeeds goes on with its page. -/
theorem threadXlate_of {n acc : Nat} {f : Xlate → Block → Block}
    (hm : writeHeld b ((b.ctxOf (th / 16)).getD 0xFFFF) va n acc = false)
    (hx : translate (tlbOf (th / 16)) ((b.ctxOf (th / 16)).getD 0xFFFF) va acc b = (.ok p, b₁)) :
    threadXlate th va n acc f b = f p b₁ := by
  simp only [threadXlate, hm, hx, Bool.and_false, Bool.false_eq_true, if_false]

/-- An atomic whose access translates leaves its thread WAITING for the memory controller, with the order of its issue. -/
theorem issues_amo {i : Instr} (he : ∀ s, exec i s = onBlock s fun b => amo op th dr x y wide b) (hi : canIssue b th false = true)
    (ha : (b.g th x).toNat % amoBytes wide = 0)
    (hm : writeHeld b ((b.ctxOf (th / 16)).getD 0xFFFF) (b.g th x).toNat (amoBytes wide) accAtomic = false)
    (hx : translate (tlbOf (th / 16)) ((b.ctxOf (th / 16)).getD 0xFFFF) (b.g th x).toNat accAtomic b = (.ok p, b₁)) :
    ∃ b', Issues th i b b' ∧ (b'.thread th).st = .waiting ∧ (b'.thread th).wait =
      .amo op dr.toNat (b.g th x).toNat p.pa wide (b₁.g th y) (b₁.g th dr) (prevEpochOf b₁ p.leaf) (leafSlot p.leaf) b₁.nextId := by
  refine ⟨_, issues_of he (issue_of _ hi), ?_⟩
  rw [amoBytes] at ha hm
  dsimp only
  rw [if_neg (not_not_intro ha), threadXlate_of hm hx, thread_eq_of_cores (inflight_cores ..), waitFor, Block.thread_modThread_same]
  exact ⟨rfl, rfl⟩

/-- The block in which an atomic has stored `new` and its thread goes on with `old`, before those who waited for that. -/
def amoStored (th d va pa : Nat) (wide : Bool) (slot : Nat) (prev : Bool) (old new : Nat) (s : Block) : Block :=
  let bs := leBytes (amoBytes wide) new
  landed slot prev ((t1Write pa bs (noteShard 1 (basinOf (th / 16)) ((s.ctxOf (th / 16)).getD 0xFFFF) va
    (leBytes (amoBytes wide) old) bs s)).modThread th (finishAccess d (extendTo64 (amoBytes wide) true old)))

/-- The memory controller answers an atomic that no older one stands before, with sound codewords. -/
theorem dataReturn_amo {old : Nat} {s : Block} (hw : (b.thread th).wait = .amo op d va pa wide u e prev slot order)
    (hh : atomicHeld b th pa (amoBytes wide) order = false) (hs : s = landLook pa (amoBytes wide) b)
    (hb : t1BadIn s pa (amoBytes wide) = none) (ho : old = leNat (t1Data s pa (amoBytes wide))) :
    dataReturn th b = accessOver th
      (amoStored th d va pa wide slot prev old (amoValue op (8 * amoBytes wide) old u.toNat e.toNat) s) := by
  subst hs ho
  rw [amoBytes] at hh hb
  simp only [dataReturn, hw, hh, hb, Bool.false_eq_true, if_false]
  rfl

/-- What an atomic that stored `new` leaves: its thread is READY with the old value in gD, the location reads `new`, and where
no codeword there holds errors the rest of T1 is as it was. -/
theorem amoStored_effect {old new : Nat} {s b' : Block} (hb' : b' = accessOver th (amoStored th d va pa wide slot prev old new s))
    (hst : (s.thread th).stopAsked = false) (hpd : (s.thread th).pagerDue = false) (hb : t1BadIn s pa (amoBytes wide) = none) :
    (b'.thread th).st = .ready ∧ b'.mem.t1.read pa (amoBytes wide) = leBytes (amoBytes wide) new
      ∧ (b'.thread th).g = ((s.thread th).setG (BitVec.ofNat 5 d) (extendTo64 (amoBytes wide) true old)).g
      ∧ (wrongIn s.mem.t1Bad pa (amoBytes wide) = [] → ∀ a, a < pa ∨ pa + amoBytes wide ≤ a →
          b'.mem.t1.byte a = s.mem.t1.byte a) := by
  have thread : (amoStored th d va pa wide slot prev old new s).thread th
      = finishAccess d (extendTo64 (amoBytes wide) true old) (s.thread th) := by
    rw [amoStored, thread_eq_of_cores (landed_cores ..), Block.thread_modThread_same, thread_eq_of_cores (b := s) (by simp)]
  obtain ⟨ready, idle, regs⟩ := finishAccess_ready (d := d) (v := extendTo64 (amoBytes wide) true old) hst hpd
  rw [← thread] at ready idle regs
  obtain ⟨kept, mem⟩ := accessOver_ready ready idle
  subst hb'
  rw [kept, mem, amoStored, landed_mem, Block.modThread_mem]
  refine ⟨ready, t1Write_reads (length_leBytes ..) ?_, regs,
    fun sound a ha => (t1Write_elsewhere (length_leBytes ..) ?_ ha).trans ?_⟩
  · simpa [t1WriteBad] using t1WriteBad_of_t1BadIn hb
  · rwa [noteShard_mem]
  · rw [noteShard_mem]

end Atomic

theorem does_ldvDataReturn {b b' : Block} {th : Nat} (hth : th < 65664) (hst : (b.thread th).st = .waiting)
    (h : dataReturn th b = b') :
    Does (.ldvDataReturn th) b b' :=
  does_within (exec_ldvDataReturn th) (decide_eq_true hth) (by rw [if_pos hst, h])

/-- Settles O20: the ten rows share their way to the memory controller, and its answer makes the one step of R133. -/
theorem atomicsUpdateOneLocation : Obligations.AtomicsUpdateOneLocation := by
  refine ⟨fun b b₁ th d x y wide p => ?_, fun b op th d va pa slot order wide prev u e hth hst hw hs hp => ?_⟩
  · intro ea ctx hi ha hm hx waits
    have row : ∀ {i op}, (∀ s, exec i s = onBlock s fun b => amo op th d x y wide b) → waits i op :=
      fun he => issues_amo he hi ha hm hx
    exact ⟨row (exec_amoAdd th d x y wide), row (exec_amoAnd th d x y wide), row (exec_amoOr th d x y wide),
      row (exec_amoXor th d x y wide), row (exec_amoMin th d x y wide), row (exec_amoMax th d x y wide),
      row (exec_amoMinu th d x y wide), row (exec_amoMaxu th d x y wide), row (exec_amoSwap th d x y wide),
      row (exec_amoCas th d x y wide)⟩
  · intro n w s old new hh hb
    have thread : s.thread th = b.thread th := thread_eq_of_cores (landLook_cores ..) th
    have hold : old < 2 ^ w := Nat.lt_of_lt_of_eq (leNat_lt _) (by rw [length_t1Data])
    have value : amoValue op w old u.toNat e.toNat = new % 2 ^ w := amoValue_eq_amoNew hold
    have answered := dataReturn_amo hw hh rfl hb rfl
    obtain ⟨ready, stored, regs, rest⟩ := amoStored_effect rfl (thread ▸ hs) (thread ▸ hp) hb
    exact ⟨_, does_ldvDataReturn hth hst answered, ready, value ▸ stored, thread ▸ regs, rest⟩

end Sys2Proof.Machine
end

section
/-! PROOFS. What passing time does (R93, R96, R135, R140, R811, R900): a tick of the timebase on an empty queue, and the
time-driven ends of a yield and of a timed park. -/

namespace Sys2Proof.Machine

/-! ### A tick of the timebase -/

/-- What a tick counts and refills, before parties are shown the counters. -/
def countTick (b : Block) : Block :=
  { b with gl := { b.gl with timebase := b.gl.timebase + 1 }, lock := { b.lock with pools := refillPools b } }

theorem tickTime_runs {b : Block} (h : (b.th.railUp && b.th.refclk) = true) : tickTime b = showMs (countTick b) := if_pos h
theorem tickTime_stands {b : Block} (h : ¬(b.th.railUp && b.th.refclk) = true) : tickTime b = b := if_neg h

/-- What parties are shown is all that a boundary of 1 ms changes. -/
theorem showMs_eq (b : Block) : showMs b = { b with host := { b.host with shown := (showMs b).host.shown } } := by
  unfold showMs; split <;> rfl

/-- Off a boundary of 1 ms nothing is shown anew. -/
theorem showMs_between {b : Block} (h : b.gl.timebase.toNat % 100000 ≠ 0) : showMs b = b := if_neg h

/-- Settles O2: with the rail up and the clock present the tick counts, refills and shows; else it leaves the block as it is. -/
theorem emptyQueueStepIsATick : Obligations.EmptyQueueStepIsATick := by
  intro b
  refine ⟨tickTime b, rfl, ?_⟩
  by_cases h : (b.th.railUp && b.th.refclk) = true
  · rw [tickTime_runs h, if_pos h]
    have shown := showMs_eq (countTick b)
    refine ⟨congrArg (·.gl.timebase) shown, by rw [shown]; rfl, fun hms => ?_⟩
    rw [showMs_between (by rwa [shown] at hms)]
    rfl
  · rw [tickTime_stands h, if_neg h]
    exact ⟨rfl, rfl, fun _ => rfl⟩

/-! ### The ends of a yield and of a timed park -/

/-- Reading the tick takes a free value and leaves every core alone. -/
@[simp] theorem tick_cores (b : Block) (core : Nat) : (tick b core).2.cores = b.cores := by
  unfold tick fabricTime
  dsimp only
  split <;> rfl

/-- A thread that owes the pager nothing is READY once its wait is over. -/
theorem release_ready {t : Thread} (h : t.pagerDue = false) :
    t.release = { t with st := .ready, reason := .none, wait := .none, parkArg := 0 } := by
  rw [Thread.release, if_neg (by simp [h])]

section Ends
variable {b : Block} {th : Nat}

theorem does_yieldExpiry (hth : th < 65664) (hst : (b.thread th).st = .waiting) (hw : (b.thread th).wait = .yield)
    (hp : (b.thread th).pagerDue = false) : Does (.yieldExpiry th) b
      (b.modThread th fun t => { t with st := .ready, reason := .none, wait := .none, parkArg := 0 }) := by
  refine does_within (exec_yieldExpiry th) (decide_eq_true hth) (modThread_congr ?_)
  rw [if_pos (by simp [hst, hw]), release_ready hp]

/-- The row of a timed park compares the limit with the tick that is read. -/
theorem does_parktTimeout {b₁ b' : Block} {now : U64} (hth : th < 65664) (hst : (b.thread th).st = .parked)
    (hr : (b.thread th).reason = .parkt) (ht : tick b (th / 16) = (now, b₁))
    (h : (if (b.thread th).parkArg.toNat < now.toNat then b₁.modThread th fun t => (t.next 4).release else b₁) = b') :
    Does (.parktTimeout th) b b' := by
  refine does_within (exec_parktTimeout th) (decide_eq_true hth) ?_
  simp only [hst, hr, ht, decide_true, Bool.and_self, if_true]
  exact h

end Ends

/-- Settles O24: a park ends where the tick that is read is past its limit, and the thread owes the pager nothing. -/
theorem parkAndYieldExpire : Obligations.ParkAndYieldExpire := by
  refine ⟨fun b th hth hst hw hp => does_yieldExpiry hth hst hw hp, fun b th hth hst hr hp => ?_⟩
  cases ht : tick b (th / 16) with
  | mk now b₁ =>
    have thread : b₁.thread th = b.thread th := thread_eq_of_cores ((congrArg (·.2.cores) ht).symm.trans (tick_cores ..)) th
    refine ⟨fun passed => does_parktTimeout hth hst hr ht ?_,
      fun before => does_parktTimeout hth hst hr ht (if_neg (Nat.not_lt.2 before))⟩
    rw [if_pos passed]
    refine modThread_congr ?_
    rw [thread]
    exact release_ready hp

end Sys2Proof.Machine
end

section
/-! PROOFS. Stop requests, the VCORE target, rate windows and ticket mode (R69, R77, R80, R208, R536–R540, R901, R1014): what
each row stores, and what starts again with it. -/

namespace Sys2Proof.Machine

/-! ### Stop requests -/

section Stops
variable {b : Block} {n : Nat}

/-- A core that is asked to stop does not go on. -/
theorem resumeCore_stopped (h : (b.core n).regs.stopReq = true) : resumeCore n b = b := if_pos (by simp [coreStopped, h])

/-- A basin that is asked to stop does not go on. -/
theorem resumeBasin_stopped (h : (b.basin n).stopReq = true) : resumeBasin n b = b := if_pos (by simp [basinStopped, h])

theorem does_bsCoreCtrl {basin slot : Nat} {v : U64} (hb : basin < 256) (hs : slot < 16) : Does (.bsCoreCtrl basin slot v) b
    (resumeCore (basin * 16 + slot)
      (b.modCore (basin * 16 + slot) fun x => { x with regs := { x.regs with stopReq := v.getLsbD 0 } })) :=
  does_within (exec_bsCoreCtrl basin slot v) (by simp [hb, hs]) rfl

theorem does_bsBasinCtrl {v : U64} (hb : n < 256) :
    Does (.bsBasinCtrl n v) b (resumeBasin n (b.modBasin n fun x => { x with stopReq := v.getLsbD 0 })) :=
  does_within (exec_bsBasinCtrl n v) (decide_eq_true hb) rfl

end Stops

/-! ### The VCORE target -/

/-- Firmware's target is clamped to 600–800 mV (R69). -/
theorem vcoreTarget_writeVcore (w : Nat) (b : Block) : (writeVcore w b).gl.vcoreTarget.toNat = max 600 (min (w % 1024) 800) := by
  change (BitVec.ofNat 10 (if w % 1024 < 600 then 600 else if 800 < w % 1024 then 800 else w % 1024)).toNat = _
  rw [BitVec.toNat_ofNat]
  split
  · omega
  · split <;> omega

/-! ### Rate windows -/

/-- What a fold's step for `d` makes true, and its other steps keep, holds after a fold that comes to `d`. -/
theorem foldl_establishes {α σ : Type} [DecidableEq α] {P : σ → Prop} {f : σ → α → σ} {d : α} (hd : ∀ s, P (f s d))
    (hx : ∀ s x, x ≠ d → P s → P (f s x)) {l : List α} (hl : d ∈ l) (s : σ) : P (l.foldl f s) := by
  induction l generalizing s with
  | nil => cases hl
  | cons y l ih =>
    by_cases hy : y = d
    · refine List.foldlRecOn (motive := P) l f (hy ▸ hd s) fun s' hs' x _ => ?_
      by_cases h : x = d
      · exact h ▸ hd s'
      · exact hx s' x h hs'
    · exact ih (List.mem_of_ne_of_mem (Ne.symm hy) hl) (f s y)

/-- Rounding takes a free value at most. -/
theorem roundEither_state (a d : Nat) (b : Block) : ∃ n, (roundEither a d b).2 = { b with freeCtr := n } := by
  unfold roundEither
  split
  · exact ⟨_, rfl⟩
  · exact ⟨_, rfl⟩

/-- SCALE is 1 at 700 mV and 1.60 G wavefronts a second, exactly (R901). -/
theorem windowScale_nominal (b : Block) : (windowScale 700 1600000 b).1 = 0x1000 := rfl

/-- What a window's sample shows in a die's registers (R1014), and the SCALE it gives the die (R901). -/
def dieReading (w : RateSample) (d : Nat) : DieRate :=
  { waves := BitVec.ofNat 32 (w.waves.getD d 0 % 2 ^ 32), vcoreMv := BitVec.ofNat 10 (w.vcoreMv.getD d 0 % 1024)
    tjC := BitVec.ofNat 8 (min (w.tjC.getD d 0) 255), capped := w.capped.getD d false }
def dieScale (w : RateSample) (d : Nat) (b : Block) : BitVec 16 :=
  BitVec.ofNat 16 (windowScale (w.vcoreMv.getD d 0 % 1024) (w.waves.getD d 0 % 2 ^ 32) b).1

theorem waves_dieReading (w : RateSample) (d : Nat) : (dieReading w d).waves.toNat = w.waves.getD d 0 % 2 ^ 32 := by
  simp [dieReading]

/-- A die's window sets the readings and the scale of that die. -/
theorem dieWindow_eq (w : RateSample) (b : Block) (d : Nat) : ∃ n, dieWindow w b d = { b with
    freeCtr := n
    gl := { b.gl with dieRate := SMap.put .init d (dieReading w d) b.gl.dieRate }
    lock := { b.lock with scale := SMap.put 0x1000 d (dieScale w d b) b.lock.scale } } := by
  obtain ⟨n, hn⟩ : ∃ n, (windowScale (w.vcoreMv.getD d 0 % 1024) (w.waves.getD d 0 % 2 ^ 32) b).2 = { b with freeCtr := n } :=
    roundEither_state ..
  refine ⟨n, ?_⟩
  simp only [dieWindow, hn]
  rfl

section Window
variable {w : RateSample} {b : Block} {d : Nat}

@[simp] theorem dieWindow_cores : (dieWindow w b d).cores = b.cores := by
  obtain ⟨_, h⟩ := dieWindow_eq w b d; rw [h]

@[simp] theorem dieWindow_mem : (dieWindow w b d).mem = b.mem := by
  obtain ⟨_, h⟩ := dieWindow_eq w b d; rw [h]

/-- The dies' windows have ended. -/
def dieWindows (w : RateSample) (b : Block) : Block := (List.range 8).foldl (dieWindow w) b

theorem waves_dieWindows (hd : d < 8) :
    (SMap.get .init d (dieWindows w b).gl.dieRate).waves.toNat = w.waves.getD d 0 % 2 ^ 32 := by
  refine foldl_establishes (P := fun s : Block => (SMap.get .init d s.gl.dieRate).waves.toNat = w.waves.getD d 0 % 2 ^ 32) (d := d)
    (fun s => ?_) (fun s x hx hs => ?_) (List.mem_range.2 hd) b
  · obtain ⟨_, h⟩ := dieWindow_eq w s d
    rw [h, SMap.get_put_same, waves_dieReading]
  · obtain ⟨_, h⟩ := dieWindow_eq w s x
    rw [h, SMap.get_put_other _ _ _ _ _ (Ne.symm hx), hs]

theorem scale_dieWindows (hd : d < 8) (hv : w.vcoreMv.getD d 0 = 700) (hw : w.waves.getD d 0 = 1600000) :
    (dieWindows w b).scale d = 0x1000 := by
  refine foldl_establishes (P := fun s : Block => s.scale d = 0x1000) (d := d) (fun s => ?_) (fun s x hx hs => ?_)
    (List.mem_range.2 hd) b
  · obtain ⟨_, h⟩ := dieWindow_eq w s d
    rw [h, Block.scale, SMap.get_put_same, dieScale, hv, hw]
    rfl
  · obtain ⟨_, h⟩ := dieWindow_eq w s x
    rw [h, Block.scale, SMap.get_put_other _ _ _ _ _ (Ne.symm hx)]
    exact hs

theorem dieWindows_cores : (dieWindows w b).cores = b.cores := foldl_keeps Block.cores _ (fun _ _ => dieWindow_cores) _ _
theorem dieWindows_mem : (dieWindows w b).mem = b.mem := foldl_keeps Block.mem _ (fun _ _ => dieWindow_mem) _ _

/-- While the main rails are up a window ends for every die; the slew and the I/O dies' temperatures are all that is read beside. -/
theorem rateWindow_up (h : b.th.mainUp = true) : (rateWindow w b).gl.dieRate = (dieWindows w b).gl.dieRate
    ∧ (rateWindow w b).lock = (dieWindows w b).lock ∧ (rateWindow w b).cores = (dieWindows w b).cores
    ∧ (rateWindow w b).mem = (dieWindows w b).mem := by
  rw [rateWindow, if_neg (by simp [h])]
  exact ⟨rfl, rfl, rfl, rfl⟩

end Window

/-! ### Ticket mode -/

theorem bitOf_eq_testBit (n i : Nat) : bitOf n i = n.testBit i := by
  rw [bitOf, bitsOf, Nat.testBit_eq_decide_div_mod_eq, Nat.shiftRight_eq_div_pow, Nat.pow_one, Bool.beq_eq_decide_eq]

/-- Setting a bit of a 64-bit map sets that bit alone. -/
theorem bitOf_setBit64 {m : U64} {p k : Nat} {v : Bool} (hk : k < 64) :
    bitOf (setBit64 m p v).toNat k = if k = p then v else bitOf m.toNat k := by
  simp only [bitOf_eq_testBit, BitVec.testBit_toNat, setBit64]
  by_cases h : k = p
  · subst h
    cases v <;> simp [hk]
  · rw [if_neg h]
    cases v <;> simp [hk] <;> omega

theorem SMap.get_filter_dropped {α : Type} {d : α} {k : Nat} {p : Nat × α → Bool} {m : SMap α} (h : ∀ v, p (k, v) = false) :
    SMap.get d k (m.filter p) = d := by
  refine SMap.get_none _ _ _ fun e he hk => ?_
  obtain ⟨k', v⟩ := e
  obtain rfl : k' = k := hk
  simpa [h v] using (List.mem_filter.1 he).2

/-- The block after a partition's mode has changed: its grant sequences start again (R80, R208). -/
def withTicketMode (p : Nat) (x : Partition) (b : Block) : Block :=
  { b with gl := { b.gl with ticketAct := setBit64 b.gl.ticketAct p (bitOf b.gl.ticketReq.toNat p)
                             grantQ := b.gl.grantQ.filter (fun e => !(partQueueKeys x).contains e.1)
                             grantLk := b.gl.grantLk.filter (fun e => e.1 % 64 != p)
                             grantTlb := b.gl.grantTlb.filter (fun e => !x.basins.contains e.1) } }

/-- A partition at rest takes the mode that was asked. -/
theorem does_ticketModeChange {b : Block} {p : Nat} {x : Partition} (hp : p < 64) (hx : SMap.find p b.parts = some x)
    (hq : partQuiet b x = true) (hw : bitOf b.gl.ticketReq.toNat p ≠ bitOf b.gl.ticketAct.toNat p) :
    Does (.ticketModeChange p) b (withTicketMode p x b) := by
  refine does_within (exec_ticketModeChange p) (decide_eq_true hp) ?_
  simp only [ticketModeChange, hx]
  rw [if_neg (by simp [hw, hq])]
  rfl

/-- Settles O39, row by row. -/
theorem ratesAndModesChange : Obligations.RatesAndModesChange := by
  refine ⟨fun b basin slot v hb hs hv => ?stop, fun b basin slot v hb hs hv => ?go, fun b v f => ?vcore, fun b w d hu hd => ?window,
    fun b p x hp hx hq hw => ?ticket⟩
  case stop =>
    have core := does_bsCoreCtrl (b := b) (v := v) hb hs
    have basinUnits := does_bsBasinCtrl (b := b) (v := v) hb
    rw [hv, resumeCore_stopped (by simp [Block.modCore])] at core
    rw [hv, resumeBasin_stopped (by simp [Block.modBasin])] at basinUnits
    exact ⟨core, basinUnits⟩
  case go =>
    rw [← hv]
    exact ⟨does_bsCoreCtrl hb hs, does_bsBasinCtrl hb⟩
  case vcore =>
    exact ⟨does_within (exec_glVcoreCtrl (.host f) v) rfl rfl, writeVcore v.toNat b, does_within (exec_glVcoreCtrl .fw v) rfl rfl,
      vcoreTarget_writeVcore .., rfl, rfl⟩
  case window =>
    obtain ⟨rates, lock, cores, mem⟩ := rateWindow_up (w := w) hu
    refine ⟨_, does_of (exec_rateWindow w) rfl, ?_, cores.trans dieWindows_cores, mem.trans dieWindows_mem, fun hv hr => ?_⟩
    · rw [rates]
      exact waves_dieWindows hd
    · rw [Block.scale, lock]
      exact scale_dieWindows hd hv hr
  case ticket =>
    refine ⟨_, does_ticketModeChange hp hx hq hw, ?_, fun k hk hkp => ?_, fun k hk => ?_, fun d => ?_, fun k hk => ?_⟩
    · exact (bitOf_setBit64 hp).trans (if_pos rfl)
    · exact (bitOf_setBit64 hk).trans (if_neg hkp)
    · exact SMap.get_filter_dropped fun _ => by simp [hk]
    · exact SMap.get_filter_dropped fun _ => by simp [shareKey]; omega
    · exact SMap.get_filter_dropped fun _ => by simp [hk]

end Sys2Proof.Machine
end

section
/-! PROOFS. The life of a queued command (R90, R175, R180–R187, R224–R229, R536, R540, R909–R912): what the command at the head
of its queue comes to when it is tried, started, or taken to its next stop point, and what a grant slot gives it. -/

namespace Sys2Proof.Machine

section Queued
variable {b b₁ b' : Block} {q : QueueRef} {c : Cmd} {rest : List Cmd}

/-! ### A command that is tried -/

/-- A command that is found heavy, with the energy and power that its work has. -/
def Cmd.weighed (c : Cmd) (e p : Nat) : Cmd := { c with heavy := true, energy := e, power := p }

/-- It takes its place in the queue as such and asks for its pass (R182, R183). -/
def weighCmd (q : QueueRef) (c : Cmd) (e p : Nat) (b : Block) : Block :=
  requestPass q (c.weighed e p) (b.modCmd q c.id fun _ => c.weighed e p)

section Try
variable (hf : firstOfCore b q c = true)
include hf

theorem tryComplete_finish {st : Status} {quiet : Bool} (h : readiness b q c = .finish st quiet) :
    tryComplete q c b = (true, endAll q { c with quiet := quiet } st false b) := by simp [tryComplete, hf, h]

theorem tryComplete_weigh {e p : Nat} (h : readiness b q c = .weigh e p) : tryComplete q c b = (true, weighCmd q c e p b) := by
  simp [tryComplete, hf, h, weighCmd, Cmd.weighed]

variable (h : readiness b q c = .go)
include h

/-- A command whose TLB grant number was granted already ends with INTERNAL (R90). -/
theorem tryComplete_repeats (ht : tlbGate b q c = some true) :
    tryComplete q c b = (true, endAll q { c with quiet := true } .internal false b) := by simp [tryComplete, hf, h, ht]

theorem tryComplete_done {st : Status} (ht : tlbGate b q c = some false) (hm : mustStop b q c = false)
    (hw : runCmd q c none b = .done st b₁) : tryComplete q c b = (true, endAll q c st true b₁) := by
  simp [tryComplete, hf, h, ht, hm, hw]

theorem tryComplete_fault {va pos : Nat} (ht : tlbGate b q c = some false) (hm : mustStop b q c = false)
    (hw : runCmd q c none b = .fault va pos b₁) : tryComplete q c b = (true, stopCmd q c (some va) pos b₁) := by
  simp [tryComplete, hf, h, ht, hm, hw]

end Try

/-! ### The head of a queue -/

section Head
variable (hq : q.ok = true) (h : b.queue q = c :: rest)

include h

/-- The head of a queue is the first of its core in it (R175). -/
theorem firstOfCore_head : firstOfCore b q c = true := by simp [firstOfCore, h]

/-- A towpath queue's head is tried where it has the row's code. -/
theorem tryHead_head {k code : Nat} (hk : q = .tw k) (hc : c.code = code) (ht : tryComplete q c b = (true, b')) :
    tryHead k code b = b' := by
  subst hk
  have tw : (b.core k).q.tw = c :: rest := h
  simp only [tryHead, tw, hc, if_true, ht]

include hq

theorem does_commandComplete (ht : tryComplete q c b = (true, b')) : Does (.commandComplete q) b b' :=
  does_within (exec_commandComplete q) hq (by simp only [h, completeFirst, ht])

/-- COMMAND_COMPLETE, FLIP_SWAP and PAIR_SET do the same with the head of their queue. -/
theorem does_rowsOfHead (ht : tryComplete q c b = (true, b')) :
    Does (.commandComplete q) b b'
    ∧ (∀ k, q = .tw k → c.code = 2 → Does (.flipSwap k) b b') ∧ (∀ k, q = .tw k → c.code = 3 → Does (.pairSet k) b b') :=
  ⟨does_commandComplete hq h ht, fun k hk hc => does_within (exec_flipSwap k) (by subst hk; exact hq) (tryHead_head h hk hc ht),
    fun k hk hc => does_within (exec_pairSet k) (by subst hk; exact hq) (tryHead_head h hk hc ht)⟩

/-- The head starts where it may (R911). -/
theorem does_passStart (hs : startable b q c = true ∨ startableLight b q c = true) : Does (.passStart q) b (startCmd q c b) := by
  refine does_within (exec_passStart q) hq ?_
  simp only [passStart, h, List.find?_cons, Bool.or_eq_true_iff.2 hs]

/-! ### Stop points -/

/-- A running head that comes to its next stop point, or to its fault, is what a stop point of its unit takes on. -/
theorem does_engineStopPoint (hr : c.phase = .running) (hc : c.cancel = none) (htm : ∀ k, q ≠ .tm k)
    (hn : nextPoint q c b = some b') : Does (.engineStopPoint (.unit q)) b b' := by
  refine does_within (exec_engineStopPoint (.unit q)) hq ?_
  cases q with
  | tm k => exact absurd rfl (htm k)
  | _ => simp [engineStopPoint, h, hr, hc, hn]

end Head

section Point
variable {va pos : Nat} (hu : c.unit ≠ 9) (hp : passAsked b c = false) (ht : tlbGate b q c = some false)
include hu hp ht

theorem nextPoint_point {carried : List Nat} (hw : runCmd q c (some 1) b = .point pos carried b₁) :
    nextPoint q c b = some (reachPoint q c pos carried b₁) := by simp [nextPoint, hp, hu, ht, hw]

theorem nextPoint_fault (hw : runCmd q c (some 1) b = .fault va pos b₁) :
    nextPoint q c b = some (stopCmd q c (some va) pos b₁) := by
  simp [nextPoint, hp, hu, ht, hw]

end Point

/-! ### A dependency that is satisfied -/

section Dep
variable (hr : c.refuse = none) (hc : c.cancel = none) (hp : c.phase = .entered) (hg : c.gather = none)
include hr hc hp hg

theorem settleDep_finish {st : Status} {quiet : Bool} (h : readyEntered b q c = .finish st quiet) :
    settleDep q c b = b.modCmd q c.id fun x => { x with cancel := some st, quiet := quiet } := by
  simp [settleDep, hr, hc, hp, hg, h]

theorem settleDep_weigh {e p : Nat} (h : readyEntered b q c = .weigh e p) : settleDep q c b = weighCmd q c e p b := by
  simp [settleDep, hr, hc, hp, hg, h, weighCmd, Cmd.weighed]

end Dep

/-- The queues where DEP_SATISFIED does no more than settle each command. -/
def plainQueue (q : QueueRef) : Prop := ∃ k, q = .mx k ∨ q = .cx k ∨ q = .vx k ∨ q = .mv k ∨ q = .up k

theorem does_depSatisfied (hq : q.ok = true) (hplain : plainQueue q) (h : b.queue q = [c]) (hs : settleDep q c b = b') :
    Does (.depSatisfied q) b b' := by
  refine does_within (exec_depSatisfied q) hq ?_
  obtain ⟨k, hk⟩ := hplain
  simp only [depSatisfied, h, List.foldl_cons, List.foldl_nil, hs]
  rcases hk with rfl | rfl | rfl | rfl | rfl <;> rfl

end Queued

/-! ### Grant slots -/

section Grants
variable {b : Block} {bs : Nat} {r : PassReq}

/-- Out of ticket mode a request waits for no number and repeats none. -/
theorem lkTurn_untimed {die : Nat} (h : b.ticketMode r.part = false) : lkTurn b die r = some false := by simp [lkTurn, h]

theorem dropRepeats_one (hb : (b.basin bs).passes = [r]) (h : b.ticketMode r.part = false) : dropRepeats bs b = b := by
  simp [dropRepeats, hb, lkTurn_untimed h]

/-- Of a range, the one place that has an element. -/
theorem filterMap_range_single {α : Type} {a : α} {j n : Nat} (h : j < n) :
    (List.range n).filterMap (fun i => if j = i then some a else none) = [a] := by
  induction n with
  | zero => omega
  | succ n ih =>
    rw [List.range_succ, List.filterMap_append]
    rcases Nat.lt_succ_iff_lt_or_eq.1 h with h | rfl
    · simp [ih h, Nat.ne_of_lt h]
    · have none_before : (List.range j).filterMap (fun i => if j = i then some a else none) = [] :=
        List.filterMap_eq_nil_iff.2 fun i hi => if_neg (Nat.ne_of_gt (List.mem_range.1 hi))
      simp [none_before]

/-- One request is the head of its class's FIFO. -/
theorem passHeads_one (hb : (b.basin bs).passes = [r]) (h : b.ticketMode r.part = false) (h1 : 1 ≤ r.cls) (h2 : r.cls ≤ 20) :
    passHeads b bs = [r] := by
  obtain ⟨j, hj⟩ := Nat.exists_eq_add_of_le' h1
  have mine : [r].filter (fun x => lkTurn b (dieOfBasin bs) x == some false) = [r] := by simp [lkTurn_untimed h]
  refine Eq.trans ?_ (filterMap_range_single (a := r) (show j < 20 by omega))
  simp only [passHeads, hb, mine]
  refine congrArg (List.filterMap · _) (funext fun i => ?_)
  by_cases hi : j = i <;> simp [hj, hi]

/-- A candidate whose share pays is granted. -/
theorem grantAll_one {aged : Bool} {n : Nat} (h : poolPays b (dieOfBasin bs) r.part r.cls = true) :
    grantAll bs aged (n + 1) [r] b = grantPass bs aged r b := by
  rw [grantAll, if_pos h]
  cases n <;> rfl

/-- A slot grants the one request of its basin, aged or not (R909). -/
theorem grantSlot_one (hb : (b.basin bs).passes = [r]) (h : b.ticketMode r.part = false) (hl : b.lock.level < 3) (h1 : 1 ≤ r.cls)
    (h2 : r.cls ≤ 20) (hp : poolPays b (dieOfBasin bs) r.part r.cls = true) :
    grantSlot bs b = grantPass bs (decide (r.since + 100 * b.lock.ageUs.toNat ≤ b.gl.timebase.toNat)) r b := by
  rw [grantSlot, if_neg (Nat.not_le.2 hl), dropRepeats_one hb h]
  dsimp only
  rw [passHeads_one hb h h1 h2]
  by_cases aged : r.since + 100 * b.lock.ageUs.toNat ≤ b.gl.timebase.toNat
  · simp only [List.filter_cons, decide_eq_true aged, List.filter_nil, List.foldl_nil, if_true]
    exact grantAll_one hp
  · simp only [List.filter_cons, decide_eq_false aged, List.filter_nil]
    exact grantAll_one hp

end Grants

/-- Settles O33: each clause is one thing that the head of a queue can come to. -/
theorem queuedCommandsComplete : Obligations.QueuedCommandsComplete := by
  refine ⟨fun b q c rest hq h => ?commands, fun b bs r hbs hb ht hl h1 h2 hp => ?slots, fun b core g hc => ?window⟩
  case commands =>
    have hf := firstOfCore_head h
    refine ⟨fun st quiet hr => does_rowsOfHead hq h (tryComplete_finish hf hr),
      fun e p hr => does_rowsOfHead hq h (tryComplete_weigh hf hr),
      fun hr ht => does_rowsOfHead hq h (tryComplete_repeats hf hr ht),
      fun hr ht hm => ⟨fun st b₁ hw => does_rowsOfHead hq h (tryComplete_done hf hr ht hm hw),
        fun va pos b₁ hw => does_rowsOfHead hq h (tryComplete_fault hf hr ht hm hw)⟩,
      does_passStart hq h,
      fun hr hc hu htm hp ht => ⟨fun pos carried b₁ hw => does_engineStopPoint hq h hr hc htm (nextPoint_point hu hp ht hw),
        fun va pos b₁ hw => does_engineStopPoint hq h hr hc htm (nextPoint_fault hu hp ht hw)⟩,
      fun hrest hg hr hc hp hplain => ?_⟩
    subst hrest
    exact ⟨fun st quiet hn => does_depSatisfied hq hplain h (settleDep_finish hr hc hp hg hn),
      fun e p hn => does_depSatisfied hq hplain h (settleDep_weigh hr hc hp hg hn)⟩
  case slots =>
    exact does_within (exec_lockGrantSlot bs) (decide_eq_true hbs) (grantSlot_one hb ht hl h1 h2 hp)
  case window => exact does_within (exec_gatherWindowExpiry core g) (decide_eq_true hc) rfl

end Sys2Proof.Machine
end

section
/-! PROOFS. Towpath transfers (R90, R408, R416–R420, R426, R458): when the head of a queue issues, and how a transfer between
tile store and T1 moves its bytes and leaves the issued ones. -/

namespace Sys2Proof.Machine

@[simp] theorem Block.twq_modTwq_same (b : Block) (core q : Nat) (f : TwQueue → TwQueue) :
    (b.modTwq core q f).twq core q = f (b.twq core q) := by
  simp [Block.modTwq, Block.setTwq, Block.modCore, Block.twq]

section Transfers
variable {b b₁ b₂ b' : Block} {core : Nat} {q : BitVec 2} {t : Transfer} {rest : List Transfer} {bs : List Byte}

/-! ### Issuing -/

/-- A transfer that meets every condition of R416, R418, R419 and R426 is not held back. -/
theorem heldBack_eq_false {n : Nat} (hf : (b.twq core n).faulted = false) (hs : coreStopped b core = false)
    (hd : (b.twq core n).issued.length < ((b.core core).twDepth.getD n 0x10).toNat)
    (ho : ∀ u ∈ (b.twq core n).issued, overlap t.ts t.len u.ts u.len = false) (hc : (b.core core).computeTouch t.ts t.len = none) :
    heldBack b core n t = false := by
  have apart : (b.twq core n).issued.any (fun u => overlap t.ts t.len u.ts u.len) = false :=
    List.any_eq_false.2 fun u hu => Bool.eq_false_iff.1 (ho u hu)
  simp only [heldBack, hf, hs, apart, hc, decide_eq_false (Nat.not_le.2 hd), Option.isSome_none, Bool.or_false]

/-- What the turn of a head's grant number lets it do: wait, issue, or end with INTERNAL for a number granted before (R90, R458). -/
def issueInTurn (core q : Nat) (t : Transfer) (rest : List Transfer) (b : Block) : Option Bool → Block
  | none => b
  | some false => issueNow core q t (tlbDone (.tw core) t.grants b)
  | some true => faultTransfer core q { t with len := 0 } .internal t.far (b.modTwq core q fun x => { x with emitted := rest })

section Issue
variable (hcore : core < 4096) (he : (b.twq core q.toNat).emitted = t :: rest) (hfree : heldBack b core q.toNat t = false)
include hcore he hfree

/-- A transfer that was tried before, or of the queue between tile stores, issues without a number. -/
theorem does_transferIssue_unnumbered (h : t.retried = true ∨ q.toNat = 3) :
    Does (.transferIssue core q) b (issueNow core q.toNat t b) := by
  refine does_within (exec_transferIssue core q) (decide_eq_true hcore) ?_
  have unnumbered : (t.retried || !usesTlb q.toNat) = true := by rcases h with h | h <;> simp [usesTlb, h]
  simp only [he, hfree, unnumbered, Bool.false_eq_true, if_false, if_true]

variable (hr : t.retried = false) (hq : q.toNat < 3)
include hr hq

/-- A transfer with a lookup to make does what its grant number's turn lets it do. -/
theorem does_transferIssue_numbered {turn : Option Bool} (ht : tlbTurn b (.tw core) (t.grants.headD 0) = turn) :
    Does (.transferIssue core q) b (issueInTurn core q.toNat t rest b turn) := by
  refine does_within (exec_transferIssue core q) (decide_eq_true hcore) ?_
  have numbered : (t.retried || !usesTlb q.toNat) = false := by simp [usesTlb, hr, hq]
  simp only [he, hfree, numbered, ht, Bool.false_eq_true, if_false]
  rcases turn with _ | _ | _ <;> rfl

end Issue

/-! ### Moving the bytes -/

/-- Bytes that nothing else touched on their way land as they are. -/
theorem landBytes_unclashed {a : Nat} {old : List Byte} (h : bs.length = old.length) : landBytes [] a bs old b = (bs, b) := by
  induction bs generalizing a old with
  | nil => cases old <;> rfl
  | cons x bs ih =>
    cases old with
    | nil => cases h
    | cons y old => simp [landBytes, ih (Nat.succ.inj h)]

/-- Bytes land in tile store where no word stands in their way, and whatever else is in flight there takes note (R420). -/
theorem landTile_unclashed {n : Nat} (hn : bs.length = t.len) (hc : t.clash = [])
    (hw : (b.core core).tsWriteBad t.ts t.len = none) : landTile core n t bs b =
      (.ok, (touchTile n core t.ts t.len (b.modCore core fun c => c.tsWrite t.ts bs)).noteLanded core t.ts bs) := by
  rw [landTile, landAt, hn]
  simp only [hw, hc, landBytes_unclashed (b := b) (hn.trans (Mem.length_read ..).symm), hn]

/-- A T1 transfer into tile store brings the bytes read through the translation (R408). -/
theorem runTransfer_in {n : Nat} (hq : n < 3) (ho : t.out = false) (hn : bs.length = t.len) (hc : t.clash = [])
    (hr : vread (whoCore b core 3 n) (some (core / 16)) t.far t.len b = (.ok bs, b₁))
    (hw : (b₁.core core).tsWriteBad t.ts t.len = none) : runTransfer core n t b =
      (.ok, (touchTile n core t.ts t.len (b₁.modCore core fun c => c.tsWrite t.ts bs)).noteLanded core t.ts bs) := by
  rw [runTransfer, if_pos hq, t1Transfer, if_neg (by simp [ho])]
  simp only [basinOf, hr]
  exact landTile_unclashed hn hc hw

/-- A T1 transfer out of tile store writes its bytes through the translation, once no page of them moves (R408, R466). -/
theorem runTransfer_out {n : Nat} (hq : n < 3) (ho : t.out = true)
    (hm : writeHeld b ((b.ctxOf core).getD 0xFFFF) t.far t.len accWrite = false) (ht : takeTile core n t b = (some bs, b₁))
    (hw : vwrite (whoCore b core 3 n) (some (core / 16)) t.far bs b₁ = (.ok (), b₂)) : runTransfer core n t b = (.ok, b₂) := by
  rw [runTransfer, if_pos hq, t1Transfer, if_pos ho, if_neg (by simp [hm])]
  simp only [ht, basinOf, hw]

/-- A transfer that has moved its bytes leaves the issued ones of a queue without faults. -/
theorem does_transferComplete {index : Nat} (hcore : core < 4096) (hi : (b.twq core q.toNat).issued[index]? = some t)
    (hr : runTransfer core q.toNat t b = (.ok, b')) (hf : (b'.twq core q.toNat).faulted = false) :
    Does (.transferComplete core q index) b
      (twSettle core q.toNat (b'.modTwq core q.toNat fun x => { x with issued := x.issued.eraseIdx index })) := by
  refine does_within (exec_transferComplete core q index) (decide_eq_true hcore) ?_
  simp only [hi, hr, Block.twq_modTwq_same, hf, Bool.false_eq_true, if_false]

end Transfers

/-- Settles O35: the head that nothing holds back issues as its number lets it, and a T1 transfer completes with its bytes. -/
theorem transfersMoveTheirBytes : Obligations.TransfersMoveTheirBytes := by
  intro b core q t hcore x grant
  refine ⟨fun rest he hf hs hd ho hc => ?issue, fun index hi hq => ?complete⟩
  case issue =>
    have free := heldBack_eq_false hf hs hd ho hc
    exact ⟨does_transferIssue_unnumbered hcore he free, fun hr hq => ⟨does_transferIssue_numbered hcore he free hr hq,
      does_transferIssue_numbered hcore he free hr hq, does_transferIssue_numbered hcore he free hr hq⟩⟩
  case complete =>
    intro ends
    exact ⟨fun ho hclash bs b₁ hn hr hw => does_transferComplete hcore hi (runTransfer_in hq ho hn hclash hr hw),
      fun ho hm bs b₁ b₂ ht hw => does_transferComplete hcore hi (runTransfer_out hq ho hm ht hw)⟩

end Sys2Proof.Machine
end

section
/-! PROOFS. The two `eng` words that enter no queue (R189, R213): what `vx.sum` answers for each thing its ticket can name
(R181, R212–R217), and what `tm.home` answers for an address (R486). -/

namespace Sys2Proof.Machine

/-- What a word that answers at once leaves of its thread: the value in gD, or 0, its predicate by whether there is one, and
the program counter past the word (R215, R217, R486). -/
def answerWord (th : Nat) (d : Reg) (pk : Pred) (v : Option Nat) (b : Block) : Block :=
  b.modThread th fun t => ((t.setG d (BitVec.ofNat 64 (v.getD 0))).setP pk v.isSome).next 4

theorem answerWord_none (th : Nat) (d : Reg) (pk : Pred) (b : Block) :
    answerWord th d pk none b = b.modThread th fun t => ((t.setG d 0).setP pk false).next 4 := rfl

/-- A block that `vx.sum` takes: it passes R181's checks, its reserved bytes are 0, and its ticket is of the vector or the
attention unit (R217). -/
def sumBlockOk (block : List Byte) : Bool :=
  headerOk block 4 2 && allZero block 0x1B 37 && (fld block 0x18 2 / 4096 == 4 || fld block 0x18 2 / 4096 == 6)

/-- `vx.sum` refuses the blocks that fail a check, and no others. -/
theorem not_sumBlockOk (block : List Byte) : (!headerOk block 4 2 || !allZero block 0x1B 37
    || (fld block 0x18 2 / 4096 != 4 && fld block 0x18 2 / 4096 != 6)) = !sumBlockOk block := by
  simp only [sumBlockOk, Bool.not_and, Bool.not_or, bne]

/-- One of a unit's last 256 commands is told from the others by its sequence number: its age below the counter is what the
low 12 bits of the counter and of its index say (R192). -/
theorem index_of_seq {n index seq : Nat} (hn : index < n) (hage : n - index ≤ 256) (hseq : index % 4096 = seq % 4096) :
    n - 1 - (n + 4096 - 1 - seq % 4096 + 4096 * (n + 1)) % 4096 = index := by
  have age : (n + 4096 - 1 - seq % 4096 + 4096 * (n + 1)) % 4096 = n - 1 - index := by
    rw [Nat.add_mul_mod_self_left]
    omega
  omega

/-- A compute-die core has a vector queue. -/
theorem queueOf_vector {core : Nat} (h : core < 4096) : queueOf core 4 = some (.vx core) :=
  if_neg (by simpa [isSystem] using h)

/-- The summary's field that `vx.sum` answers with, when one is held (R212, R217). -/
def sumField (b : Block) (core index : Nat) (block : List Byte) : Option Nat :=
  ((b.core core).summary (fld block 0x18 2 / 4096) index).bind (·.field (fld block 0x1A 1))

section Words
variable {b b₁ b' : Block} {th : Nat} {d a : Reg} {pk : Pred} {block : List Byte}

/-! ### vx.sum -/

theorem issues_vxSum (hi : canIssue b th false = true) (hp : predsReady b th [pk] = true) (h : sumWord th d a pk b = b') :
    Issues th (.vxSum th d a pk) b b' :=
  issues_of (exec_vxSum th d a pk) (by rw [issueP_of _ hi hp, h])

section Sum
variable {q : QueueRef} (hq : queueOf (th / 16) 4 = some q) (ht : blockTrap th (b.g th a) = none)
  (hr : readBlock th (b.g th a) b = (some block, b₁))
include hq ht hr

/-- A block that fails a check is answered with no value (R217). -/
theorem sumWord_unsound (hs : sumBlockOk block = false) : sumWord th d a pk b = answerWord th d pk none b₁ := by
  simp [sumWord, hq, ht, hr, not_sumBlockOk, hs, answerWord_none]

variable (hs : sumBlockOk block = true)
include hs

/-- A stale ticket, which names no command the core still knows, is answered with no value (R192, R217). -/
theorem sumWord_stale (h : ticketIs b₁ (th / 16) (fld block 0x18 2) = .stale) :
    sumWord th d a pk b = answerWord th d pk none b₁ := by
  simp [sumWord, hq, ht, hr, not_sumBlockOk, hs, h, answerWord_none]

/-- A ticket of a command still to complete leaves the thread WAITING for it (R214). -/
theorem sumWord_waiting {index : Nat} (h : ticketIs b₁ (th / 16) (fld block 0x18 2) = .waiting index) : sumWord th d a pk b =
    waitFor th (.sum (fld block 0x18 2 / 4096) index (fld block 0x1A 1) d.toNat pk.toNat) b₁ := by
  simp [sumWord, hq, ht, hr, not_sumBlockOk, hs, h]

/-- A ticket of a completed command is answered from that command's summary (R212, R215–R217). -/
theorem sumWord_done {st : Status} {index : Nat} (h : ticketIs b₁ (th / 16) (fld block 0x18 2) = .done st)
    (hn : index < (b₁.core (th / 16)).entered (fld block 0x18 2 / 4096))
    (hage : (b₁.core (th / 16)).entered (fld block 0x18 2 / 4096) - index ≤ 256)
    (hseq : index % 4096 = fld block 0x18 2 % 4096) :
    sumWord th d a pk b = answerWord th d pk (sumField b₁ (th / 16) index block) b₁ := by
  simp only [sumWord, hq, ht, hr, not_sumBlockOk, hs, h, index_of_seq hn hage hseq, answerSum, BitVec.ofNat_toNat,
    BitVec.setWidth_eq, Bool.not_true, Bool.false_eq_true, if_false, answerWord, sumField]

end Sum

/-! ### tm.home -/

/-- A sound block of `tm.home` is answered with the home and state of its page (R486). -/
theorem tmHome_sound (ht : blockTrap th (b.g th a) = none) (hr : readBlock th (b.g th a) b = (some block, b₁))
    (hh : headerOk block 9 3 = true) (hz : allZero block 0x20 32 = true) : tmHome th d a pk b =
      answerWord th d pk (homeOf b₁ ((b₁.ctxOf (th / 16)).getD 0xFFFF) (fld block 0x18 8)) b₁ := by
  simp [tmHome, ht, hr, hh, hz, answerWord]

theorem issues_tmHome (hi : canIssue b th false = true) (hp : predsReady b th [pk] = true) (h : tmHome th d a pk b = b') :
    Issues th (.tmHome th d a pk) b b' :=
  issues_of (exec_tmHome th d a pk) (by rw [issueP_of _ hi hp, h])

end Words

/-- Settles O32: `vx.sum` by its block's checks and by what its ticket names, `tm.home` by its page. -/
theorem wordsThatAnswerAtOnce : Obligations.WordsThatAnswerAtOnce := by
  intro b th d a pk hi hp ht block b₁ hr answers core ticket
  refine ⟨fun hth => ?sum, fun hh hz => issues_tmHome hi hp (tmHome_sound ht hr hh hz)⟩
  case sum =>
    intro sound
    have hq : queueOf core 4 = some (.vx core) := queueOf_vector (Nat.div_lt_of_lt_mul (by omega))
    refine ⟨fun hs => ⟨fun st index h hn hage hseq => issues_vxSum hi hp (sumWord_done hq ht hr hs h hn hage hseq), ?waiting,
      fun h => issues_vxSum hi hp (sumWord_stale hq ht hr hs h)⟩, fun hs => issues_vxSum hi hp (sumWord_unsound hq ht hr hs)⟩
    case waiting =>
      intro index h
      refine ⟨_, issues_vxSum hi hp (sumWord_waiting hq ht hr hs h), ?_, ?_, onlyThread_modThread ..⟩ <;>
        rw [waitFor, Block.thread_modThread_same]

end Sys2Proof.Machine
end

section
/-! PROOFS. Accesses and programs at the lock chambers: an `ldt` or `stt` that touches a stream chamber (R427), and the rows of
a towpath program, each where its instruction is the next (R435–R441, R444). -/

namespace Sys2Proof.Machine

/-! ### Accesses of a thread to tile store -/

/-- An instruction of one word that may issue takes its effect. -/
theorem issues_word {i : Instr} {th : Nat} {b b' : Block} {f : Block → Block}
    (he : ∀ s, exec i s = onBlock s fun b => issue th false b f) (hi : canIssue b th false = true) (h : f b = b') : Issues th i b b' :=
  issues_of he (by rw [issue_of f hi, h])

/-- A sound access of a compute-die core that touches a stream chamber waits for that chamber, whatever it would have done. -/
theorem tileAccess_stream {th n k : Nat} {ea : U64} {u : Bool} {b : Block} {bad : Core → Option Nat} {f : Block → Block}
    (hth : th < 65536) (ha : ea.toNat % n = 0) (hr : ea.toNat ≤ 0x7FFFF - n + 1)
    (hs : (b.core (th / 16)).streamTouch ea.toNat n = some (k, u)) : tileAccess th ea n bad f b = waitFor th (.chamber k u) b := by
  have compute : isSystem (th / 16) = false := decide_eq_false (Nat.not_le.2 (Nat.div_lt_of_lt_mul (by omega)))
  simp only [tileAccess, compute, ha, Nat.not_lt.2 hr, hs, Bool.false_eq_true, ne_eq, not_true, if_false]

/-- Settles O17: both accesses go through `tileAccess`, whose chamber check stops them before their effect. -/
theorem tileAccessWaitsForItsChamber : Obligations.TileAccessWaitsForItsChamber := by
  intro b th d x size sx off k u ea n hi hth ha hr hs i hmem
  simp only [List.mem_cons, List.not_mem_nil, or_false] at hmem
  obtain rfl | rfl := hmem
  case inl => exact issues_word (exec_ldt th d x size sx off) hi (tileAccess_stream hth ha hr hs)
  case inr => exact issues_word (exec_stt th d x size off) hi (tileAccess_stream hth ha hr hs)

/-! ### MOVE -/

/-- The transfer that a MOVE of `n` bytes between `far` and the tile-store address `ts` emits next: it ends at a 4 KiB boundary
of the far end or at the end of the move (R417). -/
def nextPiece (x : TwQueue) (p : TwProg) (out : Bool) (far ts n : Nat) : Transfer :=
  { id := x.nextId, serial := p.serial, far := far + p.moved, ts := ts + p.moved,
    len := min (n - p.moved) (4096 - (far + p.moved) % 4096), out := out, grants := [p.nextGrant], retried := false, sent := none,
    clash := [], farClash := [] }

/-- The program once a MOVE of `n` bytes emitted `len` more of them: it stays at the MOVE while bytes are left, and goes on with
the address registers `a` after the last (R441). -/
def TwProg.moveOn (p : TwProg) (n len : Nat) (a : List U64) : TwProg :=
  let p' := { p with nextGrant := p.nextGrant + 1 }
  if p.moved + len < n then { p' with moved := p.moved + len } else { p' with index := p.index + 1, moved := 0, a := a }

section Rows
variable {b b' : Block} {core : Nat} {q : BitVec 2} {p : TwProg}

section Move
variable {areg pair hsel csel str len coff far n : Nat} {out post cidx : Bool}
  (hfar : farOf n (p.a.getD areg 0).toNat = some far) (he : ((b.core core).pair pair).enabled = true)
  (hfit : (32 * coff + if cidx then p.counters.getD csel 0 * (32 * len) else 0) + 32 * len ≤ ((b.core core).pair pair).half)
include hfar he hfit

/-- A sound MOVE stalls while its queue accepts no transfer (R441). -/
theorem runMove_stalls (ha : (b.twq core n).accepts = false) :
    runMove core n p areg out pair hsel csel post str cidx len coff b = b := by
  simp only [runMove, hfar, he, Nat.not_lt.2 hfit, ha, Bool.not_true, Bool.not_false, Bool.false_eq_true, Bool.or_self, decide_false,
    if_true, if_false]

/-- A sound MOVE emits its next transfer into a queue that accepts it (R417, R436). -/
theorem runMove_emits (ha : (b.twq core n).accepts = true) : runMove core n p areg out pair hsel csel post str cidx len coff b =
    let k := (b.core core).pair pair
    let off := 32 * coff + if cidx then p.counters.getD csel 0 * (32 * len) else 0
    let t := nextPiece (b.twq core n) p out far (k.chamber (p.upper hsel csel) + off) (32 * len)
    let a := if post then p.a.set areg (p.a.getD areg 0 + p.img.strides.getD str 0) else p.a
    twSettle core n (putProg core n (p.moveOn (32 * len) t.len a) (b.modTwq core n (emit · t))) := by
  simp only [runMove, hfar, he, Nat.not_lt.2 hfit, ha, Bool.not_true, Bool.false_eq_true, Bool.or_self, decide_false, if_false]
  rfl

end Move

/-! ### The rows -/

section Next
variable (hcore : core < 4096)
include hcore

/-- A pending program becomes active in an empty slot (R435, R444). -/
theorem does_programActivate {img : TwImage} (ha : (b.twq core q.toNat).active = none)
    (hp : (b.twq core q.toNat).pending = some img) :
    Does (.programActivate core q) b (b.setTwq core q.toNat { b.twq core q.toNat with
      pending := none, serials := (b.twq core q.toNat).serials + 1
      active := some { img := img, a := img.a, index := 0, counters := [0, 0, 0, 0], serial := (b.twq core q.toNat).serials + 1,
                       nextGrant := img.grantTlb, moved := 0, ended := none } }) :=
  does_within (exec_programActivate core q) (decide_eq_true hcore) (by simp only [ha, hp])

theorem does_move {areg pair hsel csel str len coff : Nat} {out post cidx : Bool}
    (hn : nextTw b core q.toNat = some (p, .move areg out pair hsel csel post str cidx len coff))
    (h : runMove core q.toNat p areg out pair hsel csel post str cidx len coff b = b') : Does (.move core q) b b' :=
  does_within (exec_move core q) (decide_eq_true hcore) (by simp only [hn, h])

theorem does_adds {areg str : Nat} (hn : nextTw b core q.toNat = some (p, .adds areg str)) : Does (.adds core q) b
    (putProg core q.toNat { p.step with a := p.a.set areg (p.a.getD areg 0 + p.img.strides.getD str 0) } b) :=
  does_within (exec_adds core q) (decide_eq_true hcore) (by simp only [hn])

theorem does_loopBack {cnt target count : Nat} (hn : nextTw b core q.toNat = some (p, .loop cnt target count)) :
    Does (.loopBack core q) b (putProg core q.toNat (runLoop p cnt target count) b) :=
  does_within (exec_loopBack core q) (decide_eq_true hcore) (by simp only [hn])

/-- WAITC on an enabled pair goes on when its chamber is not the compute chamber, and stays otherwise. -/
theorem does_waitc {pair hsel csel : Nat} (hn : nextTw b core q.toNat = some (p, .waitc pair hsel csel))
    (he : ((b.core core).pair pair).enabled = true) : Does (.waitc core q) b
      (if p.upper hsel csel ≠ ((b.core core).pair pair).upperCompute then putProg core q.toNat p.step b else b) :=
  does_within (exec_waitc core q) (decide_eq_true hcore) (by
    simp only [hn, he, Bool.not_true, Bool.false_eq_true, if_false, bne_iff_ne])

theorem does_signal {thread : Nat} {done : Bool} (hn : nextTw b core q.toNat = some (p, .signal thread done)) :
    Does (.signal core q) b (twSettle core q.toNat ((putProg core q.toNat p.step b).modTwq core q.toNat fun x =>
      { x with signals := x.signals ++ [{ thread := thread, done := done, serial := p.serial, before := x.nextId }] })) :=
  does_within (exec_signal core q) (decide_eq_true hcore) (by simp only [hn])

theorem does_endProg (hn : nextTw b core q.toNat = some (p, .endp)) :
    Does (.endProg core q) b (endProgram core q.toNat p .ok b) :=
  does_within (exec_endProg core q) (decide_eq_true hcore) (by simp only [hn])

end Next

end Rows

/-- Settles O34: the row of the program's next instruction has that instruction's effect. -/
theorem towpathProgramsRun : Obligations.TowpathProgramsRun := by
  intro b core q p hcore x k
  refine ⟨fun img => does_programActivate hcore, ?move, fun areg str => does_adds hcore, fun cnt target count => does_loopBack hcore,
    ?waitc, fun thread done => does_signal hcore, does_endProg hcore⟩
  case move =>
    intro areg out pair hsel csel post str cidx len coff far hn hfar he n off hfit
    exact ⟨fun ha => does_move hcore hn (runMove_emits hfar he hfit ha), fun ha => does_move hcore hn (runMove_stalls hfar he hfit ha)⟩
  case waitc =>
    intro pair hsel csel hn he
    have row := does_waitc hcore hn he
    exact ⟨fun h => by rwa [if_pos h] at row, fun h => by rwa [if_neg fun hne => hne h] at row⟩

end Sys2Proof.Machine
end

section
/-! PROOFS. The tier engines and the pager (R464–R472, R489, R530–R533, R802, assumption 11): each step of a page move, the
schedule entry at a cursor, the two steps of a rekey, a fault record taken, and a wait that `BS_FAULT_END` ends. -/

namespace Sys2Proof.Machine

/-! ### A page move (R464–R472, R533) -/

/-- An access holds a page's frame in T1 only if the page is homed there and the access has not finished. -/
theorem frameHeld_eq_false {b : Block} {write : Bool} {l : U64} {n : Nat}
    (h : leafHome l ≠ 1 ∨ frameInUse b write (leafFrame l) n = false) :
    (decide (leafHome l = 1) && frameInUse b write (leafFrame l) n) = false := by
  rcases h with h | h
  · rw [decide_eq_false h, Bool.false_and]
  · rw [h, Bool.and_false]

/-- The block once the stores to a page homed in T1 that still wait to be seen have landed there. -/
def withStoresLanded (l : U64) (n : Nat) (b : Block) : Block := if leafHome l = 1 then landRange (leafFrame l) n b else b

section Move
variable {b b₁ b' : Block} {e : Nat} {r : TierReq} {j : TierJob} {x : Leaf} {l : U64} {st : Status}

/-- An engine that moves no page begins with the next, below weir level 3 (R481). -/
theorem does_pageMove_idle (he : e < 8) (hl : b.lock.level < 3) (hj : (b.tierEngine e).job = none) (h : beginMove e b = b') :
    Does (.pageMove e) b b' :=
  does_within (exec_pageMove e) (decide_eq_true he) (by rw [pageMove, hj]; exact (if_neg (Nat.not_le.2 hl)).trans h)

/-- An engine that moves a page goes one step on with it, at every weir level (R481). -/
theorem does_pageMove_busy (he : e < 8) (hj : (b.tierEngine e).job = some j) (h : moveStep e j b = b') :
    Does (.pageMove e) b b' :=
  does_within (exec_pageMove e) (decide_eq_true he) (by rw [pageMove, hj]; exact h)

section Begin
variable (hf : (b.tierEngine e).reqs.find? (fun r => r.result.isNone && !b.ctxFrozen r.ctx && ownerRuns b r) = some r)
include hf

/-- A request that moves nothing has its result at once (R468–R470). -/
theorem beginMove_answers (h : judgeMove r b = some (.error st)) : beginMove e b = putResult e r st false b := by
  simp only [beginMove, hf, h]

/-- Step 1: the page that a request may move is marked MOVING, and is the engine's job (R464). -/
theorem beginMove_marks (h : judgeMove r b = some (.ok x)) (he : engineOf (some x) r.va r.dest = e) :
    let va := pageBase x.big r.va
    beginMove e b = markMoving true r.ctx va x (b.modTier e fun t =>
      { t with job := some { req := r, stage := 1, va := va, addr := x.addr, big := x.big, old := setMoving true x.l, new := 0 } }) := by
  simp only [beginMove, hf, h]
  exact if_neg (not_not_intro he)

end Begin

section Copy
variable (hs : j.stage = 1) (hm : stillMoving b j = some x)
include hs hm

/-- Step 2 waits while a write that translated before the mark is outstanding (R464, R466). -/
theorem moveStep_waits (hh : leafHome x.l = 1) (hu : frameInUse b true (leafFrame x.l) (pageSize j.big) = true) :
    moveStep e j b = b := by
  simp only [moveStep, hs, hm, hh, hu, decide_true, Bool.and_self, if_true]

variable (hfree : leafHome x.l ≠ 1 ∨ frameInUse b true (leafFrame x.l) (pageSize j.big) = false)
include hfree

/-- Step 2: the page is copied to its destination (R464). -/
theorem moveStep_copies (h : copyPage e j x (withStoresLanded x.l (pageSize j.big) b) = (.ok l, b₁)) :
    moveStep e j b = turnDies j.req.owner l (b₁.modTier e fun t =>
      { t with job := some { j with stage := 2, old := x.l, new := l } }) := by
  rw [withStoresLanded] at h
  simp only [moveStep, hs, hm, frameHeld_eq_false hfree, Bool.false_eq_true, if_false, h]

/-- A page that cannot be copied stays where it is, and its move ends (R470–R472). -/
theorem moveStep_fails (h : copyPage e j x (withStoresLanded x.l (pageSize j.big) b) = (.error st, b₁)) :
    moveStep e j b = giveUp e j st (st = .busy) b₁ := by
  rw [withStoresLanded] at h
  simp only [moveStep, hs, hm, frameHeld_eq_false hfree, Bool.false_eq_true, if_false, h]

end Copy

/-- Step 3: the page's entry names its new home and its TLB entries are dropped; the waits for a page that came to T1 are
resolved (R464, R533). -/
theorem moveStep_renames (hs : j.stage = 2) (hm : stillMoving b j = some x)
    (hb : b₁ = (dropPage j.req.ctx j.va (putLeaf x j.new b)).modTier e (fun t => { t with job := some { j with stage := 3 } })) :
    let b₂ := releaseMoving (sharers b₁ j.req.ctx j.va) j.va (j.va + pageSize j.big) b₁
    moveStep e j b = if j.req.dest = 1 then resolvePage (sharers b₂ j.req.ctx j.va) j.va (j.va + pageSize j.big) b₂ else b₂ := by
  simp only [moveStep, hs, hm, hb]

/-- Step 4: once no access to the old frame is outstanding it is released, and the request has its result (R464). -/
theorem moveStep_releases (hs : 3 ≤ j.stage)
    (hfree : leafHome j.old ≠ 1 ∨ frameInUse b false (leafFrame j.old) (pageSize j.big) = false) :
    moveStep e j b = putResult e j.req .ok false ((releaseHome { l := j.old, addr := j.addr, big := j.big } b).modTier e fun t =>
      { t with job := none, pages := t.pages + 1 }) := by
  unfold moveStep
  split
  case h_1 h => omega
  case h_2 h => omega
  case h_3 => simp only [frameHeld_eq_false hfree, Bool.false_eq_true, if_false]

end Move

/-! ### The tier schedule (R489) -/

/-- The entry at a context's cursor is taken, where it is within reach and the schedule runs. -/
theorem does_scheduleEntryStart {b : Block} {ctx : Nat} {c : Context} {p : Partition} {e : SchedEntry} (hctx : ctx < 65536)
    (hc : b.context ctx = some c) (hp : SMap.find c.part b.parts = some p) (he : c.sched[c.cursor]? = some e)
    (hen : p.schedEn = true) (hfz : b.ctxFrozen ctx = false) (hl : b.lock.level < 3)
    (hreach : e.layer ≤ c.layer + p.lookaheadAct.toNat) : Does (.scheduleEntryStart ctx) b (takeEntry ctx c e b) :=
  does_within (exec_scheduleEntryStart ctx) (decide_eq_true hctx) (by simp [scheduleStart, hc, hp, he, hen, hfz, hl, hreach])

/-! ### A rekey (R802, R803) -/

section Rekey
variable {b b₁ b₂ b' : Block} {slot ctx va page : Nat} {x : Leaf}

theorem does_rekeyPage (hslot : slot < 4096) (hctx : ctx < 65536) (h : rekeyPage slot ctx va b = b') :
    Does (.rekeyPage slot ctx va) b b' :=
  does_within (exec_rekeyPage slot ctx va) (by simp [hslot, hctx]) h

/-- A page is due for a rekey: the slot it is mapped under rotates, and its epoch is the one before (R802). -/
structure RekeyDue (b : Block) (slot ctx va : Nat) (x : Leaf) : Prop where
  mapped : leafOf b ctx va = some x
  rotating : (b.slot slot).st = .rotating
  ownSlot : leafSlot x.l = slot
  oldEpoch : leafEpoch x.l = ((b.slot slot).epoch - 1).toNat

/-- What becomes of a page that is due, by whether its rekey has begun. -/
theorem rekeyPage_due (h : RekeyDue b slot ctx va x) : rekeyPage slot ctx va b =
    if (slot, ctx, pageBase x.big va) ∉ b.rekeys then
      if leafMoving x.l || 3 ≤ b.lock.level then b
      else markMoving true ctx (pageBase x.big va) x { b with rekeys := b.rekeys ++ [(slot, ctx, pageBase x.big va)] }
    else if leafHome x.l = 1 && frameInUse b true (leafFrame x.l) (pageSize x.big) then b
    else rekeyEnd slot ctx (pageBase x.big va) x (withStoresLanded x.l (pageSize x.big) b) := by
  obtain ⟨hm, hr, hs, he⟩ := h
  simp [rekeyPage, withStoresLanded, hm, hr, hs, he]

/-- The first step marks the page MOVING (R803). -/
theorem rekeyPage_begins (h : RekeyDue b slot ctx va x) (hn : (slot, ctx, pageBase x.big va) ∉ b.rekeys)
    (hm : leafMoving x.l = false) (hl : b.lock.level < 3) : rekeyPage slot ctx va b =
      markMoving true ctx (pageBase x.big va) x { b with rekeys := b.rekeys ++ [(slot, ctx, pageBase x.big va)] } := by
  rw [rekeyPage_due h, if_pos hn, if_neg (by simp [hm, hl])]

/-- The second step waits while a write that translated before the mark is outstanding. -/
theorem rekeyPage_waits (h : RekeyDue b slot ctx va x) (hn : (slot, ctx, pageBase x.big va) ∈ b.rekeys) (hh : leafHome x.l = 1)
    (hu : frameInUse b true (leafFrame x.l) (pageSize x.big) = true) : rekeyPage slot ctx va b = b := by
  rw [rekeyPage_due h, if_neg (not_not_intro hn), if_pos (by simp [hh, hu])]

/-- The second step ends the rekey once none is outstanding. -/
theorem rekeyPage_ends (h : RekeyDue b slot ctx va x) (hn : (slot, ctx, pageBase x.big va) ∈ b.rekeys)
    (hfree : ¬ (leafHome x.l = 1 ∧ frameInUse b true (leafFrame x.l) (pageSize x.big) = true)) : rekeyPage slot ctx va b =
      rekeyEnd slot ctx (pageBase x.big va) x (withStoresLanded x.l (pageSize x.big) b) := by
  rw [rekeyPage_due h, if_neg (not_not_intro hn), if_neg (by simpa using hfree)]

/-- Steps 2 and 3 where the page's bytes are in order in `b'`, from the block `b` in which the rekey is noted no more: the entry
gets the current epoch, the accesses that waited go on, and the slot has one old page less (R802). -/
def withEpochRenewed (slot ctx page : Nat) (x : Leaf) (b b' : Block) : Block :=
  releaseMoving (sharers b ctx page) page (page + pageSize x.big)
    ((dropPage ctx page (putLeaf x (setMoving false (setBits x.l 10 2 (b'.slot slot).epoch.toNat)) b')).modSlot slot
      fun k => KeySlot.retire { k with oldPages := k.oldPages - 1 })

/-- A rekey ends with the current epoch once its page, where it is homed in T3, is sealed again; the model holds the other pages
in the clear (assumption 22). -/
theorem rekeyEnd_of (hb : b₁ = { b with rekeys := b.rekeys.erase (slot, ctx, page) })
    (h : (if leafHome x.l = 3 then resealPage slot ctx page x b₁ else (true, b₁)) = (true, b₂)) :
    rekeyEnd slot ctx page x b = withEpochRenewed slot ctx page x b₁ b₂ := by
  subst hb
  simp only [rekeyEnd, h, Bool.not_true, Bool.false_eq_true, if_false, withEpochRenewed]

theorem resealPage_sealed {c ct iv tag : List Byte} {ep : Nat} {b₃ : Block} (hr : readCompressed 0 ctx page x b₁ = (.ok c, b₂))
    (hs : sealUnder slot (t3Aad page (b₂.slot slot).epoch.toNat) c b₂ = (.ok (ct, iv, tag, ep), b₃)) :
    resealPage slot ctx page x b₁ = (true, hostWrite (leafFrame x.l) (ct ++ iv ++ tag) b₃) := by
  simp only [resealPage, hr, hs]

end Rekey

/-! ### Fault records (R532) -/

section Faults
variable {b b' : Block} {die : Nat} {bs : List Byte} {rest : List (List Byte)}

/-- The pager's request for the page of a fault record, with the faulting basin charged (R532). -/
def pagerRequest (r : FaultRec) (b : Block) : TierReq :=
  { owner := .pager, ctx := r.ctx, va := (pageBounds b r.ctx r.va).1, dest := 1, cfmt := 15, charge := r.basin, ord := 0,
    rot := none, result := none }

theorem does_faultRecordTake (hd : die < 8) (h : takeRecord die b = b') : Does (.faultRecordTake die) b b' :=
  does_within (exec_faultRecordTake die) (decide_eq_true hd) h

variable (hq : SMap.get [] die b.faults = bs :: rest)
include hq

/-- A record of any other status is taken and asks for nothing. -/
theorem takeRecord_other (hs : (FaultRec.ofBytes bs).status ≠ .notResident) :
    takeRecord die b = { b with faults := SMap.put [] die rest b.faults } := by
  simp only [takeRecord, hq, if_pos hs]

/-- A record of a page that is not resident asks for the page, where no request for any page stands (R532). -/
theorem takeRecord_notResident (hs : (FaultRec.ofBytes bs).status = .notResident) (ht : b.tier = []) (hr : b.rooms = [])
    (hd : b.deferred = []) :
    let b₁ := { b with faults := SMap.put [] die rest b.faults }
    takeRecord die b = tierRequest (pagerRequest (FaultRec.ofBytes bs) b₁) b₁ := by
  simp only [takeRecord, hq, hs, ht, hr, hd, pagerRequest]
  simp

end Faults

/-! ### BS_FAULT_END (R530, R532) -/

@[simp] theorem postHalt_cores (th : Nat) (cause : TrapCause) (st : Status) (va : Nat) (b : Block) :
    (postHalt th cause st va b).cores = b.cores := by
  simp only [postHalt]
  split <;> exact postRecord_cores ..

/-- The wait of a thread PARKED for its own page ends with the thread HALTED at its instruction (R152, R530). -/
theorem thread_endThreadWait {b : Block} {th : Nat} {st : Status} (hr : (b.thread th).reason = .pager)
    (ho : (b.thread th).ownFault = true) : (endThreadWait th st b).thread th =
      { b.thread th with st := .halted, reason := .none, status := st, wait := .none, pagerDue := false } := by
  rw [endThreadWait, if_pos (by simp [hr, ho]), thread_eq_of_cores (postHalt_cores ..), Block.thread_modThread_same]

section FaultEnd
variable {b b' : Block} {basin w unit slot inst : Nat} {v : U64} {st : Status}

theorem does_bsFaultEnd (hb : basin < 256) (h : faultEnd basin v.toNat b = b') : Does (.bsFaultEnd basin v) b b' :=
  does_within (exec_bsFaultEnd basin v) (decide_eq_true hb) h

variable (hunit : bitsOf w 8 8 = unit) (hslot : bitsOf w 16 8 = slot) (hst : Status.ofCode (bitsOf w 0 8) = some st) (hne : st ≠ .ok)
include hunit hslot hst hne

/-- The wait of a command in an engine's queue (units 4, 5, 6 and 8). -/
theorem faultEnd_command {q : QueueRef} {c : Cmd} (hq : (unit = 4 ∧ q = .mv basin)
      ∨ (unit = 5 ∧ slot < 16 ∧ q = .mx (basin * 16 + slot)) ∨ (unit = 6 ∧ q = .up basin) ∨ (unit = 8 ∧ q = .rd basin))
    (hc : waiterIn b q = some c) : faultEnd basin w b = endCmdWait q c st b := by
  rcases hq with ⟨rfl, rfl⟩ | ⟨rfl, hs, rfl⟩ | ⟨rfl, rfl⟩ | ⟨rfl, rfl⟩
  case inr.inl => simp [faultEnd, hunit, hslot, hst, hne, hc, hs]
  all_goals simp [faultEnd, hunit, hst, hne, hc]

variable (hinst : bitsOf w 24 4 = inst) (hs : slot < 16)
include hinst hs

/-- A wait of a thread, for data or for its instruction (units 1 and 2). -/
theorem faultEnd_thread {th : Nat} (hth : th = (basin * 16 + slot) * 16 + inst)
    (hu : (unit = 1 ∧ (b.thread th).cause = .memFault) ∨ (unit = 2 ∧ (b.thread th).cause = .fetchFault)) :
    faultEnd basin w b = endThreadWait th st b := by
  subst hth
  rcases hu with ⟨rfl, hc⟩ | ⟨rfl, hc⟩ <;> simp [faultEnd, hunit, hslot, hinst, hst, hne, hs, hc]

/-- The waits of a towpath queue (unit 3). -/
theorem faultEnd_queue (hu : unit = 3) (hi : inst < 4) :
    faultEnd basin w b = endQueueWait (basin * 16 + slot) inst st (fun _ => true) b := by
  subst hu
  simp [faultEnd, hunit, hslot, hinst, hst, hne, hs, hi]

end FaultEnd

/-- Settles O36: the stage of a page's move, what a rekey has done so far, a record's status and the unit that a write names
each pick the one step that the statement gives. -/
theorem pagesMoveAndFaultsResolve : Obligations.PagesMoveAndFaultsResolve := by
  refine ⟨fun b e r he hl hj hf => ⟨fun st h => does_pageMove_idle he hl hj (beginMove_answers hf h),
      fun x h hx => does_pageMove_idle he hl hj (beginMove_marks hf h hx)⟩,
    fun b e j he hj => ⟨fun x hs hm hfree => ⟨fun l b₁ h => does_pageMove_busy he hj (moveStep_copies hs hm hfree h),
        fun st b₁ h => does_pageMove_busy he hj (moveStep_fails hs hm hfree h)⟩,
      fun x hs hm b₁ hb => does_pageMove_busy he hj (moveStep_renames hs hm hb),
      fun hs hfree => does_pageMove_busy he hj (moveStep_releases hs hfree),
      fun x hs hm hh hu => does_pageMove_busy he hj (moveStep_waits hs hm hh hu)⟩,
    fun b ctx c p e => does_scheduleEntryStart, ?rekey,
    fun b die bs rest hd hq => ⟨fun hs => does_faultRecordTake hd (takeRecord_other hq hs),
      fun hs ht hr hdef => does_faultRecordTake hd (takeRecord_notResident hq hs ht hr hdef)⟩, ?faultEnd⟩
  case rekey =>
    intro b slot ctx va x hslot hctx hm hr hs hep hl page busy
    have due : RekeyDue b slot ctx va x := ⟨hm, hr, hs, hep⟩
    refine ⟨fun hn hmv => does_rekeyPage hslot hctx (rekeyPage_begins due hn hmv hl),
      fun hn hbusy => does_rekeyPage hslot hctx (rekeyPage_waits due hn hbusy.1 hbusy.2),
      fun hn hfree => ⟨fun hh => does_rekeyPage hslot hctx ((rekeyPage_ends due hn hfree).trans (rekeyEnd_of rfl (if_neg hh))),
        fun hh c b₂ ct iv tag ep b₃ hread hseal => does_rekeyPage hslot hctx
          ((rekeyPage_ends due hn hfree).trans (rekeyEnd_of rfl ((if_pos hh).trans (resealPage_sealed hread hseal))))⟩⟩
  case faultEnd =>
    intro b basin v st hb w th unit slot hst hne
    have hunit : bitsOf w 8 8 = unit := bitsOf_eq ..
    have hslot : bitsOf w 16 8 = slot := bitsOf_eq ..
    have hinst : bitsOf w 24 4 = w / 2 ^ 24 % 16 := bitsOf_eq ..
    refine ⟨fun hs hu hstatus hr => ?thread,
      fun hs hu hi => does_bsFaultEnd hb (faultEnd_queue hunit hslot hst hne hinst hs hu hi),
      fun q c hq hc => does_bsFaultEnd hb (faultEnd_command hunit hslot hst hne hq hc)⟩
    case thread =>
      have own : (b.thread th).ownFault = true := by
        rcases hu with ⟨-, hc⟩ | ⟨-, hc⟩ <;> simp [Thread.ownFault, hc, hstatus]
      refine ⟨_, does_bsFaultEnd hb (faultEnd_thread hunit hslot hst hne hinst hs rfl hu), ?_⟩
      rw [thread_endThreadWait hr own]
      exact ⟨rfl, rfl, rfl, rfl⟩

end Sys2Proof.Machine
end

section
/-! PROOFS. A scrubbed core (R542) and a patrol read (R544–R553): an event record reaches the host interface, host memory and the
free values alone; where the decoder corrects every wrong symbol, writing a codeword back leaves its bytes and sheds its errors. -/

namespace Sys2Proof.Machine

/-! ### A scrubbed core -/

/-- What holds of the default and of every listed value holds of the value at any key. -/
theorem SMap.get_of_forall {α : Type} {P : α → Prop} {d : α} {m : SMap α} (hd : P d) (h : ∀ e ∈ m, P e.2) (k : Nat) :
    P (SMap.get d k m) := by
  induction m with
  | nil => exact hd
  | cons e m ih =>
    obtain ⟨he, hm⟩ := List.forall_mem_cons.1 h
    rw [SMap.get_cons]
    split
    · exact he
    · exact ih hm

@[simp] theorem Thread.getG_init (r : Reg) : Thread.init.getG r = 0 := ite_self _

/-- A scrub leaves a towpath queue its count and its last status (R542). -/
theorem twq_scrub (c : Core) (q : Nat) : ∃ n st, c.scrub.twq q = { TwQueue.init with completed := n, lastStatus := st } := by
  refine SMap.get_of_forall (P := fun x => ∃ n st, x = { TwQueue.init with completed := n, lastStatus := st }) ⟨0, .ok, rfl⟩
    (fun e he => ?_) q
  obtain ⟨old, -, hold⟩ := List.mem_filterMap.1 he
  obtain ⟨-, hold⟩ := Option.ite_none_left_eq_some.1 hold
  cases hold
  exact ⟨_, _, rfl⟩

/-- Settles O29: but for its registers, gatherer, and towpath depths and counts, a scrubbed core is a core at reset. -/
theorem scrubLeavesNothing : Obligations.ScrubLeavesNothing := by
  intro c
  refine ⟨fun a => ⟨rfl, rfl, rfl, rfl, rfl, rfl⟩, fun t => ⟨rfl, Thread.getG_init⟩, fun k => rfl, rfl, rfl, rfl, rfl, rfl, rfl,
    rfl, rfl, rfl, rfl, rfl, rfl, rfl, fun q => ?_⟩
  obtain ⟨n, st, hq⟩ := twq_scrub c q
  rw [hq]
  exact ⟨rfl, rfl, rfl, rfl⟩

/-! ### What a posted record leaves alone -/

/-- A block with what a posted event record changes put aside: the free values, the host interface and host memory. -/
def Block.unposted (b : Block) : Block := { b with freeCtr := 0, host := .init, mem := { b.mem with host := [] } }

@[simp] theorem unposted_hostReport (f a n : Nat) (b : Block) : (hostReport f a n b).unposted = b.unposted := by
  unfold hostReport; split <;> rfl

@[simp] theorem unposted_atsFill (f page : Nat) (b : Block) : (atsFill f page b).unposted = b.unposted := by
  simp only [atsFill]
  split
  · rfl
  · split <;> rfl

@[simp] theorem unposted_atsTouch (f a n : Nat) (b : Block) : (atsTouch f a n b).unposted = b.unposted :=
  foldl_keeps Block.unposted _ (fun _ _ => unposted_atsFill ..) _ _

@[simp] theorem unposted_hostWrite (a : Nat) (bs : List Byte) (b : Block) : (hostWrite a bs b).unposted = b.unposted := rfl
@[simp] theorem unposted_modFunc (n : Nat) (f : Func → Func) (b : Block) : (b.modFunc n f).unposted = b.unposted := rfl
@[simp] theorem unposted_raiseVector (f v : Nat) (b : Block) : (raiseVector f v b).unposted = b.unposted := rfl
@[simp] theorem unposted_dropRecord (f r : Nat) (b : Block) : (dropRecord f r b).unposted = b.unposted := rfl

@[simp] theorem unposted_writeRecord (f r : Nat) (rec : List Byte) (b : Block) :
    (writeRecord f r rec b).unposted = b.unposted := by
  simp only [writeRecord]
  split
  · simp
  · split <;> simp

@[simp] theorem unposted_postRecord (f r : Nat) (rec : List Byte) (b : Block) :
    (postRecord f r rec b).unposted = b.unposted := by
  simp only [postRecord]
  split
  · rfl
  · split
    · split <;> rfl
    · exact unposted_writeRecord ..

@[simp] theorem unposted_postEvent (f : Nat) (st : Status) (source inst ctx slot : Nat) (detail : List Byte) (b : Block) :
    (postEvent f st source inst ctx slot detail b).unposted = b.unposted := unposted_postRecord ..

@[simp] theorem unposted_postFirmware (f : Nat) (st : Status) (ctx : Nat) (detail : List Byte) (b : Block) :
    (postFirmware f st ctx detail b).unposted = b.unposted := unposted_postEvent ..

/-! ### A memory, its wrong symbols and its error counts -/

section Patrol
variable (b : Block) (m m' : MemSpace) (a : Nat)

/-- The bytes of a memory as they were written. -/
def Block.written (b : Block) : MemSpace → Mem
  | .t1 => b.mem.t1
  | .t2 => b.mem.t2

/-- The codewords of a memory that have wrong symbols. -/
def Block.wrongSyms (b : Block) : MemSpace → SMap SymErrs
  | .t1 => b.mem.t1Bad
  | .t2 => b.mem.t2Bad

/-- The error counts of the stack or device that holds an address (R512, R553). -/
def Block.eccOf (b : Block) (a : Nat) : MemSpace → EccCount
  | .t1 => SMap.get .init (stackOf a) b.gl.t1Ecc
  | .t2 => SMap.get .init (a / 2 ^ 40) b.gl.t2Ecc

/-- The block with other bytes and wrong symbols in one memory. -/
def Block.withMemory (b : Block) (w : Mem) (e : SMap SymErrs) : MemSpace → Block
  | .t1 => { b with mem := { b.mem with t1 := w, t1Bad := e } }
  | .t2 => { b with mem := { b.mem with t2 := w, t2Bad := e } }

theorem errorsAt_eq : errorsAt b m a = SMap.get [] a (b.wrongSyms m) := by cases m <;> rfl

theorem written_unposted : b.unposted.written m = b.written m := by cases m <;> rfl
theorem wrongSyms_unposted : b.unposted.wrongSyms m = b.wrongSyms m := by cases m <;> rfl
theorem eccOf_unposted : b.unposted.eccOf a m = b.eccOf a m := by cases m <;> rfl

/-- Blocks that differ by posted records have the same memories, wrong symbols, registers, cores and basins. -/
theorem same_of_unposted {b b' : Block} (h : b'.unposted = b.unposted) :
    (∀ m, b'.written m = b.written m) ∧ (∀ m, b'.wrongSyms m = b.wrongSyms m) ∧ (∀ a m, b'.eccOf a m = b.eccOf a m)
      ∧ b'.gl = b.gl ∧ b'.cores = b.cores ∧ b'.basins = b.basins :=
  ⟨fun m => by rw [← written_unposted, h, written_unposted], fun m => by rw [← wrongSyms_unposted, h, wrongSyms_unposted],
    fun a m => by rw [← eccOf_unposted, h, eccOf_unposted], congrArg (·.gl) h, congrArg (·.cores) h, congrArg (·.basins) h⟩

variable (w : Mem) (e : SMap SymErrs)

@[simp] theorem written_withMemory : (b.withMemory w e m).written m = w := by cases m <;> rfl
@[simp] theorem wrongSyms_withMemory : (b.withMemory w e m).wrongSyms m = e := by cases m <;> rfl
@[simp] theorem cores_withMemory : (b.withMemory w e m).cores = b.cores := by cases m <;> rfl
@[simp] theorem basins_withMemory : (b.withMemory w e m).basins = b.basins := by cases m <;> rfl

theorem written_withMemory_other (h : m' ≠ m) : (b.withMemory w e m).written m' = b.written m' := by
  cases m <;> cases m' <;> trivial

@[simp] theorem gl_withMemory : (b.withMemory w e m).gl = b.gl := by cases m <;> rfl
@[simp] theorem eccOf_withMemory : (b.withMemory w e m).eccOf a m' = b.eccOf a m' := by cases m <;> cases m' <;> rfl

end Patrol

/-! ### Wrong symbols appear -/

section Codeword
variable {b : Block} {m : MemSpace} {a addr : Nat} {errs syms : SymErrs} {c : Bool}

/-- Of the symbols that a row names, those of a codeword, with values of one byte. -/
def symbolsIn (errs : SymErrs) : SymErrs := errs.filter fun e => decide (e.1 < 36) && decide (e.2 < 256)

theorem addErrors_eq (m : MemSpace) (a : Nat) (errs : SymErrs) (b : Block) : addErrors m a errs b =
    b.withMemory (b.written m) (SMap.put [] a (addSyms (errorsAt b m a) (symbolsIn errs)) (b.wrongSyms m)) m := by
  cases m <;> rfl

/-- Where every listed codeword begins at a multiple of 32, the one that begins at `a` is the only one its range touches. -/
theorem eq_of_mem_wrongIn_put {l : SMap SymErrs} (hl : ∀ e ∈ l, e.1 % 32 = 0) (ha : a % 32 = 0) :
    ∀ e ∈ wrongIn (SMap.put [] a syms l) a 32, e = (a, syms) := by
  intro e he
  obtain ⟨hmem, hin⟩ := List.mem_filter.1 he
  have kept : e ∉ l.filter fun x => x.1 != a := by
    intro h
    obtain ⟨hel, hne⟩ := List.mem_filter.1 h
    have := hl e hel
    simp at hin hne
    omega
  unfold SMap.put at hmem
  split at hmem
  · exact absurd hmem kept
  · exact (SMap.mem_place _ _ _ _ hmem).resolve_right kept

/-! ### A corrected codeword is written back -/

/-- A read delivers what was written where the decoder corrects all that is wrong. -/
theorem readThrough_corrected {l : SMap SymErrs} (h : ∀ e ∈ l, ∃ c, rsRead e.2 = some ([], c)) (pa : Nat) (bs : List Byte) :
    readThrough l pa bs = bs := by
  refine List.foldlRecOn (motive := fun bs' => bs' = bs) l _ rfl fun bs' h' e he => ?_
  obtain ⟨c, hc⟩ := h e he
  simp only [hc, List.foldl_nil, h']

/-- A write of what stands in a range changes no byte. -/
theorem Mem.byte_write_read (w : Mem) (a n x : Nat) : (w.write a (w.read a n)).byte x = w.byte x := by
  by_cases h : a ≤ x ∧ x < a + n
  · obtain ⟨i, rfl⟩ := Nat.exists_eq_add_of_le h.1
    have hi : i < (w.read a n).length := by simp; omega
    rw [Mem.byte_write_inside _ _ _ _ hi]
    simp [Mem.read_eq]
  · exact Mem.byte_write_outside _ _ _ _ (by simp; omega)

/-- A write that changes no codeword in part corrects none before it (R549). -/
theorem t1Write_whole {bs : List Byte} (h : partIn b.mem.t1Bad a bs.length = []) : t1Write a bs b =
    b.withMemory (b.mem.t1.write a bs)
      (b.mem.t1Bad.filter fun e => !(decide (e.1 < a + bs.length) && decide (a < e.1 + 32))) .t1 := by
  rw [t1Write, t1WriteBad, h]
  rfl

/-- A codeword in which the decoder corrects everything is written back as it was written, and without errors (R551). -/
theorem scrubWord_corrected (h : ∀ e ∈ wrongIn (b.wrongSyms m) a 32, e.1 = a ∧ rsRead e.2 = some ([], c)) :
    ∃ w l, scrubWord m a b = b.withMemory w l m ∧ (∀ x, w.byte x = (b.written m).byte x) ∧ SMap.get [] a l = [] := by
  have read : ∀ bs, readThrough (wrongIn (b.wrongSyms m) a 32) a bs = bs :=
    readThrough_corrected (fun e he => ⟨c, (h e he).2⟩) a
  refine ⟨(b.written m).write a ((b.written m).read a 32),
    (b.wrongSyms m).filter fun e => !(decide (e.1 < a + 32) && decide (a < e.1 + 32)), ?_, Mem.byte_write_read _ _ _,
    SMap.get_filter_dropped fun _ => by simp⟩
  cases m
  case t1 =>
    have whole : partIn b.mem.t1Bad a 32 = [] := List.filter_eq_nil_iff.2 fun e he => by simp [(h e he).1]
    have data : t1Data b a 32 = b.mem.t1.read a 32 := read _
    rw [scrubWord, data, t1Write_whole (by rw [Mem.length_read]; exact whole), Mem.length_read]
    rfl
  case t2 =>
    have data : t2Data b a 32 = b.mem.t2.read a 32 := read _
    rw [scrubWord, data, t2Write, Mem.length_read]
    rfl

/-! ### What patrol counts -/

/-- The block with other error counts for the stack or device that holds an address. -/
def Block.withEcc (b : Block) (a : Nat) (n : EccCount) : MemSpace → Block
  | .t1 => { b with gl := { b.gl with t1Ecc := SMap.put .init (stackOf a) n b.gl.t1Ecc } }
  | .t2 => { b with gl := { b.gl with t2Ecc := SMap.put .init (a / 2 ^ 40) n b.gl.t2Ecc } }

/-- The block with the last uncorrectable error, which patrol met, in `GL_ECC_LAST` (R553). -/
def Block.withLast (b : Block) (addr : BitVec 48) (space : BitVec 2) : Block :=
  { b with gl := { b.gl with eccAddr := addr, eccSpace := space, eccPatrol := true, eccValid := true } }

section Counts
variable (b : Block) (m m' : MemSpace) (a : Nat) (n : EccCount)

@[simp] theorem eccOf_withEcc : (b.withEcc a n m).eccOf a m = n := by
  cases m <;> exact SMap.get_put_same ..

@[simp] theorem cores_withEcc : (b.withEcc a n m).cores = b.cores := by cases m <;> rfl
@[simp] theorem basins_withEcc : (b.withEcc a n m).basins = b.basins := by cases m <;> rfl
@[simp] theorem written_withEcc : (b.withEcc a n m).written m' = b.written m' := by cases m <;> cases m' <;> rfl
@[simp] theorem wrongSyms_withEcc : (b.withEcc a n m).wrongSyms m' = b.wrongSyms m' := by cases m <;> cases m' <;> rfl

variable (addr : BitVec 48) (space : BitVec 2)

@[simp] theorem eccOf_withLast : (b.withLast addr space).eccOf a m = b.eccOf a m := by cases m <;> rfl
@[simp] theorem cores_withLast : (b.withLast addr space).cores = b.cores := rfl
@[simp] theorem basins_withLast : (b.withLast addr space).basins = b.basins := rfl
@[simp] theorem written_withLast : (b.withLast addr space).written m = b.written m := by cases m <;> rfl
@[simp] theorem wrongSyms_withLast : (b.withLast addr space).wrongSyms m = b.wrongSyms m := by cases m <;> rfl

/-- A correction is counted, and a record of it posted (R545). -/
theorem unposted_countCorrected : (countCorrected m a b).unposted =
    (b.withEcc a { b.eccOf a m with corrected := (b.eccOf a m).corrected + 1 } m).unposted := by
  cases m <;> exact unposted_postFirmware ..

/-- An uncorrectable codeword is counted and noted, and a record of it posted (R553). -/
theorem unposted_patrolBad : ∃ addr space, (patrolBad m a b).unposted =
    ((b.withEcc a { b.eccOf a m with uncorrectable := sat16 (b.eccOf a m).uncorrectable } m).withLast addr space).unposted := by
  cases m <;> exact ⟨_, _, unposted_postEvent ..⟩

end Counts

/-! ### A patrol read of a codeword -/

theorem patrolRead_corrected {l : SymErrs} (h : rsRead (errorsAt b m a) = some (l, true)) :
    patrolRead m a b = countCorrected m a (scrubWord m a b) := by
  rw [patrolRead, h]

theorem patrolRead_uncorrectable (h : rsRead (errorsAt b m a) = none) : patrolRead m a b = patrolBad m a b := by
  rw [patrolRead, h]

/-- The block when the symbols of a codeword that had no errors have gone wrong. -/
def withErrors (m : MemSpace) (a : Nat) (syms : SymErrs) (b : Block) : Block :=
  b.withMemory (b.written m) (SMap.put [] a syms (b.wrongSyms m)) m

theorem errorsAt_withErrors : errorsAt (withErrors m a syms b) m a = syms := by
  rw [errorsAt_eq, withErrors, wrongSyms_withMemory, SMap.get_put_same]

@[simp] theorem written_withErrors (m' : MemSpace) : (withErrors m a syms b).written m' = b.written m' := by
  cases m <;> cases m' <;> rfl

@[simp] theorem eccOf_withErrors : (withErrors m a syms b).eccOf a m = b.eccOf a m := eccOf_withMemory ..
@[simp] theorem cores_withErrors : (withErrors m a syms b).cores = b.cores := cores_withMemory ..
@[simp] theorem basins_withErrors : (withErrors m a syms b).basins = b.basins := basins_withMemory ..

/-- Patrol reads a codeword that had no errors once the row's errors stand in it. -/
theorem does_patrolMem (h : inSpace m addr = true) (hen : b.gl.patrolEn = true) (ha : a = addr / 32 * 32)
    (hclean : errorsAt b m a = []) :
    Does (.patrolMem m addr errs) b (patrolRead m a (withErrors m a (addSyms [] (symbolsIn errs)) b)) := by
  refine does_within (exec_patrolMem m addr errs) h ?_
  subst ha
  simp [patrolMem, addErrors_eq, withErrors, hclean, hen]

/-- Where the decoder corrects every wrong symbol, every byte of the memory stays and the codeword has no errors. -/
theorem patrolRead_sheds (ha : a % 32 = 0) (hl : ∀ e ∈ b.wrongSyms m, e.1 % 32 = 0) (hr : rsRead syms = some ([], true)) :
    let b' := patrolRead m a (withErrors m a syms b)
    (∀ x, (b'.written m).byte x = (b.written m).byte x) ∧ (∀ m', m' ≠ m → b'.written m' = b.written m')
      ∧ errorsAt b' m a = [] ∧ (b'.eccOf a m).corrected = (b.eccOf a m).corrected + 1
      ∧ b'.cores = b.cores ∧ b'.basins = b.basins := by
  have only : ∀ e ∈ wrongIn ((withErrors m a syms b).wrongSyms m) a 32, e.1 = a ∧ rsRead e.2 = some ([], true) := by
    intro e he
    rw [withErrors, wrongSyms_withMemory] at he
    obtain rfl := eq_of_mem_wrongIn_put hl ha e he
    exact ⟨rfl, hr⟩
  obtain ⟨w, l, hscrub, hbytes, hshed⟩ := scrubWord_corrected only
  rw [patrolRead_corrected (by rwa [errorsAt_withErrors]), hscrub]
  obtain ⟨hw, hs, hn, -, hc, hb⟩ := same_of_unposted (unposted_countCorrected ((withErrors m a syms b).withMemory w l m) m a)
  refine ⟨fun x => ?_, fun m' hm => ?_, ?_, ?_, ?_, ?_⟩
  · rw [hw, written_withEcc, written_withMemory, hbytes, written_withErrors]
  · rw [hw, written_withEcc, written_withMemory_other _ _ _ _ _ hm, written_withErrors]
  · rw [errorsAt_eq, hs, wrongSyms_withEcc, wrongSyms_withMemory, hshed]
  · simp [hn]
  · rw [hc, cores_withEcc, cores_withMemory, cores_withErrors]
  · rw [hb, basins_withEcc, basins_withMemory, basins_withErrors]

/-- What the decoder cannot correct stands as it was, and is counted and noted. -/
theorem patrolRead_leaves (hr : rsRead syms = none) :
    let b' := patrolRead m a (withErrors m a syms b)
    (∀ m', b'.written m' = b.written m') ∧ errorsAt b' m a = syms
      ∧ (b'.eccOf a m).uncorrectable = sat16 (b.eccOf a m).uncorrectable ∧ b'.gl.eccValid = true
      ∧ b'.cores = b.cores ∧ b'.basins = b.basins := by
  rw [patrolRead_uncorrectable (by rwa [errorsAt_withErrors])]
  obtain ⟨last, space, h⟩ := unposted_patrolBad (withErrors m a syms b) m a
  obtain ⟨hw, hs, hn, hgl, hc, hb⟩ := same_of_unposted h
  refine ⟨fun m' => ?_, ?_, ?_, ?_, ?_, ?_⟩
  · rw [hw, written_withLast, written_withEcc, written_withErrors]
  · rw [errorsAt_eq, hs, wrongSyms_withLast, wrongSyms_withEcc, ← errorsAt_eq, errorsAt_withErrors]
  · simp [hn]
  · rw [hgl]; rfl
  · rw [hc, cores_withLast, cores_withEcc, cores_withErrors]
  · rw [hb, basins_withLast, basins_withEcc, basins_withErrors]

end Codeword

/-! ### A patrol read of an SRAM word -/

section Sram
variable {b : Block} {basin pslot off n c : Nat}

theorem mem_insertAddr (a : Nat) (l : List Nat) : a ∈ insertAddr a l := by
  induction l with
  | nil => exact List.mem_singleton_self a
  | cons x l ih =>
    unfold insertAddr
    split
    · exact List.mem_cons_self
    · split
      · exact List.mem_cons.2 (.inl ‹_›)
      · exact List.mem_cons_of_mem _ ih

theorem does_patrolSram (hb : basin < 256) (hp : pslot < 17) (ho : off < 0xC0000) :
    Does (.patrolSram basin pslot off n) b (patrolSram basin pslot off n b) :=
  does_within (exec_patrolSram basin pslot off n) (by simp [hb, hp, ho]) rfl

theorem core_postEvent (f : Nat) (st : Status) (source inst ctx slot : Nat) (detail : List Byte) (b : Block) :
    (postEvent f st source inst ctx slot detail b).core c = b.core c :=
  congrArg (SMap.get Core.init c) (postRecord_cores ..)

theorem core_eccLast (addr space : Nat) (patrol : Bool) (source inst slot : Nat) (b : Block) :
    (eccLast addr space patrol source inst slot b).core c = b.core c := by
  rw [eccLast, core_postEvent]
  rfl

/-- An uncorrectable word of a core is counted in the core's registers alone (R553). -/
theorem core_eccSram (off : Nat) (patrol : Bool) (b : Block) : (eccSram c off patrol b).core c =
    { b.core c with regs := { (b.core c).regs with sramUncorrectable := sat16 (b.core c).regs.sramUncorrectable } } := by
  rw [eccSram, core_eccLast]
  exact Block.core_setCore_same ..

variable (hc : coreAt b basin pslot = some c) (hw : off / 8 * 8 ∉ (b.core c).bad)
include hc hw

/-- One wrong bit of a sound word is corrected and counted. -/
theorem core_patrolSram_one : (patrolSram basin pslot off 1 b).core c =
    { b.core c with regs := { (b.core c).regs with sramCorrected := (b.core c).regs.sramCorrected + 1 } } := by
  simp [patrolSram, hc, hw, core_postEvent, Block.modCore]

/-- Two wrong bits of a sound word stay in it and are counted. -/
theorem core_patrolSram_two : (patrolSram basin pslot off 2 b).core c =
    { b.core c with bad := insertAddr (off / 8 * 8) (b.core c).bad
                    regs := { (b.core c).regs with sramUncorrectable := sat16 (b.core c).regs.sramUncorrectable } } := by
  simp [patrolSram, hc, hw, core_eccSram, Block.modCore]

end Sram

/-- Settles O37: what the decoder makes of the codeword's wrong symbols, and how many bits of the SRAM word are wrong, decide
what patrol counts and leaves. -/
theorem patrolReadsCountErrors : Obligations.PatrolReadsCountErrors := by
  have aligned (addr : Nat) : addr / 32 * 32 % 32 = 0 := Nat.mul_mod_left ..
  refine fun b => ⟨?t1, ?t2, ?sram⟩
  case t1 =>
    intro addr errs haddr hen _ hl a wrong count hclean
    have does := does_patrolMem (m := .t1) (errs := errs) (decide_eq_true haddr) hen rfl hclean
    refine ⟨fun hr => ?_, fun hr => ?_⟩
    · obtain ⟨hw, ho, hs, hn, hc, hb⟩ := patrolRead_sheds (m := .t1) (aligned addr) hl hr
      exact ⟨_, does, hw, ho .t2 nofun, hs, hn, hc, hb⟩
    · obtain ⟨hw, hs, hn, hv, hc, hb⟩ := patrolRead_leaves (b := b) (m := .t1) (a := a) hr
      exact ⟨_, does, hw .t1, hw .t2, hs, hn, hv, hc, hb⟩
  case t2 =>
    intro addr errs haddr hen _ hl a wrong count hclean
    have does := does_patrolMem (m := .t2) (errs := errs) (decide_eq_true haddr) hen rfl hclean
    refine ⟨fun hr => ?_, fun hr => ?_⟩
    · obtain ⟨hw, ho, -, hn, -, -⟩ := patrolRead_sheds (m := .t2) (aligned addr) hl hr
      exact ⟨_, does, hw, ho .t1 nofun, hn⟩
    · obtain ⟨hw, hs, hn, -, -, -⟩ := patrolRead_leaves (b := b) (m := .t2) (a := a) hr
      exact ⟨_, does, hw .t1, hw .t2, hs, hn⟩
  case sram =>
    intro basin pslot off c hb hp ho hc hw
    have sound : off / 8 * 8 ∉ (b.core c).bad := by simpa using hw
    refine ⟨⟨_, does_patrolSram hb hp ho, ?_⟩, _, does_patrolSram hb hp ho, ?_⟩
    · rw [core_patrolSram_one hc sound]
      exact ⟨rfl, rfl, rfl⟩
    · rw [core_patrolSram_two hc sound]
      exact ⟨rfl, mem_insertAddr .., rfl⟩

end Sys2Proof.Machine
end

section
/-! PROOFS. Command rings and service queues (R624–R629, R839–R844): the doorbell, the entry at HEAD, and the completion of a
ring's entry, which is written back at once or waits for an entry taken before it that names an object of it. -/

namespace Sys2Proof.Machine

/-! ### Taking entries -/

section Entries
variable {b b₁ b₂ : Block} {f ctx : Nat} {c : BitVec 2} {v : U64} {bs hd : List Byte}

/-- The entry that firmware takes from its 64 bytes. -/
def takenOf (p : Poster) (bs : List Byte) : Taken :=
  { poster := p, op := fld bs 0 1, tag := BitVec.ofNat 32 (fld bs 4 4), started := false, outcome := none
    args := (List.range 6).map fun i => BitVec.ofNat 64 (fld bs (8 + 8 * i) 8) }

/-- An entry of an operation that a table lists, and its poster may post, is taken and nothing more (R628, R845). -/
theorem acceptEntry_named {p : Poster} (hk : opKnown p (fld bs 0 1) = true) (ha : actorNamed p (fld bs 0 1) = true) :
    acceptEntry p bs b = { b with host := { b.host with taken := b.host.taken ++ [takenOf p bs] } } := by
  simp only [acceptEntry, hk, ha]
  rfl

/-- A doorbell within the ring is stored. -/
theorem does_hiCrTail_within (hf : f < 64) (hu : fwUp b = true) (hr : (b.func f).resetting = false)
    (hn : (BitVec.ofNat 32 v.toNat - ((b.func f).cr c.toNat).head).toNat ≤ 2 ^ ((b.func f).cr c.toNat).size.toNat) :
    Does (.hiCrTail f c v) b (b.modFunc f fun x => x.setCr c.toNat { x.cr c.toNat with tail := BitVec.ofNat 32 v.toNat }) := by
  refine does_within (exec_hiCrTail f c v) (decide_eq_true hf) ?_
  rw [writeTail, if_neg (by simp [hr, hu]), if_neg (Nat.not_lt.2 hn)]

/-- A doorbell further than the ring's size beyond HEAD stops the ring (R841). -/
theorem does_hiCrTail_beyond (hf : f < 64) (hu : fwUp b = true) (hr : (b.func f).resetting = false)
    (hn : 2 ^ ((b.func f).cr c.toNat).size.toNat < (BitVec.ofNat 32 v.toNat - ((b.func f).cr c.toNat).head).toNat) :
    Does (.hiCrTail f c v) b (ringErr f c.toNat b) := by
  refine does_within (exec_hiCrTail f c v) (decide_eq_true hf) ?_
  rw [writeTail, if_neg (by simp [hr, hu]), if_pos hn]

/-- A ring whose next entry firmware may take: enabled, not stopped, not empty, and of a function that nothing holds up. -/
structure RingServed (b : Block) (f c : Nat) : Prop where
  up : fwUp b = true
  en : ((b.func f).cr c).en = true
  running : ((b.func f).cr c).err = false
  thawed : (b.func f).frozen = false
  alive : (b.func f).resetting = false
  tdi : (b.func f).tdi ≠ .error
  link : b.host.fatal = false
  posted : ((b.func f).cr c).head ≠ ((b.func f).cr c).tail

theorem does_ringEntryTake (hf : f < 64) (hs : RingServed b f c.toNat)
    (hread : hostRead f (ringEntry b f c.toNat ((b.func f).cr c.toNat).head.toNat) 64 b = (.ok bs, b₁)) :
    Does (.ringEntryTake f c) b (acceptEntry (.ring f c.toNat ((b.func f).cr c.toNat).head.toNat) bs
      (b₁.modFunc f fun x => x.setCr c.toNat { x.cr c.toNat with head := ((b.func f).cr c.toNat).head + 1 })) := by
  obtain ⟨hup, hen, herr, hfrozen, hresetting, htdi, hfatal, hposted⟩ := hs
  refine does_within (exec_ringEntryTake f c) (decide_eq_true hf) ?_
  simp only [takeRingEntry, hread]
  exact if_neg (by simp [hup, hen, herr, hfrozen, hresetting, htdi, hfatal, hposted])

/-- A service queue with an entry at HEAD that is not to be ignored, and none of its entries in work, has that entry taken. -/
theorem does_serviceQueuePoll {x : Context} {ignored : List (Nat × Nat)} (hctx : ctx < 65536) (hx : b.context ctx = some x)
    (hhd : fwSee ctx svcQueue 16 b = (some hd, b₁)) (hu : fwUp b₁ = true) (hf : (b₁.func x.fn).frozen = false)
    (hn : fld hd 0 8 < fld hd 8 8) (hq : (b₁.host.taken.any fun t => sameQueue t.poster (.service ctx 0)) = false)
    (hi : ignored = ignoreBeyond (fld hd 0 8) (fld hd 8 8) x.svcIgnored)
    (hfind : (ignored.find? fun r => decide (r.1 ≤ fld hd 0 8) && decide (fld hd 0 8 < r.2)) = none)
    (hsee : fwSee ctx (svcEntry (fld hd 0 8)) 64 (b₁.modContext ctx fun x => { x with svcIgnored := ignored }) = (some bs, b₂)) :
    Does (.serviceQueuePoll ctx) b (acceptEntry (.service ctx (fld hd 0 8)) bs b₂) := by
  have hidle : ((b₁.modContext ctx fun x => { x with svcIgnored := ignored }).host.taken.any fun t =>
      sameQueue t.poster (.service ctx 0)) = false := by rw [← hq]; unfold Block.modContext; split <;> rfl
  refine does_within (exec_serviceQueuePoll ctx) (decide_eq_true hctx) ?_
  simp only [pollService, hx, hhd, hu, hf, ← hi, hidle, hfind, if_neg (Nat.not_le.2 hn), hsee]
  rfl

end Entries

/-- Settles O42: the doorbell by where it points, the rings and the service queues by the entry at HEAD. -/
theorem entriesAreTakenInOrder : Obligations.EntriesAreTakenInOrder := by
  refine ⟨fun b f c v hf hu hr => ⟨does_hiCrTail_within hf hu hr, does_hiCrTail_beyond hf hu hr⟩, ?ring,
    fun b b₁ b₂ ctx x hd bs hctx hx hhd hu hf hn hq => does_serviceQueuePoll hctx hx hhd hu hf hn hq rfl⟩
  intro b b₁ f c bs hf hu x r p op t hen herr hfrozen hresetting htdi hfatal hposted hread
  have take := does_ringEntryTake hf ⟨hu, hen, herr, hfrozen, hresetting, htdi, hfatal, hposted⟩ hread
  refine ⟨fun hk ha => ⟨_, take, ?_⟩, take⟩
  rw [acceptEntry_named hk ha]
  exact ⟨rfl, rfl, rfl⟩

/-! ### Which entry completes -/

/-- An entry that has done its work with this status and RESULT. -/
def Taken.finish (st : Status) (result : Nat) (t : Taken) : Taken :=
  { t with started := true, outcome := some (t.outcome.getD (st, result)) }

/-- The entries in work once those of a poster have done theirs. -/
def finishAll (p : Poster) (st : Status) (result : Nat) (l : List Taken) : List Taken :=
  l.map fun t => if t.poster = p then t.finish st result else t

/-- A block with these entries in work. -/
def Block.withTaken (b : Block) (l : List Taken) : Block := { b with host := { b.host with taken := l } }

theorem complete_eq (p : Poster) (st : Status) (result : Nat) (b : Block) :
    complete p st result b = settleTaken b.host.taken.length (b.withTaken (finishAll p st result b.host.taken)) := rfl

theorem finishAll_eq_self {p : Poster} {st : Status} {result : Nat} {l : List Taken} (h : ∀ x ∈ l, x.poster ≠ p) :
    finishAll p st result l = l := (List.map_congr_left fun x hx => if_neg (h x hx)).trans (List.map_id' l)

/-- The entries of other posters stay as they are. -/
theorem mem_finishAll_other {p : Poster} {st : Status} {result : Nat} {l : List Taken} {x : Taken}
    (h : x ∈ (finishAll p st result l).filter fun x => x.poster != p) : x ∈ l ∧ x.poster ≠ p := by
  obtain ⟨hx, hp⟩ := List.mem_filter.1 h
  obtain ⟨y, hy, rfl⟩ := List.mem_map.1 hx
  by_cases hyp : y.poster = p
  · simp [hyp, Taken.finish] at hp
  · rw [if_neg hyp]
    exact ⟨hy, hyp⟩

/-- Entries that have not done their work are not due. -/
theorem dueEntry_unfinished {l : List Taken} (h : ∀ x ∈ l, x.outcome = none) : dueEntry l = none :=
  List.find?_eq_none.2 fun x hx => by simp [h x hx]

/-- Where no entry is due, none completes. -/
theorem settleTaken_idle {n : Nat} {b : Block} (h : dueEntry b.host.taken = none) : settleTaken n b = b := by
  cases n with
  | zero => rfl
  | succ n => simp only [settleTaken, h]

section Split
variable {b : Block} {before after : List Taken} {t : Taken} {st : Status} {result : Nat}
  (hb : ∀ x ∈ before, x.poster ≠ t.poster) (hidle : ∀ x ∈ before, x.outcome = none)
include hb

/-- The entries taken before the first of its poster. -/
theorem takeWhile_poster : ((before ++ t :: after).takeWhile fun x => x.poster != t.poster) = before := by
  rw [List.takeWhile_append_of_pos fun x hx => bne_iff_ne.2 (hb x hx), List.takeWhile_cons_of_neg (by simp), List.append_nil]

theorem finishAll_split : finishAll t.poster st result (before ++ t :: after)
    = before ++ t.finish st result :: finishAll t.poster st result after := by
  rw [finishAll, List.map_append, List.map_cons, if_pos rfl]
  exact congrArg (· ++ _) (finishAll_eq_self hb)

include hidle

/-- The first entry of its poster is due where none taken before it names an object of it (R844). -/
theorem dueEntry_free (hfree : before.any t.shares = false) :
    dueEntry (before ++ t.finish st result :: after) = some (t.finish st result) := by
  refine List.find?_eq_some_iff_append.2 ⟨?_, before, after, rfl, fun x hx => by simp [hidle x hx]⟩
  rw [takeWhile_poster (t := t.finish st result) hb, show (t.finish st result).shares = t.shares from rfl, hfree]
  rfl

/-- An entry that one taken before it holds back is not due, and neither is any that has not done its work (R844). -/
theorem dueEntry_held (ha : ∀ x ∈ after, x.outcome = none) (hheld : before.any t.shares = true) :
    dueEntry (before ++ t.finish st result :: after) = none := by
  refine List.find?_eq_none.2 (List.forall_mem_append.2 ⟨fun x hx => by simp [hidle x hx],
    List.forall_mem_cons.2 ⟨?_, fun x hx => by simp [ha x hx]⟩⟩)
  rw [takeWhile_poster (t := t.finish st result) hb, show (t.finish st result).shares = t.shares from rfl, hheld]
  simp

variable (hl : b.host.taken = before ++ t :: after)
include hl

/-- An entry that nothing holds back leaves the entries in work, and its completion is written. -/
theorem complete_free (ht : t.outcome = none) (hfree : before.any t.shares = false) :
    ∃ n rest, (∀ x ∈ rest, x ∈ b.host.taken ∧ x.poster ≠ t.poster) ∧ complete t.poster st result b
      = settleTaken n (writeCompletion (t.finish st result) st result (b.withTaken rest)) := by
  refine ⟨before.length + after.length, (finishAll t.poster st result b.host.taken).filter fun x => x.poster != t.poster,
    fun x hx => mem_finishAll_other hx, ?_⟩
  have hout : (t.finish st result).outcome = some (st, result) := by simp [Taken.finish, ht]
  have hlen : (before ++ t :: after).length = before.length + after.length + 1 := by simp; omega
  rw [complete_eq, hl, finishAll_split hb, hlen, settleTaken]
  simp only [Block.withTaken, dueEntry_free hb hidle hfree, hout]
  rfl

/-- An entry that is held back, and is the only one of its poster, keeps its outcome until its turn; nothing else changes. -/
theorem complete_held (ha : ∀ x ∈ after, x.poster ≠ t.poster ∧ x.outcome = none) (hheld : before.any t.shares = true) :
    complete t.poster st result b = b.withTaken (before ++ t.finish st result :: after) := by
  rw [complete_eq, hl, finishAll_split hb, finishAll_eq_self fun x hx => (ha x hx).1]
  exact settleTaken_idle (dueEntry_held hb hidle (fun x hx => (ha x hx).2) hheld)

end Split

/-! ### What completing a ring's entry writes -/

section WriteBack
variable {b : Block} {f c n : Nat} {st : Status} {result : Nat}

/-- The pages of a host access enter the translation cache, which may take a free value; nothing else changes (R856). -/
theorem atsTouch_eq (f a n : Nat) (b : Block) :
    ∃ ctr ats, atsTouch f a n b = { b with freeCtr := ctr, host := { b.host with ats := ats } } := by
  refine List.foldlRecOn (motive := fun s => ∃ ctr ats, s = { b with freeCtr := ctr, host := { b.host with ats := ats } }) _ _
    ⟨b.freeCtr, b.host.ats, rfl⟩ ?_
  rintro _ ⟨ctr, ats, rfl⟩ i -
  simp only [atsFill]
  split
  · exact ⟨_, _, rfl⟩
  · split <;> exact ⟨_, _, rfl⟩

/-- Host memory that refuses no access takes the bytes. -/
theorem hostPut_eq {a : Nat} {bs : List Byte} (h : b.mem.hostBad = []) : ∃ ctr ats, hostPut f a bs b
    = (.ok (), hostWrite a bs { b with freeCtr := ctr, host := { b.host with ats := ats } }) := by
  obtain ⟨ctr, ats, hats⟩ := atsTouch_eq f a bs.length b
  refine ⟨ctr, ats, ?_⟩
  rw [hostPut, hostStatus, hostFail, h, hats]
  rfl

/-- RESULT and then STATUS stand in an entry at `a` (R842). -/
def wroteBack (a : Nat) (st : Status) (result : Nat) (m : Mem) : Mem :=
  (m.write (a + 0x38) (leBytes 8 result)).write (a + 1) (leBytes 1 st.code)

theorem writeBack_eq (h : b.mem.hostBad = []) : ∃ ctr ats, writeBack f c n st result b =
    { b with freeCtr := ctr, host := { b.host with ats := ats }
             mem := { b.mem with host := wroteBack (ringEntry b f c n) st result b.mem.host } } := by
  obtain ⟨ctr₁, ats₁, hresult⟩ := hostPut_eq (f := f) (a := ringEntry b f c n + 0x38) (bs := leBytes 8 result) h
  obtain ⟨ctr₂, ats₂, hstatus⟩ := hostPut_eq (f := f) (a := ringEntry b f c n + 1) (bs := leBytes 1 st.code)
    (b := hostWrite (ringEntry b f c n + 0x38) (leBytes 8 result) { b with freeCtr := ctr₁, host := { b.host with ats := ats₁ } }) h
  refine ⟨ctr₂, ats₂, ?_⟩
  simp only [writeBack, hresult, hstatus]
  rfl

theorem writeCompletion_ring {t : Taken} (hp : t.poster = .ring f c n) (h : b.mem.hostBad = []) (he : ((b.func f).er c).en = false) :
    ∃ ctr ats, writeCompletion t st result b = { b with
      freeCtr := ctr, host := { b.host with ats := ats }
      mem := { b.mem with host := wroteBack (ringEntry b f c n) st result b.mem.host } } := by
  obtain ⟨ctr, ats, hback⟩ := writeBack_eq (f := f) (c := c) (n := n) (st := st) (result := result) h
  refine ⟨ctr, ats, ?_⟩
  simp only [writeCompletion, hp, hback]
  exact if_pos (by rw [← Bool.not_false, ← he]; rfl)

variable {a : Nat} {m : Mem}

theorem read_wroteBack : (wroteBack a st result m).read (a + 0x38) 8 = leBytes 8 result := by
  have hsame := Mem.read_write_same (leBytes 8 result) m (a + 0x38)
  rw [length_leBytes, Mem.read_eq] at hsame
  rw [← hsame, Mem.read_eq, wroteBack]
  exact List.map_congr_left fun i _ => Mem.byte_write_outside _ _ _ _ (by simp; omega)

theorem byte_wroteBack_status : (wroteBack a st result m).byte (a + 1) = BitVec.ofNat 8 st.code :=
  Mem.byte_write_inside (leBytes 1 st.code) _ (a + 1) 0 (by simp)

theorem byte_wroteBack_other {k : Nat} (h1 : k ≠ a + 1) (h8 : k < a + 0x38 ∨ a + 0x40 ≤ k) :
    (wroteBack a st result m).byte k = m.byte k := by
  rw [wroteBack, Mem.byte_write_outside _ _ _ _ (by simp; omega), Mem.byte_write_outside _ _ _ _ (by simp; omega)]

end WriteBack

/-- A ring's entry that nothing holds back leaves the entries in work, RESULT and STATUS stand in its 64 bytes of host memory,
and of the rest of the block at most the translation cache and the free values change (R842). -/
theorem complete_ring_free {b : Block} {f c n : Nat} {before after : List Taken} {t : Taken} {st : Status} {result : Nat}
    (hl : b.host.taken = before ++ t :: after) (hp : t.poster = .ring f c n) (hb : ∀ x ∈ before, x.poster ≠ t.poster)
    (hidle : ∀ x ∈ b.host.taken, x.outcome = none) (hbad : b.mem.hostBad = []) (her : ((b.func f).er c).en = false)
    (hfree : before.any t.shares = false) : ∃ ctr ats rest, (∀ x ∈ rest, x.poster ≠ .ring f c n) ∧
      complete (.ring f c n) st result b = { b with
        freeCtr := ctr, host := { b.host with taken := rest, ats := ats }
        mem := { b.mem with host := wroteBack (ringEntry b f c n) st result b.mem.host } } := by
  have hinit : ∀ x ∈ before, x.outcome = none := fun x hx => hidle x (by simp [hl, hx])
  obtain ⟨m, rest, hrest, hcomplete⟩ := complete_free (st := st) (result := result) hb hinit hl (hidle t (by simp [hl])) hfree
  obtain ⟨ctr, ats, hwrite⟩ := writeCompletion_ring (b := b.withTaken rest) (t := t.finish st result) (st := st) (result := result)
    hp hbad her
  refine ⟨ctr, ats, rest, fun x hx => hp ▸ (hrest x hx).2, ?_⟩
  rw [← hp, hcomplete, hwrite]
  exact settleTaken_idle (dueEntry_unfinished fun x hx => hidle x (hrest x hx).1)

/-- The completion of a ring's entry where each poster has one entry in work: written back, or kept until its turn (R842, R844). -/
theorem completion_of_distinct_posters {b : Block} {f c n : Nat} {t : Taken} (st : Status) (result : Nat)
    (hdistinct : (b.host.taken.map (·.poster)).Nodup) (ht : b.host.taken.find? (fun x => x.poster == .ring f c n) = some t)
    (hbad : b.mem.hostBad = []) (her : ((b.func f).er c).en = false) (hidle : ∀ x ∈ b.host.taken, x.outcome = none) :
    let b' := complete (.ring f c n) st result b
    let before := b.host.taken.takeWhile fun x => x.poster != t.poster
    let a := ringEntry b f c n
    (before.any t.shares = false →
      (∀ x ∈ b'.host.taken, x.poster ≠ .ring f c n) ∧ b'.mem.host.read (a + 0x38) 8 = leBytes 8 result
      ∧ b'.mem.host.byte (a + 1) = BitVec.ofNat 8 st.code
      ∧ (∀ k, k ≠ a + 1 → (k < a + 0x38 ∨ a + 0x40 ≤ k) → b'.mem.host.byte k = b.mem.host.byte k)
      ∧ b'.mem.t1 = b.mem.t1 ∧ b'.mem.t2 = b.mem.t2 ∧ b'.cores = b.cores ∧ b'.slots = b.slots ∧ b'.contexts = b.contexts)
    ∧ (before.any t.shares = true → (b'.host.taken.map fun x => x.poster) = (b.host.taken.map fun x => x.poster) ∧ b'.mem = b.mem
      ∧ ∀ x ∈ b'.host.taken, x.poster = .ring f c n → x.outcome = some (st, result)) := by
  obtain ⟨hposter, before, after, hl, hfirst⟩ := List.find?_eq_some_iff_append.1 ht
  have hp : t.poster = .ring f c n := beq_iff_eq.1 hposter
  have hb : ∀ x ∈ before, x.poster ≠ t.poster := fun x hx => by simpa [hp] using hfirst x hx
  have ha : ∀ x ∈ after, x.poster ≠ t.poster := by
    rw [hl, List.map_append, List.map_cons] at hdistinct
    obtain ⟨hnot, -⟩ := List.nodup_cons.1 (List.nodup_append.1 hdistinct).2.1
    exact fun x hx heq => hnot (heq ▸ List.mem_map_of_mem hx)
  intro b' taken a
  have hbefore : taken = before := by rw [← takeWhile_poster (t := t) (after := after) hb, ← hl]
  rw [hbefore]
  refine ⟨fun hfree => ?_, fun hheld => ?_⟩
  · obtain ⟨ctr, ats, rest, hrest, hb'⟩ := complete_ring_free (st := st) (result := result) hl hp hb hidle hbad her hfree
    rw [show b' = _ from hb']
    exact ⟨hrest, read_wroteBack, byte_wroteBack_status, fun k => byte_wroteBack_other, rfl, rfl, rfl, rfl, rfl⟩
  · have houtcome : ∀ x ∈ after, x.poster ≠ t.poster ∧ x.outcome = none := fun x hx => ⟨ha x hx, hidle x (by simp [hl, hx])⟩
    have hb' := complete_held (st := st) (result := result) hb (fun x hx => hidle x (by simp [hl, hx])) hl houtcome hheld
    rw [hp] at hb'
    rw [show b' = _ from hb']
    refine ⟨by simp [Block.withTaken, hl, Taken.finish], rfl, fun x hx hxp => ?_⟩
    rcases List.mem_append.1 hx with hx | hx
    · exact absurd (hxp.trans hp.symm) (hb x hx)
    rcases List.mem_cons.1 hx with rfl | hx
    · simp [Taken.finish, hidle t (by simp [hl])]
    · exact absurd (hxp.trans hp.symm) (ha x hx)

/-! ### One poster with two entries in work -/

/-- A ring that is disabled loses its HEAD and keeps its entries in work: enabled again, it numbers the next entry from 0. -/
theorem taken_writeCrCtrl (f c v : Nat) (b : Block) : (writeCrCtrl f c v b).host.taken = b.host.taken := rfl

/-- An entry 0 of a ring of the physical function that destroys a partition. -/
def partDestroyEntry (ring : Nat) (part : U64) : Taken :=
  { poster := .ring 0 ring 0, op := 0x39, tag := 0, args := [part], started := false, outcome := none }

/-- Ring 1 has an entry in work on partition 5; of ring 0 there is one on partition 5 too, and, from after the ring was disabled
and enabled again, one on partition 6. -/
def reusedRing : Block :=
  { Block.reset with host := { HostIf.init with taken := [partDestroyEntry 1 5, partDestroyEntry 0 5, partDestroyEntry 0 6] } }

/-- Completing entry 0 of ring 0 ends both entries: nothing holds back the second, and both go by one poster. -/
theorem taken_complete_reusedRing : (complete (.ring 0 0 0) .ok 0 reusedRing).host.taken = [partDestroyEntry 1 5] := by decide

/-- Refutes O43: the statement does not ask that a poster have one entry in work. Where ring 0 has two entries 0, the completion
of the second, which names no object of an earlier entry, takes the first with it, which has to wait (R844).
`completion_of_distinct_posters` is what holds. -/
theorem not_completionWritesTheEntryBack : ¬ Obligations.CompletionWritesTheEntryBack := by
  intro h
  obtain ⟨-, held⟩ := h reusedRing 0 0 0 (partDestroyEntry 0 5) .ok 0 (by decide) rfl rfl rfl (by decide)
  obtain ⟨posters, -⟩ := held (by decide)
  rw [taken_complete_reusedRing] at posters
  exact absurd posters (by decide)

end Sys2Proof.Machine
end

section
/-! PROOFS. The operations of the adapter directory where they complete with OK (R628–R639, R652–R658): the operands meet what
each asks of its entry, so it takes its effect. -/

namespace Sys2Proof.Machine

section Directory
variable {b b₁ b₂ : Block} {p : Poster} {t : Taken} {e : DirEntry} {i : Nat}

/-- An operation on an entry that the directory has goes on with it. -/
theorem onEntry_of {f : DirEntry → Block} (he : b.dirEntry (t.arg 0) = some e) : onEntry t b f = f e := by
  rw [onEntry, he]

/-! ### AD_REGISTER -/

/-- The version slot of a version that is known by its host record alone (R631). -/
def recordSlot (t : Taken) (r : HostRecord) : VSlot :=
  { VSlot.init with version := hdrVersion r.header, st := 1, hostRec := true, hostAddr := t.arg 0, pages := hdrPages r.header + 1 }

/-- The entry of a new adapter, READY in its first version slot. -/
def newEntry (t : Taken) (r : HostRecord) (baseSlot : Nat) : DirEntry :=
  { id := BitVec.ofNat 64 (hdrId r.header), slot := t.arg 1 % 4096, st := 1, baseSlot := baseSlot, cur := false, static := false
    trainable := false, lastUse := 0, vs0 := recordSlot t r, vs1 := .init, grace := [], revoker := none }

/-- A directory index that no entry has. -/
def indexFree (b : Block) (i : Nat) : Bool := !(b.adapters.dir.map (·.1)).contains i && decide (i < 16777216)

theorem does_adRegister_new {r : HostRecord} {bs : Nat} (h : opReady b p 0x01 t)
    (hread : readRecordAt (posterFn b p) (t.arg 0) (t.arg 1 % 4096) b = (.ok r, b₁))
    (hbase : bindBase b₁ (hdrDigest r.header) = some bs)
    (hnew : findAdapter b₁ (t.arg 1 % 4096) (BitVec.ofNat 64 (hdrId r.header)) = none)
    (hi : b₁.choice (indexFree b₁) ((List.range ((b₁.adapters.dir.map (·.1)).length + 1)).find? (indexFree b₁)) = some i) :
    Does (.adRegister p) b (complete p .ok i ((b₁.spent 1).modAd fun a => { a with dir := SMap.set i (newEntry t r bs) a.dir })) := by
  refine does_runOp (exec_adRegister p) h ?_
  unfold indexFree at hi
  simp only [adRegister, h.names, hread, hbase, hnew, hi]
  rfl

theorem does_adRegister_again {r : HostRecord} (h : opReady b p 0x01 t)
    (hread : readRecordAt (posterFn b p) (t.arg 0) (t.arg 1 % 4096) b = (.ok r, b₁))
    (hbase : bindBase b₁ (hdrDigest r.header) = some e.baseSlot)
    (hold : findAdapter b₁ (t.arg 1 % 4096) (BitVec.ofNat 64 (hdrId r.header)) = some (i, e)) (hbar : entryBar e = none)
    (hpins : (e.vs (!e.cur)).pins = 0) (hver : (e.vs e.cur).version < hdrVersion r.header) :
    Does (.adRegister p) b (complete p .ok i (flipTo i (recordSlot t r) b₁)) := by
  refine does_runOp (exec_adRegister p) h ?_
  simp [adRegister, republish, h.names, hread, hbase, hold, hbar, hpins, Nat.not_le.2 hver, recordSlot]

/-! ### Operations on an entry -/

section Entry
variable (he : b.dirEntry (t.arg 0) = some e)
include he

theorem does_adPublish {ctx n : Nat} {pages : List (Nat × Leaf)} (h : opReady b p 0x02 t) (hbar : entryBar e = none)
    (hpins : (e.vs (!e.cur)).pins = 0) (hp : p = .service ctx n)
    (hpages : publishPages b ctx (t.arg 2) ((e.vs e.cur).pages - 1) e.slot = some pages)
    (hver : (e.vs e.cur).version < t.arg 1 % 2 ^ 32) : Does (.adPublish p) b (publish t ctx (t.arg 0) e pages b) := by
  refine does_runOp (exec_adPublish p) h ?_
  rw [adPublish, onEntry_of he]
  simp only [hbar, h.names, hp, hpages, if_pos hver]
  exact if_neg (not_not_intro hpins)

theorem does_adRevoke (h : opReady b p 0x03 t) (hrevoking : e.st ≠ stRevoking) (hrevoked : e.st ≠ stRevoked) :
    Does (.adRevoke p) b (settleService (startRevoke (t.arg 0) (some p) (markStarted p b))) := by
  refine does_runOp (exec_adRevoke p) h ?_
  rw [adRevoke, onEntry_of he, if_neg (by simp [hrevoking, hrevoked]), h.names]

theorem does_adRemove (h : opReady b p 0x04 t) (h0 : e.vs0.pins = 0) (h1 : e.vs1.pins = 0) :
    Does (.adRemove p) b (settleService (complete p .ok 0 (completeFor e.revoker .ok 0
      ((eraseImage e.vs1 (eraseImage e.vs0 b)).modAd fun a => { a with dir := SMap.del (t.arg 0) a.dir })))) := by
  refine does_runOp (exec_adRemove p) h ?_
  rw [adRemove, onEntry_of he, if_neg (by simp [h0, h1]), h.names]

/-- To T1 in directory mode, where the image comes there. -/
theorem does_adLoad_t1 (h : opReady b p 0x05 t) (hmode : b.adapters.mode = true) (hbar : entryBar e = none) (ht : t.arg 1 % 4 = 1)
    (hb : bringT1 (posterFn b p) (t.arg 0) e.cur b = .ok b₁) : Does (.adLoad p) b (complete p .ok 1 b₁) := by
  refine does_runOp (exec_adLoad p) h ?_
  rw [adLoad, onEntry_of he]
  simp [hbar, ht, hmode, h.names, hb]

theorem does_adLoad_t2 (h : opReady b p 0x05 t) (hmode : b.adapters.mode = true) (hbar : entryBar e = none) (ht : t.arg 1 % 4 = 2) :
    Does (.adLoad p) b (loadT2 t e b) := by
  refine does_runOp (exec_adLoad p) h ?_
  rw [adLoad, onEntry_of he]
  simp [hbar, ht, hmode]

theorem does_adLoad_static (h : opReady b p 0x05 t) (hmode : b.adapters.mode = false) (hbar : entryBar e = none)
    (ht : t.arg 1 % 4 = 1) : Does (.adLoad p) b (loadStatic t e b) := by
  refine does_runOp (exec_adLoad p) h ?_
  rw [adLoad, onEntry_of he]
  simp [hbar, ht, hmode]

theorem does_adExport {second : Bool} {hd : List Byte} {pages : List (Nat × List Byte)} {n : Nat} (h : opReady b p 0x06 t)
    (hs : second = bitOf (t.arg 1) 0) (hv : versionPages (posterFn b p) e (e.vs second) b = (.ok (hd, pages), b₁))
    (hw : writeRecordAt (posterFn b p) (t.arg 2) e.slot hd pages b₁ = (.ok n, b₂)) :
    Does (.adExport p) b (complete p .ok n (b₂.modEntry (t.arg 0) fun e =>
      e.setVs second { e.vs second with hostRec := true, hostAddr := t.arg 2 })) := by
  refine does_runOp (exec_adExport p) h ?_
  rw [adExport, onEntry_of he]
  simp only [h.names, ← hs, hv, hw]

end Entry

/-! ### AD_QUERY and AD_MODE -/

theorem does_adQuery_ring {g c n : Nat} (h : opReady b p 0x07 t) (hp : p = .ring g c n)
    (hput : hostPut g (t.arg 1) (queryRecord b (t.arg 0)) b = (.ok (), b₁)) : Does (.adQuery p) b (complete p .ok 0 b₁) := by
  refine does_runOp (exec_adQuery p) h ?_
  simp only [adQuery, h.names, hp, hput]

theorem does_adQuery_service {ctx n : Nat} (h : opReady b p 0x07 t) (hp : p = .service ctx n) (hbar : queryBar b ctx (t.arg 1) = none) :
    Does (.adQuery p) b (complete p .ok 0 (fwWrite ctx (t.arg 1) (queryRecord b (t.arg 0)) b)) := by
  refine does_runOp (exec_adQuery p) h ?_
  simp only [adQuery, h.names, hp, hbar]

theorem does_adMode_directory (h : opReady b p 0x08 t) (hm : t.arg 0 % 2 = 1) :
    Does (.adMode p) b (complete p .ok (b2n b.adapters.mode) (settleService (toDirectory b))) := by
  refine does_runOp (exec_adMode p) h ?_
  simp [adMode, bitOf_zero, hm, h.names]

theorem does_adMode_static (h : opReady b p 0x08 t) (hm : t.arg 0 % 2 = 0)
    (hpins : ∀ e ∈ b.adapters.dir, e.2.vs0.pins = 0 ∧ e.2.vs1.pins = 0) :
    Does (.adMode p) b (complete p .ok (b2n b.adapters.mode) (toStatic b)) := by
  refine does_runOp (exec_adMode p) h ?_
  have unpinned : (b.adapters.dir.any fun e => e.2.vs0.pins != 0 || e.2.vs1.pins != 0) = false :=
    List.any_eq_false.2 fun e he => by simp [hpins e he]
  simp only [adMode, bitOf_zero, hm, unpinned, h.names]
  rfl

end Directory

/-- Settles O45, operation by operation: the entry and the operands meet what each operation asks, so it takes its effect. -/
theorem directoryOperations : Obligations.DirectoryOperations := by
  intro b p t f
  exact ⟨fun h _ _ _ _ => does_adRegister_new h, fun h _ _ _ _ => does_adRegister_again h,
    fun e he => ⟨fun h hbar hpins _ _ _ => does_adPublish he h hbar hpins, does_adRevoke he, does_adRemove he,
      fun h hmode hbar ht _ => does_adLoad_t1 he h hmode hbar ht, does_adLoad_t2 he, does_adLoad_static he,
      fun h _ _ _ _ _ => does_adExport he h rfl⟩,
    fun h _ _ _ _ => does_adQuery_ring h, fun h _ _ => does_adQuery_service h,
    fun h => ⟨does_adMode_directory h, does_adMode_static h⟩⟩

end Sys2Proof.Machine
end

section
/-! PROOFS. Requests, base slots and reservoirs where their operations complete with OK (R640–R673, R1015), and what erasing an
image leaves of the directory: the end of a revocation finds its entry there. -/

namespace Sys2Proof.Machine

/-! ### What lands in memory leaves the adapter service alone -/

@[simp] theorem postFirmware_adapters (f : Nat) (st : Status) (ctx : Nat) (detail : List Byte) (b : Block) :
    (postFirmware f st ctx detail b).adapters = b.adapters :=
  (congrArg (·.adapters) (unposted_postFirmware f st ctx detail b) :)

@[simp] theorem corrT1_adapters (pa : Nat) (patrol : Bool) (b : Block) : (corrT1 pa patrol b).adapters = b.adapters :=
  postFirmware_adapters ..

@[simp] theorem t1Met_adapters (pa n : Nat) (b : Block) : (t1Met pa n b).adapters = b.adapters :=
  foldl_keeps Block.adapters _ (fun _ _ => by split <;> simp) _ _

@[simp] theorem t1Correct_adapters (a : Nat) (b : Block) : (t1Correct a b).adapters = b.adapters := t1Met_adapters ..

@[simp] theorem t1Write_adapters (pa : Nat) (bs : List Byte) (b : Block) : (t1Write pa bs b).adapters = b.adapters := by
  unfold t1Write
  split
  · rfl
  · exact foldl_keeps Block.adapters _ (fun _ _ => t1Correct_adapters ..) _ _

@[simp] theorem landed_adapters (slot : Nat) (prev : Bool) (b : Block) : (landed slot prev b).adapters = b.adapters := by
  unfold landed; split <;> rfl

@[simp] theorem landRange_adapters (pa n : Nat) (b : Block) : (landRange pa n b).adapters = b.adapters :=
  foldl_keeps Block.adapters _ (fun _ _ => by simp [landStore]) _ _

/-! ### An image that is erased -/

@[simp] theorem t1Zero_adapters (pa n : Nat) (b : Block) : (t1Zero pa n b).adapters = b.adapters := rfl
@[simp] theorem putLeaf_adapters (x : Leaf) (l : U64) (b : Block) : (putLeaf x l b).adapters = b.adapters := t1Write_adapters ..

@[simp] theorem releaseHome_adapters (x : Leaf) (b : Block) : (releaseHome x b).adapters = b.adapters := by
  unfold releaseHome
  split
  · exact landRange_adapters ..
  · rfl
  · rfl

@[simp] theorem dropPage_adapters (ctx va : Nat) (b : Block) : (dropPage ctx va b).adapters = b.adapters := by
  unfold dropPage; split <;> rfl

@[simp] theorem forgetOld_adapters (l : U64) (b : Block) : (forgetOld l b).adapters = b.adapters := by
  simp only [forgetOld]; split <;> rfl

@[simp] theorem unmapPage_adapters (ctx va : Nat) (b : Block) : (unmapPage ctx va b).adapters = b.adapters := by
  unfold unmapPage; split <;> simp

@[simp] theorem erasePage_adapters (ctx va : Nat) (b : Block) : (erasePage ctx va b).adapters = b.adapters := by
  unfold erasePage
  split
  · rfl
  · rw [unmapPage_adapters]
    split <;> simp

@[simp] theorem eraseImage_adapters (v : VSlot) (b : Block) : (eraseImage v b).adapters = b.adapters :=
  foldl_keeps Block.adapters _ (fun _ _ => erasePage_adapters ..) _ _

@[simp] theorem dirEntry_eraseImage (v : VSlot) (i : Nat) (b : Block) : (eraseImage v b).dirEntry i = b.dirEntry i := by
  simp [Block.dirEntry]

/-- What is made of an entry of the directory reads back. -/
theorem dirEntry_modEntry_same {b : Block} {i : Nat} {e : DirEntry} (f : DirEntry → DirEntry) (he : b.dirEntry i = some e) :
    (b.modEntry i f).dirEntry i = some (f e) := by
  rw [Block.modEntry, he]
  exact SMap.find_set_same ..

/-- The last step of a revocation leaves its entry REVOKED with both version slots empty (R652, step 6). -/
theorem dirEntry_finishRevoke {b : Block} {i : Nat} {e : DirEntry} (he : b.dirEntry i = some e) (hr : e.revoker = none) :
    (finishRevoke i b).dirEntry i = some { e with st := stRevoked, vs0 := .init, vs1 := .init, grace := [], revoker := none } := by
  simp only [finishRevoke, he, hr, completeFor]
  exact dirEntry_modEntry_same _ (by simp [he])

section Operations
variable {b b₁ b₃ : Block} {p : Poster} {t : Taken}

/-! ### Requests -/

/-- The context is there and the capture pages are in range, so RQ_ADMIT is held up by neither (R640). -/
theorem admitForm (hc : (b.context (admitCtx t)).isSome = true) (hn : t.arg 1 / 2 ^ 48 ≤ 4096) :
    ¬ ((b.context (requestOf t).ctx).isNone || decide (4096 < bitsOf (t.arg 1) 48 16)) = true := by
  obtain ⟨c, hc⟩ := Option.isSome_iff_exists.1 hc
  have hpages : bitsOf (t.arg 1) 48 16 ≤ 4096 := by rw [bitsOf_eq]; omega
  simp [requestOf, hc, hpages]

theorem does_rqAdmit_done {r : Request} (h : opReady b p 0x10 t) (hc : (b.context (admitCtx t)).isSome = true)
    (hn : t.arg 1 / 2 ^ 48 ≤ 4096) (ha : admitRequest (requestOf t) true b = .done r b₁) :
    Does (.rqAdmit p) b (complete p .ok r.version b₁) := by
  refine does_runOp (exec_rqAdmit p) h ?_
  rw [rqAdmit, if_neg (admitForm hc hn)]
  simp only [ha, h.names]

theorem does_rqAdmit_waits (h : opReady b p 0x10 t) (hc : (b.context (admitCtx t)).isSome = true) (hn : t.arg 1 / 2 ^ 48 ≤ 4096)
    (ha : admitRequest (requestOf t) true b = .waits) : Does (.rqAdmit p) b (writeRequest (requestOf t) 0 (markStarted p
      (b.modAd fun a => { a with admitWaits := a.admitWaits + 1, reqs := a.reqs ++ [requestOf t] }))) := by
  refine does_runOp (exec_rqAdmit p) h ?_
  rw [rqAdmit, if_neg (admitForm hc hn)]
  simp only [ha, h.names]

theorem does_rqEnd {r : Request} (h : opReady b p 0x11 t)
    (hr : b.adapters.reqs.find? (fun r => r.ctx == t.arg 0 % 65536 && r.idx == bitsOf (t.arg 0) 32 16) = some r) :
    Does (.rqEnd p) b (complete p .ok 0 (settleService (if r.st = 1 then endWaiting r .ok b else endFound r (orBoundary r 32 b)))) := by
  refine does_runOp (exec_rqEnd p) h ?_
  simp only [rqEnd, hr, h.names]

theorem does_boundaryPoll : Does .boundaryPoll b (boundaryPoll b) := does_of exec_boundaryPoll rfl

theorem does_revokeGraceExpiry {i : Nat} (hi : i < 16777216) :
    Does (.revokeGraceExpiry i) b (settleService (expireGrace true i b)) :=
  does_within (exec_revokeGraceExpiry i) (decide_eq_true hi) rfl

/-- The grace period of an entry that is still REVOKING ends: its images cannot be read, and every request of it ends
(R652, steps 4 and 5). -/
theorem expireGrace_revoking {i : Nat} {e : DirEntry} (he : b.dirEntry i = some e) (hst : e.st = stRevoking)
    (hb : (e.vs0.addrs ++ e.vs1.addrs).foldl (fun b va => changeLeaf 0xFFFF va (fun l => setBits l 4 1 0) b) b = b₁) (wipe : Bool) :
    expireGrace wipe i b =
      finishRevoke i ((b₁.activeReqs.filter fun r => r.entry == some i).foldl (fun b r => endRevoked wipe r b) b₁) := by
  simp only [expireGrace, he, hst, hb, ne_eq, not_true_eq_false, if_false]

/-! ### Base slots -/

theorem does_baseLoad {slot k : Nat} {bytes : List Byte} {set : Option U128} (h : opReady b p 0x18 t)
    (hslot : [0, 1].find? (fun n => decide ((b.baseSlot n).st = 0)) = some slot) (hn : t.arg 1 ≤ 2 ^ 41)
    (himage : baseImage (posterFn b p) (t.arg 0) (t.arg 1) b = (.ok (bytes, set), b₁)) (hk : freeSlot b₁ = some k)
    (hpages : createPages 0xFFFF true false false false k (cutPages (ceilDiv bytes.length 65536) (baseVa slot) bytes)
      (ensureWindows ((installSecret k (Config.drbg b₁.attest.drbgCtr) ((drawSecret b₁).2.spent 1)).modSlot k fun x =>
        { x with set := set })) = some b₃) :
    Does (.baseLoad p) b (complete p .ok slot (b₃.modBase slot fun _ =>
      { st := 2, digest := sha384 bytes, keySlot := k, pages := ceilDiv bytes.length 65536 })) := by
  refine does_runOp (exec_baseLoad p) h ?_
  rw [drawSecret] at hpages
  simp only [baseLoad, hslot, if_neg (Nat.not_lt.2 hn), h.names, himage, hk, drawSecret, hpages]

theorem does_baseSwitch {slot : Nat} (h : opReady b p 0x19 t)
    (hslot : [0, 1].find? (fun n => decide ((b.baseSlot n).st = 2)) = some slot) :
    Does (.baseSwitch p) b (complete p .ok slot ((b.modAd fun a =>
      { a with bases := a.bases.map fun x => if x.st = 3 then { x with st := 4 } else x }).modBase slot fun x => { x with st := 3 })) := by
  refine does_runOp (exec_baseSwitch p) h ?_
  simp only [baseSwitch, hslot, h.names]

/-- A READY entry of a base slot. -/
def boundTo (slot : Nat) (e : DirEntry) : Bool := e.baseSlot == slot && e.st == 1

/-- The admissions that wait for an adapter of a base slot. -/
def waitingFor (slot : Nat) (b : Block) : List Request :=
  b.waitingReqs.filter fun r => match findAdapter b r.keySlot r.adapter with
    | some (_, e) => boundTo slot e
    | none => false

/-- The base slot's READY entries are STRANDED. -/
def strandBound (slot : Nat) (b : Block) : Block :=
  b.modAd fun a => { a with dir := a.dir.map fun p => (p.1, if boundTo slot p.2 then { p.2 with st := 4 } else p.2) }

theorem does_baseRetire (h : opReady b p 0x1A t) (hslot : t.arg 0 < 2)
    (hst : (b.baseSlot (t.arg 0)).st = 2 ∨ (b.baseSlot (t.arg 0)).st = 4)
    (hb : b.modBase (t.arg 0) (fun x => { x with st := 5 }) = b₁) :
    Does (.baseRetire p) b (complete p .ok 0 (settleService (settleBase (t.arg 0)
      ((waitingFor (t.arg 0) b₁).foldl (fun b r => endWaiting r .baseMismatch b) (strandBound (t.arg 0) b₁))))) := by
  refine does_runOp (exec_baseRetire p) h ?_
  have hretire : ¬ ((b.baseSlot (t.arg 0)).st ≠ 2 && (b.baseSlot (t.arg 0)).st ≠ 4) = true := by
    rcases hst with hst | hst <;> simp [hst]
  simp only [baseRetire, if_neg (Nat.not_le.2 hslot), if_neg hretire, h.names, hb]
  rfl

/-! ### Reservoirs -/

theorem does_resCreate (h : opReady b p 0x20 t) (h1 : 1 ≤ t.arg 1) (h2 : t.arg 1 ≤ 1048576) (hr : b.reservoir (t.arg 0 % 4096) = none) :
    Does (.resCreate p) b (complete p .ok 0 (b.modAd fun a => { a with reservoirs := a.reservoirs ++
      [({ keySlot := t.arg 0 % 4096, fullPolicy := bitOf (t.arg 0) 12, limit := t.arg 1, serial := 0, pages := [] } : Reservoir)] })) := by
  refine does_runOp (exec_resCreate p) h ?_
  have hlimit : ¬ (t.arg 1 = 0 ∨ 1048576 < t.arg 1) := by omega
  simp [resCreate, hlimit, hr, h.names]

theorem does_resAppend {ctx k : Nat} {g : Leaf × List Byte} {pages : List (Leaf × List Byte)} {r : Reservoir}
    (h : opReady b p 0x21 t) (hp : p = .service ctx k) (halign : t.arg 0 % 65536 = 0) (hend : t.arg 0 + 65536 * t.arg 1 < 2 ^ 48)
    (hn : t.arg 1 ≠ 0) (hpages : capturePages ctx (t.arg 0) (t.arg 1) b = (.ok (g :: pages), b₁))
    (hr : b₁.reservoir (leafSlot g.1.l) = some r) : Does (.resAppend p) b (appendTo t ctx (t.arg 0) (g :: pages) r b₁) := by
  refine does_runOp (exec_resAppend p) h ?_
  simp only [resAppend, h.names, hp, hpages, hr]
  exact if_neg (by simp [halign, hn]; omega)

theorem does_resTake {ctx k n : Nat} {r : Reservoir} (h : opReady b p 0x22 t) (hp : p = .service ctx k)
    (hr : reservoirOf b ctx = some r) (hn : n = min (t.arg 1) r.pages.length) (h0 : n ≠ 0) (hspace : takeSpace b ctx (t.arg 0) n = true)
    (hpages : createPages ctx true true false false r.keySlot
      ((pageRun (t.arg 0) n).zip ((r.pages.take n).map fun p => Mem.read p.2 0 65536))
      (b.setReservoir { r with pages := r.pages.drop n }) = some b₁) : Does (.resTake p) b (complete p .ok n b₁) := by
  refine does_runOp (exec_resTake p) h ?_
  simp only [resTake, h.names, hp, hr, ← hn, if_neg h0, hspace, hpages]
  rfl

theorem does_resClear {r : Reservoir} (h : opReady b p 0x23 t) (hr : b.reservoir (t.arg 0 % 4096) = some r) :
    Does (.resClear p) b (complete p .ok r.pages.length (b.setReservoir { r with pages := [] })) := by
  refine does_runOp (exec_resClear p) h ?_
  simp only [resClear, hr, h.names]

end Operations

/-- Settles O46: each operation on a request takes its effect, and erasing the images of a revoked entry leaves it in the
directory for the last step to mark. -/
theorem requestsBeginAndEnd : Obligations.RequestsBeginAndEnd := by
  intro b p t
  refine ⟨fun h hc hn => ⟨fun r b₁ => does_rqAdmit_done h hc hn, does_rqAdmit_waits h hc hn⟩, fun h r => does_rqEnd h,
    does_boundaryPoll, fun i e hi he hst => ?grace, fun i e b₁ hb he hr => ?finish⟩
  case grace =>
    intro unread
    rw [← expireGrace_revoking he hst rfl]
    exact does_revokeGraceExpiry hi
  case finish => exact ⟨_, hb ▸ dirEntry_finishRevoke he hr, rfl, rfl, rfl⟩

/-- Settles O47, operation by operation. -/
theorem basesAndReservoirs : Obligations.BasesAndReservoirs := by
  intro b p t f
  exact ⟨fun h _ _ _ _ _ _ => does_baseLoad h, fun h _ => does_baseSwitch h, fun h hslot hst => does_baseRetire h hslot hst rfl,
    does_resCreate, fun h _ _ _ _ _ _ => does_resAppend h, fun h _ _ _ _ hp hr => does_resTake h hp hr rfl, fun h _ => does_resClear h⟩

end Sys2Proof.Machine
end

section
/-! PROOFS. Streams and the records they carry (R746, R785, R787, R886–R895, R923): a write of a stream's configuration, a peer
out of reach, and a record that passes its check-value unit, or does not. -/

namespace Sys2Proof.Machine

section Streams

variable {b b₁ : Block} {src vs : Nat} {r : RxRecord}

/-! ### A write of a stream's configuration -/

theorem bitOf_toNat_zero (w : U64) : bitOf w.toNat 0 = w.getLsbD 0 := by rw [bitOf_eq_testBit]; rfl

@[simp] theorem vsCfg_writeVsCfg_same (v w : Nat) (b : Block) : (writeVsCfg v w b).vsCfg v = vsCfgOf w := SMap.get_put_same ..

theorem vsCfg_writeVsCfg_other {n v : Nat} (w : Nat) (b : Block) (h : n ≠ v) : (writeVsCfg v w b).vsCfg n = b.vsCfg n := by
  refine (SMap.get_put_other _ _ _ _ _ h).trans ?_
  split <;> rfl

/-- Setting EN starts the stream's counters and credits again. -/
theorem kreash_writeVsCfg_enables {v w : Nat} (hen : (b.vsCfg v).en = false) (hw : (vsCfgOf w).en = true) : (writeVsCfg v w b).kreash =
    { resetStream v b.kreash with vs := SMap.put VsCfg.init v (vsCfgOf w) b.kreash.vs } := by
  simp [writeVsCfg, Block.modKreash, hen, hw, resetStream]

theorem kreash_writeVsCfg_keeps {v w : Nat} (h : (b.vsCfg v).en = true ∨ (vsCfgOf w).en = false) : (writeVsCfg v w b).kreash =
    { b.kreash with vs := SMap.put VsCfg.init v (vsCfgOf w) b.kreash.vs } := by
  rcases h with h | h <;> simp [writeVsCfg, Block.modKreash, h]

theorem endKey_mod {v : Nat} (m : Nat) (h : v < 1024) : endKey m v % 1024 = v := by simp only [endKey]; omega

/-- A stream that starts again has no end with a count, and no record of it waits to be sent, checked or taken. -/
theorem resetStream_ends {v : Nat} (m : Nat) (k : Kreash) (h : v < 1024) :
    SMap.get RxStream.init (endKey m v) (resetStream v k).rx = .init ∧ SMap.get TxStream.init (endKey m v) (resetStream v k).tx = .init :=
  ⟨SMap.get_filter_dropped fun _ => by simp [endKey_mod m h], SMap.get_filter_dropped fun _ => by simp [endKey_mod m h]⟩

theorem resetStream_empties (v : Nat) (k : Kreash) :
    (∀ r ∈ (resetStream v k).buffers ++ (resetStream v k).assembled, r.vs ≠ v) ∧ ∀ r ∈ (resetStream v k).outbox, r.vs ≠ v := by
  simp only [resetStream, ← List.filter_append, List.mem_filter, bne_iff_ne]
  exact ⟨fun r hr => hr.2, fun r hr => hr.2⟩

theorem does_streamEnable (h : vs < 1024) (w : U64) : Does (.streamEnable vs w) b (writeVsCfg vs w.toNat b) :=
  does_within (exec_streamEnable vs w) (decide_eq_true h) rfl

/-! ### Context streams -/

section Context

variable (h32 : 32 ≤ vs) (hvs : vs < 1024)
include h32 hvs

theorem does_linkReturnTimeout_out (hen : (b.vsCfg vs).en = true) (hl : routeLink b (b.vsCfg vs).peer.toNat = none) :
    Does (.linkReturnTimeout vs) b (b.modKreash fun k => { k with vs := SMap.put VsCfg.init vs { b.vsCfg vs with en := false } k.vs }) :=
  does_within (exec_linkReturnTimeout vs) (by simp [h32, hvs]) (by simp [hen, hl])

theorem does_linkReturnTimeout_back (h : (b.vsCfg vs).en = false ∨ routeLink b (b.vsCfg vs).peer.toNat ≠ none) :
    Does (.linkReturnTimeout vs) b b :=
  does_within (exec_linkReturnTimeout vs) (by simp [h32, hvs]) (by rcases h with h | h <;> simp [h])

theorem does_streamRecordRx_none (hr : firstAssembled b src vs = none) : Does (.streamRecordRx src vs) b b :=
  does_within (exec_streamRecordRx src vs) (by simp [h32, hvs]) (by rw [hr])

section Record

variable (hr : firstAssembled b src vs = some r)
include hr

theorem does_streamRecordRx_full
    (hfull : (b.vsCfg vs).rxDepth.toNat < (b.kreash.buffers.filter fun x => x.src == src && x.vs == vs).length) :
    Does (.streamRecordRx src vs) b b :=
  does_within (exec_streamRecordRx src vs) (by simp [h32, hvs]) (by simp only [hr, Nat.succ_le_of_lt hfull, if_true])

variable (hroom : (b.kreash.buffers.filter fun x => x.src == src && x.vs == vs).length ≤ (b.vsCfg vs).rxDepth.toNat)
include hroom

theorem does_streamRecordRx_passes {body : List Byte} (hc : cvCheck r b = (some body, b₁)) :
    Does (.streamRecordRx src vs) b (acceptContext r b body b₁) :=
  does_within (exec_streamRecordRx src vs) (by simp [h32, hvs])
    (by simp only [hr, if_neg (Nat.not_le.2 (Nat.lt_succ_of_le hroom)), hc])

theorem does_streamRecordRx_drops (hc : cvCheck r b = (none, b₁)) : Does (.streamRecordRx src vs) b b₁ :=
  does_within (exec_streamRecordRx src vs) (by simp [h32, hvs])
    (by simp only [hr, if_neg (Nat.not_le.2 (Nat.lt_succ_of_le hroom)), hc])

end Record

end Context

/-! ### Weir notices -/

theorem does_weirNoticeRx_notice {bs : List Byte} (hs : src < 4096)
    (ht : takeManagement src [0x48#8, 0x57#8, 0x52#8, 0x4E#8] b = (some bs, b₁)) : Does (.weirNoticeRx src) b
      (postNotice { b₁ with lock := { b₁.lock with notices := b₁.lock.notices + 1 } }) :=
  does_within (exec_weirNoticeRx src) (decide_eq_true hs) (by simp only [ht])

theorem does_weirNoticeRx_none (hs : src < 4096) (ht : takeManagement src [0x48#8, 0x57#8, 0x52#8, 0x4E#8] b = (none, b₁)) :
    Does (.weirNoticeRx src) b b₁ :=
  does_within (exec_weirNoticeRx src) (decide_eq_true hs) (by simp only [ht])

/-! ### Reduction records -/

theorem does_rdRecordRx (h16 : 16 ≤ vs) (h32 : vs < 32) (hs : src < 4096) (h : rdRecord src vs b = b₁) : Does (.rdRecordRx src vs) b b₁ :=
  does_within (exec_rdRecordRx src vs) (by simp [h16, h32, hs]) h

theorem rdRecord_none (hr : firstAssembled b src vs = none) : rdRecord src vs b = b := by rw [rdRecord, hr]

theorem rdRecord_drops (hr : firstAssembled b src vs = some r) (hc : cvCheck r b = (none, b₁)) : rdRecord src vs b = b₁ := by
  simp only [rdRecord, hr, hc]

/-- A record that passes its check-value unit and its key slot reaches its engine below weir level 3, and its credit returns. -/
theorem rdRecord_taken {body bs ct iv tag : List Byte} {epoch : Nat} {b₂ : Block} (hr : firstAssembled b src vs = some r)
    (hc : cvCheck r b = (some body, b₁)) (ho : openBytes body = (ct, iv, tag, epoch))
    (hopen : openUnder (b.vsCfg vs).keySlot.toNat epoch iv [] ct tag b₁ = .ok bs) (hl : b.lock.level < 3)
    (ht : takeRd (vs - 16) src r.link bs b₁ = some b₂) : rdRecord src vs b = returnCredits src vs 1 b₂ := by
  simp only [rdRecord, hr, hc, ho, hopen, if_neg (Nat.not_le.2 hl), ht]

end Streams

/-- Settles O56, row by row. -/
theorem recordsReachTheirPlaces : Obligations.RecordsReachTheirPlaces := by
  intro b src vs hvs cfg
  refine ⟨fun w => ⟨writeVsCfg vs w.toNat b, does_streamEnable hvs w, vsCfg_writeVsCfg_same .., fun n => vsCfg_writeVsCfg_other _ b,
      ?enables, ?keeps⟩,
    fun h32 => ⟨does_linkReturnTimeout_out h32 hvs, does_linkReturnTimeout_back h32 hvs, does_streamRecordRx_none h32 hvs,
      fun r hr => ⟨does_streamRecordRx_full h32 hvs hr, fun hroom => ⟨fun body b₁ => does_streamRecordRx_passes h32 hvs hr hroom,
        fun b₁ => does_streamRecordRx_drops h32 hvs hr hroom⟩⟩⟩,
    fun hs => ⟨fun bs b₁ => does_weirNoticeRx_notice hs, fun b₁ => does_weirNoticeRx_none hs⟩,
    fun h16 h32 hs => ⟨fun hr => does_rdRecordRx h16 h32 hs (rdRecord_none hr), fun r hr =>
      ⟨fun b₁ hc => does_rdRecordRx h16 h32 hs (rdRecord_drops hr hc), fun body b₁ bs b₂ hc hopen hl ht =>
        does_rdRecordRx h16 h32 hs (rdRecord_taken hr hc rfl hopen hl ht)⟩⟩⟩
  case enables =>
    intro hen hw
    simp only [Block.rxStream, Block.txStream, kreash_writeVsCfg_enables hen ((bitOf_toNat_zero w).trans hw)]
    exact ⟨fun m _ => resetStream_ends m b.kreash hvs, resetStream_empties vs b.kreash⟩
  case keeps =>
    intro h
    rw [kreash_writeVsCfg_keeps (h.imp_right (bitOf_toNat_zero w).trans)]
    exact ⟨rfl, rfl⟩

end Sys2Proof.Machine
end

section
/-! PROOFS. Reduction groups whose records come late (R742, R743, R753, R768, R784): the time limit of a sum and of a close, a
higher epoch, and the verdict record that a stream chamber holds back (R427). -/

namespace Sys2Proof.Machine

/-! ### The time limit of a sum (R753) -/

/-- The sums of a group from `seq` on that have not ended. -/
def RdGroup.lateSums (x : RdGroup) (seq : Nat) : List RdSum :=
  x.sums.filter fun y => decide (seq ≤ y.seq) && y.status.isNone && !y.finished

section Sums

variable {b : Block} {g seq : Nat}

theorem does_rdTimeout_missing (hg : g < 16) (hs : (b.group g).sealed = true)
    (h : ∃ y ∈ (b.group g).lateSums seq, y.seq = seq ∧ sumLacks b g y = true) : Does (.rdTimeout g seq) b
      (((b.group g).lateSums seq).foldl (fun b y => endNow y.q y.cmdId .repeatStep (repeatSum g y b)) b) := by
  refine does_within (exec_rdTimeout g seq) (decide_eq_true hg) (if_pos ?_)
  obtain ⟨y, hy, hseq, hlacks⟩ := h
  simp only [hs, Bool.true_and]
  exact List.any_eq_true.2 ⟨y, hy, by simp [hseq, hlacks]⟩

theorem does_rdTimeout_nothing (hg : g < 16)
    (h : (b.group g).sealed = false ∨ ∀ y ∈ (b.group g).lateSums seq, y.seq = seq → sumLacks b g y = false) :
    Does (.rdTimeout g seq) b b := by
  refine does_within (exec_rdTimeout g seq) (decide_eq_true hg) (if_neg ?_)
  rcases h with h | h
  · simp [h]
  · have none_lacks : (((b.group g).lateSums seq).any fun y => y.seq == seq && sumLacks b g y) = false :=
      List.any_eq_false.2 fun y hy => by simpa using h y hy
    rw [RdGroup.lateSums] at none_lacks
    simp [none_lacks]

end Sums

/-! ### A write of the epoch register (R742, R743, R784) -/

/-- The limits that a write of the epoch register holds. -/
def RdGroup.withLimits (w : Nat) (x : RdGroup) : RdGroup :=
  { x with timeoutMs := if bitsOf w 32 16 = 0 then 1 else BitVec.ofNat 16 (bitsOf w 32 16)
           digestInterval := BitVec.ofNat 16 (bitsOf w 48 16) }

@[simp] theorem group_modGroup_same (b : Block) (g : Nat) (f : RdGroup → RdGroup) : (b.modGroup g f).group g = f (b.group g) :=
  SMap.get_put_same ..

/-- A record that is sent leaves every group alone. -/
theorem sendNow_groups (r : TxRecord) (b : Block) : (sendNow r b).groups = b.groups := by
  rw [sendNow]
  split
  next l _ => exact foldl_keeps Block.groups (fun b f => putFlit l f b) (fun _ _ => rfl) _ _
  next => rfl

theorem sendSteps_groups (g : Nat) (b : Block) : (sendSteps g b).groups = b.groups := by
  refine foldl_keeps Block.groups _ (fun b' r => ?_) _ _
  rw [sendRecord]
  split
  · exact sendNow_groups ..
  · rfl

/-- A group as a new epoch leaves it. -/
theorem group_newEpoch (g : Nat) (e : U32) (b : Block) :
    let x := (newEpoch g e b).group g
    x.epoch = e ∧ x.sums = [] ∧ x.closes = [] ∧ x.closing = false ∧ x.st = if x.en then .open else .disabled := by
  have sent : ∀ b', (sendSteps g b').group g = b'.group g := fun b' => congrArg (SMap.get RdGroup.init g) (sendSteps_groups g b')
  simp [newEpoch, sent]

section Epoch

variable {b : Block} {g : Nat} {w : U64}

theorem does_reGroupEpoch_limits (hg : g < 16) (h : w.toNat % 2 ^ 32 ≤ (b.group g).epoch.toNat) :
    Does (.reGroupEpoch g w) b (b.modGroup g (·.withLimits w.toNat)) := by
  refine does_within (exec_reGroupEpoch g w) (decide_eq_true hg) (if_neg ?_)
  simpa [bitsOf_zero] using h

theorem does_reGroupEpoch_higher (hg : g < 16) (h : (b.group g).epoch.toNat < w.toNat % 2 ^ 32) :
    Does (.reGroupEpoch g w) b (newEpoch g (BitVec.ofNat 32 w.toNat) (b.modGroup g (·.withLimits w.toNat))) := by
  refine does_within (exec_reGroupEpoch g w) (decide_eq_true hg) (if_pos ?_)
  simpa [bitsOf_zero] using h

end Epoch

/-! ### The time limit of a close (R768) -/

section Close

variable {b : Block} {g : Nat} {q : QueueRef} {c : Cmd}

theorem does_rdCloseTimeout {b' : Block} (hg : g < 16) (h : closeTimeout g b = b') : Does (.rdCloseTimeout g) b b' :=
  does_within (exec_rdCloseTimeout g) (decide_eq_true hg) h

theorem closeTimeout_idle (h : (b.group g).closing = false ∨ (b.group g).allClosed = true) : closeTimeout g b = b := by
  rcases h with h | h <;> simp [closeTimeout, h]

variable (hclosing : (b.group g).closing = true) (hall : (b.group g).allClosed = false)
  (hc : (groupCommands b g).find? (fun e => e.2.code == 2) = some (q, c))
include hclosing hall hc

/-- What holds of a close that is late: it ends with REPEAT once no stream chamber holds the place of its verdict record. -/
theorem closeTimeout_free (hfree : chamberHeld b c.core [(c.fld 0x34 4, 32)] = false) :
    closeTimeout g b = endNow q c.id .repeatStep (giveVerdict c .repeated true b) := by
  simp only [closeTimeout, hclosing, hall, hc, hfree]; rfl

theorem closeTimeout_held (hheld : chamberHeld b c.core [(c.fld 0x34 4, 32)] = true) : closeTimeout g b = b := by
  simp only [closeTimeout, hclosing, hall, hc, hheld]; rfl

end Close

/-- An `rd.close` of core 0, whose block asks for group 0 and a verdict record at tile store address 0. -/
def closeCmd : Cmd :=
  { id := 0, unit := 8, code := 2, index := 0, core := 0, thread := 0, block := [8#8, 2#8] ++ zeros 62, refuse := none, cancel := none
    quiet := false, depOn := none, phase := .running, heavy := false, passClass := 0, energy := 0, power := 0, more := 0
    resumePass := false, pk := 0, gather := none, stopping := false, pos := 0, faultVa := none, hold := false, step := 0, guard := []
    broken := false, passBasin := 0, carried := [], strict := none, clash := [], shard := [] }

/-- Group 0 of two members closes its step with its own record alone; the stream chamber of core 0 covers the place of the verdict
record. -/
def heldClose : Block :=
  { Block.reset with
    cores := [(0, { Core.init with pairs := [(0, { enabled := true, base := 0, half := 64, upperCompute := true, flipWait := false })] })]
    basins := [(0, { Basin.init with rd := [closeCmd] })]
    groups := [(0, { RdGroup.init with en := true, members := 2, st := .open, closing := true, closes := [(0, zeros 64)] })] }

theorem heldClose_command : (groupCommands heldClose 0).find? (fun e => e.2.code == 2) = some (.rd 0, closeCmd) := by decide

theorem does_rdCloseTimeout_heldClose : Does (.rdCloseTimeout 0) heldClose heldClose :=
  does_rdCloseTimeout (by decide) (closeTimeout_held rfl rfl heldClose_command (by decide))

theorem closing_repeated_heldClose :
    ((endNow (.rd 0) closeCmd.id .repeatStep (giveVerdict closeCmd .repeated true heldClose)).group 0).closing = false := by decide

theorem does_unique {i : Instr} {b b₁ b₂ : Block} (h₁ : Does i b b₁) (h₂ : Does i b b₂) : b₁ = b₂ := by
  simpa using (h₁ []).symm.trans (h₂ [])

/-- Refutes O57: the statement ends every late close with REPEAT, and does not ask that the place of its verdict record be free.
Where a stream chamber covers it, the verdict waits for the chamber (R427) and the block stays as it is: `heldClose`. What holds of
a close is `closeTimeout_free`; the statement's other clauses hold (`does_rdTimeout_missing`, `does_rdTimeout_nothing`,
`closeTimeout_idle`, `does_reGroupEpoch_limits`, `does_reGroupEpoch_higher` with `group_newEpoch`). -/
theorem not_reductionsRepeatWhenLate : ¬ Obligations.ReductionsRepeatWhenLate := by
  intro h
  obtain ⟨-, -, repeats, -⟩ := h heldClose 0 (by decide)
  have ended := does_unique does_rdCloseTimeout_heldClose (repeats rfl rfl (.rd 0) closeCmd heldClose_command)
  have closing : (heldClose.group 0).closing = true := rfl
  rw [ended, closing_repeated_heldClose] at closing
  exact absurd closing (by decide)

end Sys2Proof.Machine
end

section
/-! PROOFS. Key slots (R801–R804, R811–R813, R819): the form that every key command has, what each command makes of its slot, and
what a rotation leaves. -/

namespace Sys2Proof.Machine

/-! ### The form of a key command (R801, R819) -/

section Form
variable {b b₁ : Block} {k : Nat} {w : KeyIssuer} {i : Instr} {f : Block → Status × Block} {st : Status}

@[simp] theorem mayName_fw (fw : Bool) (k : Nat) (b : Block) : mayName (.fw fw) k b = true := rfl
@[simp] theorem mayName_party (p : U128) (k : Nat) (b : Block) : mayName (.party p) k b = ((b.slot k).party == p) := rfl
@[simp] theorem isFw_fw (fw : Bool) : isFw (.fw fw) = true := rfl
@[simp] theorem isFw_party (p : U128) : isFw (.party p) = false := rfl

/-- The slot's own party and firmware may name a slot. -/
theorem mayName_of_own (h : w = .party (b.slot k).party ∨ isFw w = true) : mayName w k b = true := by
  rcases h with rfl | h
  · simp
  · cases w <;> simp_all

variable (he : ∀ s, exec i s = onBlock s fun b => within (decide (k < 4096)) b fun b => keyDone (keyForm w k f b)) (hk : k < 4096)
include he hk

theorem does_key_noIdentity (hid : b.attest.identityOk = false) : Does i b (keyDone (.internal, b)) :=
  does_within he (decide_eq_true hk) (by simp [keyForm, hid])

theorem does_key_foreign (hid : b.attest.identityOk = true) (hm : mayName w k b = false) : Does i b (keyDone (.permFault, b)) :=
  does_within he (decide_eq_true hk) (by simp [keyForm, hid, hm])

/-- A command of an issuer that may name the slot does what the command is about. -/
theorem does_key (hid : b.attest.identityOk = true) (hm : mayName w k b = true) (h : f b = (st, b₁)) :
    Does i b (keyDone (st, b₁)) :=
  does_within he (decide_eq_true hk) (by simp [keyForm, hid, hm, h])

end Form

/-! ### What each command makes of its slot (R801, R802) -/

section Commands
variable {b : Block} {k : Nat} {w : KeyIssuer} (hid : b.attest.identityOk = true) (hk : k < 4096)
include hid hk

theorem does_keyReserve_free (party : U128) (hst : (b.slot k).st = .free) : Does (.keyReserve k party) b
    (keyDone (.ok, b.setSlot k { KeySlot.init with st := .reserved, party := party })) :=
  does_key (exec_keyReserve k party) hk hid rfl (by simp [hst])

theorem does_keyReserve_taken (party : U128) (hst : (b.slot k).st ≠ .free) : Does (.keyReserve k party) b (keyDone (.busy, b)) :=
  does_key (exec_keyReserve k party) hk hid rfl (by simp [hst])

theorem does_keyInstall_party (secret : BitVec 256) (hst : (b.slot k).st = .reserved) :
    Does (.keyInstall (.party (b.slot k).party) k secret) b (keyDone (.ok, installSecret k secret b)) :=
  does_key (exec_keyInstall _ k secret) hk hid (by simp) (by simp [hst, secretFor])

/-- Firmware installs the tollhouse's own secret, and only with SOURCE = DEVICE. -/
theorem does_keyInstall_device (secret : BitVec 256) (hst : (b.slot k).st = .reserved) : Does (.keyInstall (.fw true) k secret) b
    (keyDone (.ok, installSecret k (drawSecret b).1 (drawSecret b).2)) :=
  does_key (exec_keyInstall _ k secret) hk hid rfl (by simp [hst, secretFor])

theorem does_keyInstall_busy (secret : BitVec 256) (hw : mayName w k b = true) (h : (b.slot k).st ≠ .reserved ∨ w = .fw false) :
    Does (.keyInstall w k secret) b (keyDone (.busy, b)) :=
  does_key (exec_keyInstall w k secret) hk hid hw (if_pos (by simpa using h))

theorem does_keyRotate_party (secret : BitVec 256) (hst : (b.slot k).st = .active) :
    Does (.keyRotate (.party (b.slot k).party) k secret) b (keyDone (.ok, rotate k secret b)) :=
  does_key (exec_keyRotate _ k secret) hk hid (by simp) (by simp [hst, secretFor])

theorem does_keyRotate_fw (fw : Bool) (secret : BitVec 256) (hst : (b.slot k).st = .active) : Does (.keyRotate (.fw fw) k secret) b
    (keyDone (.ok, rotate k (drawSecret b).1 (drawSecret b).2)) :=
  does_key (exec_keyRotate _ k secret) hk hid rfl (by simp [hst, secretFor])

theorem does_keyRotate_busy (secret : BitVec 256) (hw : mayName w k b = true) (hst : (b.slot k).st ≠ .active) :
    Does (.keyRotate w k secret) b (keyDone (.busy, b)) :=
  does_key (exec_keyRotate w k secret) hk hid hw (if_pos hst)

theorem does_keyRevoke_fw (fw : Bool) (h : revocable b k = true) :
    Does (.keyRevoke (.fw fw) k) b (keyDone (.ok, startTeardown k none none b)) :=
  does_key (exec_keyRevoke _ k) hk hid rfl (if_neg (by simp [h]))

/-- Only firmware revokes a slot, and one that is FREE or REVOKED not at all. -/
theorem does_keyRevoke_busy (hw : mayName w k b = true) (h : revocable b k = false ∨ isFw w = false) :
    Does (.keyRevoke w k) b (keyDone (.busy, b)) :=
  does_key (exec_keyRevoke w k) hk hid hw (if_pos (by simpa using h))

theorem does_keyZeroize_fw (fw : Bool) (hst : (b.slot k).st = .revoked) : Does (.keyZeroize (.fw fw) k) b (keyDone (.ok, zeroize k b)) :=
  does_key (exec_keyZeroize _ k) hk hid rfl (if_neg (by simp [hst]))

theorem does_keyZeroize_busy (hw : mayName w k b = true) (h : (b.slot k).st ≠ .revoked ∨ isFw w = false) :
    Does (.keyZeroize w k) b (keyDone (.busy, b)) :=
  does_key (exec_keyZeroize w k) hk hid hw (if_pos (by simpa using h))

theorem does_keyFree_fw (fw : Bool) (hst : (b.slot k).st = .revoked) (hz : (b.slot k).zeroized = true) (hm : slotMapped b k = false) :
    Does (.keyFree (.fw fw) k) b (keyDone (.ok, b.setSlot k .init)) :=
  does_key (exec_keyFree _ k) hk hid rfl (if_neg (by simp [hst, hz, hm]))

theorem does_keyFree_busy (hw : mayName w k b = true)
    (h : (b.slot k).st ≠ .revoked ∨ (b.slot k).zeroized = false ∨ slotMapped b k = true ∨ isFw w = false) :
    Does (.keyFree w k) b (keyDone (.busy, b)) :=
  does_key (exec_keyFree w k) hk hid hw (if_pos (by simpa [or_assoc] using h))

/-! ### Device sets (R812, R813) -/

section SetBind
variable {r : List Byte} (hw : mayName w k b = true)
include hw

theorem does_setBind_tornDown (h : (b.teardowns.any fun t => t.slot == k) = true) : Does (.setBind w k r) b (keyDone (.busy, b)) :=
  does_key (exec_setBind w k r) hk hid hw (if_pos h)

variable (ht : (b.teardowns.any fun t => t.slot == k) = false)
include ht

theorem does_setBind_unusable (h : (b.slot k).usable = false) : Does (.setBind w k r) b (keyDone (.permFault, b)) :=
  does_key (exec_setBind w k r) hk hid hw (by simp [ht, h])

variable (hu : (b.slot k).usable = true)
include hu

theorem does_setBind_refused (h : setRecordOk b r = false) : Does (.setBind w k r) b (keyDone (.permFault, b)) :=
  does_key (exec_setBind w k r) hk hid hw (by simp [ht, hu, bindSet, h])

/-- The device set that a set record makes, with the set key that this device unwrapped. -/
def boundSet (r key : List Byte) : DeviceSet :=
  { id := BitVec.ofNat 128 (fld r 0x10 16), version := fld r 8 4, ownerRsa := (r.drop 0x20).take 388, ownerSlh := (r.drop 0x1A4).take 48
    key := key }

theorem does_setBind_binds {e key : List Byte} (h : setRecordOk b r = true) (hentry : memberEntry r = some e)
    (hkey : setKeyOf ((r.drop 0x10).take 16) e = some key) : Does (.setBind w k r) b (keyDone (.ok,
      (b.modAttest fun a => { a with sets := a.sets.filter (fun y => y.id != (boundSet r key).id) ++ [boundSet r key] }).modSlot k
        fun y => { y with set := some (boundSet r key).id })) :=
  does_key (exec_setBind w k r) hk hid hw (by simp [ht, hu, bindSet, h, hentry, hkey]; rfl)

end SetBind

end Commands

/-! ### Rotation (R801, R802, R804) -/

/-- A slot that may retire its previous secret does so once nothing is at the old epoch, and else stays as it is. -/
theorem KeySlot.retire_cases (x : KeySlot) : x.retire = x
    ∨ x.st = .rotating ∧ x.oldPages = 0 ∧ x.oldInflight = 0 ∧ x.retire = { x with st := .active, prev := none } := by
  unfold KeySlot.retire
  split
  next h => simp_all
  next => exact .inl rfl

/-- A slot under a new current secret, with the counts of what is left at its old epoch. -/
def KeySlot.rotated (new : Secret) (pages inflight : Nat) (x : KeySlot) : KeySlot :=
  { x with st := .rotating, epoch := x.epoch + 1, prev := x.cur, cur := some new, oldPages := pages, oldInflight := inflight }

theorem slot_rotate (k : Nat) (key : BitVec 256) (b : Block) : ∃ pages inflight,
    (rotate k key b).slot k = ((b.slot k).rotated (newSecret b key) pages inflight).retire :=
  ⟨_, _, Block.slot_setSlot_same ..⟩

theorem slot_rotate_other {j k : Nat} (key : BitVec 256) (b : Block) (h : j ≠ k) : (rotate k key b).slot j = b.slot j :=
  Block.slot_setSlot_other _ _ _ _ h

/-- Settles O51: the slot as rotated either keeps its previous secret or retires it at once. -/
theorem rotationKeepsTheOldEpoch : Obligations.RotationKeepsTheOldEpoch := by
  intro b k key x y
  obtain ⟨pages, inflight, hy⟩ : ∃ pages inflight, y = (x.rotated (newSecret b key) pages inflight).retire := slot_rotate k key b
  have rest : (∀ j, j ≠ k → (rotate k key b).slot j = b.slot j) ∧ (rotate k key b).mem = b.mem
      ∧ (rotate k key b).contexts = b.contexts := ⟨fun _ => slot_rotate_other key b, rfl, rfl⟩
  rcases KeySlot.retire_cases (x.rotated (newSecret b key) pages inflight) with kept | ⟨-, hpages, hinflight, retired⟩
  · rw [hy, kept]
    exact ⟨rfl, rfl, rfl, .inl ⟨rfl, rfl⟩, rest⟩
  · rw [hy, retired]
    exact ⟨rfl, rfl, rfl, .inr ⟨rfl, hpages, hinflight⟩, rest⟩

/-- Settles O50, command by command: first whether the module has an identity, then who issues the command and on whose slot. -/
theorem keyCommandsMoveTheirSlots : Obligations.KeyCommandsMoveTheirSlots := by
  intro b k hk ends x
  have own : ∀ w : KeyIssuer, w = .party x.party ∨ isFw w = true → mayName w k b = true := fun _ => mayName_of_own
  have itself : mayName (.party x.party) k b = true := own _ (.inl rfl)
  refine ⟨fun hid w party secret r => ?noIdentity, fun hid => ⟨fun party secret r hp => ?foreign,
    fun party => ⟨does_keyReserve_free hid hk party, does_keyReserve_taken hid hk party⟩,
    fun secret => ⟨does_keyInstall_party hid hk secret, does_keyInstall_device hid hk secret,
      fun w hw => does_keyInstall_busy hid hk secret (own w hw)⟩,
    fun secret => ⟨does_keyRotate_party hid hk secret, fun fw => does_keyRotate_fw hid hk fw secret,
      fun w hw => does_keyRotate_busy hid hk secret (own w hw)⟩,
    does_keyRevoke_busy hid hk itself (.inr rfl), does_keyZeroize_busy hid hk itself (.inr rfl),
    does_keyFree_busy hid hk itself (.inr (.inr (.inr rfl))),
    fun fw => ⟨does_keyZeroize_fw hid hk fw, fun h => does_keyZeroize_busy hid hk rfl (.inl h), does_keyFree_fw hid hk fw,
      fun h => does_keyFree_busy hid hk rfl (h.imp_right (·.imp_right .inl)), does_keyRevoke_fw hid hk fw,
      fun h => does_keyRevoke_busy hid hk rfl (.inl h)⟩,
    fun w r e key hw ht hu => ⟨does_setBind_refused hid hk (own w hw) ht hu, does_setBind_binds hid hk (own w hw) ht hu⟩,
    fun w r hw => ⟨does_setBind_tornDown hid hk (own w hw), does_setBind_unusable hid hk (own w hw)⟩⟩⟩
  case noIdentity =>
    exact ⟨does_key_noIdentity (exec_keyReserve k party) hk hid, does_key_noIdentity (exec_keyInstall w k secret) hk hid,
      does_key_noIdentity (exec_keyRotate w k secret) hk hid, does_key_noIdentity (exec_keyRevoke w k) hk hid,
      does_key_noIdentity (exec_keyZeroize w k) hk hid, does_key_noIdentity (exec_keyFree w k) hk hid,
      does_key_noIdentity (exec_setBind w k r) hk hid⟩
  case foreign =>
    have hm : mayName (.party party) k b = false := by simpa using Ne.symm hp
    exact ⟨does_key_foreign (exec_keyInstall _ k secret) hk hid hm, does_key_foreign (exec_keyRotate _ k secret) hk hid hm,
      does_key_foreign (exec_keyRevoke _ k) hk hid hm, does_key_foreign (exec_keyZeroize _ k) hk hid hm,
      does_key_foreign (exec_keyFree _ k) hk hid hm, does_key_foreign (exec_setBind _ k r) hk hid hm⟩

end Sys2Proof.Machine
end

section
/-! PROOFS. What a slot shows of a teardown that has ended (R805), and the operations of firmware that leave it so: posted records,
the bytes of the memories, the entries of rings and queues, and page tables. -/

namespace Sys2Proof.Machine

/-! ### A slot that a teardown has left -/

/-- The slot is FREE and holds no secret. -/
def KeySlot.vacant (x : KeySlot) : Prop := x.st = .free ∧ x.cur = none ∧ x.prev = none

/-- The slots that are vacant and that no teardown names. -/
def tornDown (slots : SMap KeySlot) (teardowns : List Teardown) (k : Nat) : Prop :=
  (SMap.get .init k slots).vacant ∧ ∀ t ∈ teardowns, t.slot ≠ k

/-- The slots of a block that are vacant and that no teardown names: `b'.tornDown = b.tornDown` says that a step from `b` to `b'` neither
fills such a slot nor tears it down again. -/
@[simp] abbrev Block.tornDown (b : Block) : Nat → Prop := Machine.tornDown b.slots b.teardowns

/-- What a pair's block shows. -/
theorem tornDown_of_eq {α : Type} {p : α × Block} {r : α} {b : Block} (h : p = (r, b)) : b.tornDown = p.2.tornDown := by rw [h]

theorem tornDown_of_unposted {b b' : Block} (h : b'.unposted = b.unposted) : b'.tornDown = b.tornDown :=
  (congrArg (fun x : Block => x.tornDown) h :)

/-- A slot that is neither filled nor emptied. -/
theorem tornDown_modSlot {b : Block} {k : Nat} {f : KeySlot → KeySlot} (h : (f (b.slot k)).vacant ↔ (b.slot k).vacant) :
    (b.modSlot k f).tornDown = b.tornDown := by
  funext j
  by_cases hj : j = k
  · subst hj
    exact congrArg (· ∧ _) ((congrArg KeySlot.vacant (Block.slot_setSlot_same ..)).trans (propext h))
  · exact congrArg (fun x : KeySlot => x.vacant ∧ _) (Block.slot_setSlot_other _ _ _ _ hj)

/-- A ROTATING slot that becomes ACTIVE again was not vacant. -/
theorem vacant_retire (x : KeySlot) : x.retire.vacant ↔ x.vacant := by
  rcases KeySlot.retire_cases x with h | ⟨hst, -, -, h⟩ <;> simp_all [KeySlot.vacant]

theorem tornDown_retire (b : Block) (k : Nat) (f : KeySlot → KeySlot) (h : ∀ x, (f x).vacant ↔ x.vacant) :
    (b.modSlot k fun x => (f x).retire).tornDown = b.tornDown :=
  tornDown_modSlot ((vacant_retire _).trans (h _))

theorem tornDown_foldl {α : Type} {f : Block → α → Block} (h : ∀ b x, (f b x).tornDown = b.tornDown) (l : List α) (b : Block) :
    (l.foldl f b).tornDown = b.tornDown := foldl_keeps (fun b : Block => b.tornDown) f h l b

section Memory
variable (b : Block)

/-! ### Posted records, and the host's memory -/

@[simp] theorem tornDown_hostReport (f a n : Nat) : (hostReport f a n b).tornDown = b.tornDown :=
  tornDown_of_unposted (unposted_hostReport ..)
@[simp] theorem tornDown_atsTouch (f a n : Nat) : (atsTouch f a n b).tornDown = b.tornDown :=
  tornDown_of_unposted (unposted_atsTouch ..)
@[simp] theorem tornDown_hostWrite (a : Nat) (bs : List Byte) : (hostWrite a bs b).tornDown = b.tornDown := rfl
@[simp] theorem tornDown_ringErr (f c : Nat) : (ringErr f c b).tornDown = b.tornDown := rfl
@[simp] theorem tornDown_postRecord (f r : Nat) (bs : List Byte) : (postRecord f r bs b).tornDown = b.tornDown :=
  tornDown_of_unposted (unposted_postRecord ..)
@[simp] theorem tornDown_postEvent (f : Nat) (st : Status) (source inst ctx slot : Nat) (detail : List Byte) :
    (postEvent f st source inst ctx slot detail b).tornDown = b.tornDown := tornDown_postRecord ..
@[simp] theorem tornDown_postFirmware (f : Nat) (st : Status) (ctx : Nat) (detail : List Byte) :
    (postFirmware f st ctx detail b).tornDown = b.tornDown := tornDown_postEvent ..

@[simp] theorem tornDown_hostPut (f a : Nat) (bs : List Byte) : (hostPut f a bs b).2.tornDown = b.tornDown := by
  unfold hostPut; split <;> simp
@[simp] theorem tornDown_hostRead (f a n : Nat) : (hostRead f a n b).2.tornDown = b.tornDown := by
  unfold hostRead; split <;> simp

/-! ### T1, and the stores that land there -/

@[simp] theorem tornDown_corrT1 (pa : Nat) (patrol : Bool) : (corrT1 pa patrol b).tornDown = b.tornDown := tornDown_postFirmware ..
@[simp] theorem tornDown_t1Met (pa n : Nat) : (t1Met pa n b).tornDown = b.tornDown :=
  tornDown_foldl (fun _ _ => by split <;> simp) ..
@[simp] theorem tornDown_t1Correct (a : Nat) : (t1Correct a b).tornDown = b.tornDown := tornDown_t1Met ..

@[simp] theorem tornDown_t1Write (pa : Nat) (bs : List Byte) : (t1Write pa bs b).tornDown = b.tornDown := by
  unfold t1Write
  split
  · rfl
  · exact tornDown_foldl (fun _ _ => tornDown_t1Correct ..) ..

@[simp] theorem tornDown_t1Zero (pa n : Nat) : (t1Zero pa n b).tornDown = b.tornDown := rfl

@[simp] theorem tornDown_landed (slot : Nat) (prev : Bool) : (landed slot prev b).tornDown = b.tornDown := by
  unfold landed
  split
  · exact tornDown_retire _ _ _ fun _ => Iff.rfl
  · rfl

@[simp] theorem tornDown_landStore (x : Store) : (landStore x b).tornDown = b.tornDown := by simp [landStore]

@[simp] theorem tornDown_landSeen (p : Store → Bool) : (landSeen p b).tornDown = b.tornDown :=
  tornDown_foldl (fun _ _ => by simp only []; split <;> simp [Block.freeBelow]) ..
@[simp] theorem tornDown_landLook (pa n : Nat) : (landLook pa n b).tornDown = b.tornDown := tornDown_landSeen ..
@[simp] theorem tornDown_landRange (pa n : Nat) : (landRange pa n b).tornDown = b.tornDown :=
  tornDown_foldl (fun _ _ => tornDown_landStore ..) ..

/-! ### Page tables (R511–R514) -/

@[simp] theorem tornDown_newTable : (newTable b).2.tornDown = b.tornDown := by unfold newTable; split <;> rfl

@[simp] theorem tornDown_ensureTable (a : Nat) : (ensureTable a b).2.tornDown = b.tornDown := by
  simp only [ensureTable]
  split
  · rfl
  · split <;> next h => simp [tornDown_of_eq h]

@[simp] theorem tornDown_mapLeaf (root va : Nat) (big : Bool) (l : U64) : (mapLeaf root va big l b).tornDown = b.tornDown := by
  grind [mapLeaf, tornDown_ensureTable, tornDown_t1Write]

@[simp] theorem tornDown_ensureWindows : (ensureWindows b).tornDown = b.tornDown := by
  unfold ensureWindows
  split
  · rfl
  · split
    next h => simp [tornDown_of_eq h]
    next h => exact (tornDown_foldl (fun _ _ => tornDown_ensureTable ..) ..).trans ((tornDown_of_eq h).trans (tornDown_newTable b))

theorem tornDown_createPage {ctx va : Nat} {r w x pinned : Bool} {slot cfmt : Nat} {bs : List Byte} {b' : Block}
    (h : createPage ctx va r w x pinned slot cfmt bs b = some b') : b'.tornDown = b.tornDown := by
  simp only [createPage] at h
  split at h
  · cases h
  · split at h
    · cases h
      simp [holdFrames, Block.spent]
    · cases h

theorem tornDown_createPages {ctx : Nat} {r w x pinned : Bool} {slot : Nat} (pages : List (Nat × List Byte)) {b b' : Block}
    (h : createPages ctx r w x pinned slot pages b = some b') : b'.tornDown = b.tornDown := by
  induction pages generalizing b with
  | nil => cases h; rfl
  | cons p pages ih =>
    simp only [createPages] at h
    split at h
    · cases h
    next h' => exact (ih h).trans (tornDown_createPage _ h')

@[simp] theorem tornDown_tlbInvalidate (ctx : Nat) (va : Option Nat) : (tlbInvalidate ctx va b).tornDown = b.tornDown := rfl
@[simp] theorem tornDown_putLeaf (x : Leaf) (l : U64) : (putLeaf x l b).tornDown = b.tornDown := tornDown_t1Write ..
@[simp] theorem tornDown_dropPage (ctx va : Nat) : (dropPage ctx va b).tornDown = b.tornDown := by unfold dropPage; split <;> rfl

@[simp] theorem tornDown_releaseHome (x : Leaf) : (releaseHome x b).tornDown = b.tornDown := by
  unfold releaseHome
  split
  · exact tornDown_landRange ..
  · rfl
  · rfl

@[simp] theorem tornDown_forgetOld (l : U64) : (forgetOld l b).tornDown = b.tornDown := by
  simp only [forgetOld]
  split
  · exact tornDown_retire _ _ _ fun _ => Iff.rfl
  · rfl

@[simp] theorem tornDown_unmapPage (ctx va : Nat) : (unmapPage ctx va b).tornDown = b.tornDown := by unfold unmapPage; split <;> simp

@[simp] theorem tornDown_erasePage (ctx va : Nat) : (erasePage ctx va b).tornDown = b.tornDown := by
  unfold erasePage
  split
  · rfl
  · rw [tornDown_unmapPage]
    split <;> simp

@[simp] theorem tornDown_changeLeaf (ctx va : Nat) (f : U64 → U64) : (changeLeaf ctx va f b).tornDown = b.tornDown := by
  unfold changeLeaf; split <;> simp

@[simp] theorem tornDown_fwSee (ctx va n : Nat) : (fwSee ctx va n b).2.tornDown = b.tornDown :=
  tornDown_foldl (fun _ _ => by
    split
    · split <;> simp
    · rfl) ..

@[simp] theorem tornDown_fwWrite (ctx va : Nat) (bs : List Byte) : (fwWrite ctx va bs b).tornDown = b.tornDown := by
  unfold fwWrite
  split
  · split <;> simp
  · rfl

/-! ### Entries of rings and queues (R626, R842, R844) -/

@[simp] theorem tornDown_writeBack (f c n : Nat) (st : Status) (result : Nat) : (writeBack f c n st result b).tornDown = b.tornDown := by
  grind [writeBack, tornDown_hostPut, tornDown_ringErr]

@[simp] theorem tornDown_writeCompletion (t : Taken) (st : Status) (result : Nat) :
    (writeCompletion t st result b).tornDown = b.tornDown := by
  unfold writeCompletion; split <;> simp [finishService]

@[simp] theorem tornDown_settleTaken (n : Nat) : (settleTaken n b).tornDown = b.tornDown := by
  induction n generalizing b with
  | zero => rfl
  | succ n ih =>
    simp only [settleTaken]
    split
    · rfl
    · rw [ih]
      split <;> simp

@[simp] theorem tornDown_complete (p : Poster) (st : Status) (result : Nat) : (complete p st result b).tornDown = b.tornDown :=
  tornDown_settleTaken ..

@[simp] theorem tornDown_completeFor (p : Option Poster) (st : Status) (result : Nat) :
    (completeFor p st result b).tornDown = b.tornDown := by
  unfold completeFor; split <;> simp

end Memory

end Sys2Proof.Machine
end

section
/-! PROOFS. The accesses of units, reduction sums, and the units that go on when a page comes leave a slot that a teardown has left as
it is. -/

namespace Sys2Proof.Machine

section Units
variable (b : Block)

/-! ### Translations and accesses (R516–R527) -/

@[simp] theorem tornDown_ptrFill (die ctx level va : Nat) (l : U64) : (ptrFill die ctx level va l b).tornDown = b.tornDown := by
  simp only [ptrFill]; split <;> rfl
@[simp] theorem tornDown_ptrFills (die ctx va : Nat) (trail : List (Nat × Nat × U64)) : (ptrFills die ctx va trail b).tornDown = b.tornDown :=
  tornDown_foldl (fun _ _ => by split <;> simp) ..
@[simp] theorem tornDown_tlbFill (n ctx va : Nat) (big : Bool) (leaf : U64) : (tlbFill n ctx va big leaf b).tornDown = b.tornDown := rfl
@[simp] theorem tornDown_fillFrom (n : Option Nat) (ctx va : Nat) (l : U64) (big : Bool) (f : Found) :
    (fillFrom n ctx va l big f b).tornDown = b.tornDown := by
  unfold fillFrom; split <;> simp

@[simp] theorem tornDown_walkMet (die ctx va : Nat) (cached : Bool) (trail : List (Nat × Nat × U64)) :
    (walkMet b die ctx va cached trail).tornDown = b.tornDown :=
  tornDown_foldl (fun _ _ => by split <;> simp) ..

@[simp] theorem tornDown_walkerWalk (die ctx va : Nat) : (walkerWalk die ctx va b).2.tornDown = b.tornDown := by
  simp only [walkerWalk]
  split <;> split <;> simp [Block.freeBelow]

@[simp] theorem tornDown_lookup (n : Option Nat) (ctx va : Nat) : (lookup n ctx va b).2.tornDown = b.tornDown := by
  cases n with
  | none => exact (tornDown_foldl (fun _ _ => tornDown_t1Met ..) ..).trans (tornDown_landSeen ..)
  | some n =>
    have seen := tornDown_landSeen b fun x => isSystem (x.th / 16)
    simp only [lookup]
    split
    · split
      · exact seen
      · split
        · exact seen
        · exact (tornDown_walkerWalk ..).trans seen
    · exact (tornDown_walkerWalk ..).trans seen

@[simp] theorem tornDown_translate (n : Option Nat) (ctx va acc : Nat) : (translate n ctx va acc b).2.tornDown = b.tornDown := by
  grind [translate, tornDown_lookup, tornDown_fillFrom]

@[simp] theorem tornDown_translateAll (n : Option Nat) (ctx acc stop : Nat) (vas : List Nat) (skip : Nat) :
    (translateAll n ctx acc stop vas skip b).2.tornDown = b.tornDown := by
  induction vas generalizing skip b with
  | nil => rfl
  | cons va vas ih => grind [translateAll, tornDown_translate]

@[simp] theorem tornDown_readPages (ps : List Part) : (readPages ps b).2.tornDown = b.tornDown := by
  induction ps generalizing b with
  | nil => rfl
  | cons p ps ih => grind [readPages, tornDown_landLook, tornDown_t1Met]

@[simp] theorem tornDown_writePages (ps : List Part) (bs : List Byte) : (writePages ps bs b).tornDown = b.tornDown := by
  induction ps generalizing b bs with
  | nil => rfl
  | cons p ps ih => simp [writePages, ih]

@[simp] theorem tornDown_eccT1 (pa : Nat) (patrol : Bool) (source inst slot : Nat) :
    (eccT1 pa patrol source inst slot b).tornDown = b.tornDown := tornDown_postEvent ..
@[simp] theorem tornDown_eccT2 (pa : Nat) (patrol : Bool) (source inst slot : Nat) :
    (eccT2 pa patrol source inst slot b).tornDown = b.tornDown := tornDown_postEvent ..
@[simp] theorem tornDown_faultRecord (w : Who) (st : Status) (acc va : Nat) : (faultRecord w st acc va b).tornDown = b.tornDown := rfl
@[simp] theorem tornDown_xlateFail (w : Who) (e : XErr) (acc va : Nat) : (xlateFail w e acc va b).tornDown = b.tornDown := by
  unfold xlateFail; split <;> simp [eccAccess]

@[simp] theorem tornDown_setDirty (n : Option Nat) (ctx va : Nat) (x : Xlate) : (setDirty n ctx va x b).tornDown = b.tornDown := by
  simp only [setDirty]
  split
  · rfl
  · split <;> split <;> simp

@[simp] theorem tornDown_noteShard (unit basin ctx va : Nat) (old new : List Byte) :
    (noteShard unit basin ctx va old new b).tornDown = b.tornDown := by
  simp only [noteShard]; split <;> rfl

@[simp] theorem tornDown_vread (w : Who) (n : Option Nat) (va k : Nat) : (vread w n va k b).2.tornDown = b.tornDown := by
  grind [vread, translateAccess, eccAccess, tornDown_translateAll, tornDown_xlateFail, tornDown_readPages, tornDown_faultRecord, tornDown_eccT1]

@[simp] theorem tornDown_dirtyPages (n : Option Nat) (ctx : Nat) (ps : List Part) : (dirtyPages n ctx ps b).tornDown = b.tornDown :=
  tornDown_foldl (fun _ _ => tornDown_setDirty ..) ..

@[simp] theorem tornDown_vwrite (w : Who) (n : Option Nat) (va : Nat) (bs : List Byte) : (vwrite w n va bs b).2.tornDown = b.tornDown := by
  grind [vwrite, translateAccess, eccAccess, tornDown_translateAll, tornDown_xlateFail, tornDown_dirtyPages, tornDown_writePages,
    tornDown_noteShard, tornDown_faultRecord, tornDown_eccT1]

/-! ### Sealed records, and what the links send (R799, R886) -/

/-- Only a usable slot seals, and it keeps its state and has a secret still. -/
@[simp] theorem tornDown_sealUnder (slot : Nat) (aad pt : List Byte) : (sealUnder slot aad pt b).2.tornDown = b.tornDown := by
  simp only [sealUnder]
  split
  next x hu hx =>
    split
    · rfl
    · refine tornDown_modSlot ?_
      simp [KeySlot.vacant, hx]
  · rfl

@[simp] theorem tornDown_sendRecord (r : TxRecord) : (sendRecord r b).tornDown = b.tornDown := by
  rw [sendRecord]
  split
  · rw [sendNow]
    split
    · exact tornDown_foldl (f := fun b f => putFlit _ f b) (fun _ _ => rfl) ..
    · rfl
  · rfl

/-! ### Reduction sums (R746–R753) -/

@[simp] theorem tornDown_modSum (g seq : Nat) (f : RdSum → RdSum) : (modSum g seq f b).tornDown = b.tornDown := rfl
@[simp] theorem tornDown_cmdEvent (c : Cmd) (st : Status) (va : Nat) : (cmdEvent c st va b).tornDown = b.tornDown := by
  unfold cmdEvent; split <;> exact tornDown_postEvent ..

@[simp] theorem tornDown_sendRd (g rank ring : Nat) (bytes : List Byte) : (sendRd g rank ring bytes b).tornDown = b.tornDown := by
  unfold sendRd
  split <;> next h => simp [modRdEngine, tornDown_of_eq h]

@[simp] theorem tornDown_sendUnit (g : Nat) (x : RdSum) (type u : Nat) (dest : List Nat) (payload : List Byte) :
    (sendUnit g x type u dest payload b).tornDown = b.tornDown :=
  tornDown_foldl (fun _ _ => tornDown_sendRd ..) ..

@[simp] theorem tornDown_finishUnit (g : Nat) (c : Cmd) (x : RdSum) (u : Nat) (bytes : List Byte) :
    (finishUnit g c x u bytes b).2.tornDown = b.tornDown := by
  grind [finishUnit, tornDown_vwrite, tornDown_modSum, tornDown_sendUnit]

@[simp] theorem tornDown_stepUnit (g : Nat) (c : Cmd) (x : RdSum) (u : Nat) : (stepUnit g c x u b).2.tornDown = b.tornDown := by
  grind [stepUnit, tornDown_vread, tornDown_modSum, tornDown_sendUnit, tornDown_finishUnit]

@[simp] theorem tornDown_stepUnits (g : Nat) (c : Cmd) (seq : Nat) (us : List Nat) : (stepUnits g c seq us b).2.tornDown = b.tornDown := by
  induction us generalizing b with
  | nil => rfl
  | cons u us ih => grind [stepUnits, tornDown_stepUnit]

@[simp] theorem tornDown_setQueue (q : QueueRef) (l : List Cmd) : (b.setQueue q l).tornDown = b.tornDown := by cases q <;> rfl
@[simp] theorem tornDown_modCmd (q : QueueRef) (id : Nat) (f : Cmd → Cmd) : (b.modCmd q id f).tornDown = b.tornDown := tornDown_setQueue ..

@[simp] theorem tornDown_sumFault (g : Nat) (c : Cmd) (x : RdSum) (e : Status × Nat) : (sumFault g c x e b).tornDown = b.tornDown := by
  unfold sumFault; split <;> simp [modRdEngine]

@[simp] theorem tornDown_rdAdvance (g n : Nat) : (rdAdvance g n b).tornDown = b.tornDown := by
  induction n generalizing b with
  | zero => rfl
  | succ n ih => grind [rdAdvance, tornDown_modSum, tornDown_stepUnits, tornDown_sumFault]

/-! ### Units that go on when a page comes (R533) -/

@[simp] theorem tornDown_settleRd : (settleRd b).tornDown = b.tornDown := by
  simp only [settleRd]; split <;> split <;> rfl

@[simp] theorem tornDown_requestPass (q : QueueRef) (c : Cmd) : (requestPass q c b).tornDown = b.tornDown := by
  simp only [requestPass]; split <;> simp [countRefused, addRequest]

@[simp] theorem tornDown_wakeCmd (q : QueueRef) (c : Cmd) : (wakeCmd q c b).tornDown = b.tornDown := by
  unfold wakeCmd resumeCmd
  split
  · simp
  · split <;> simp

@[simp] theorem tornDown_resumeQueue (core q : Nat) : (resumeQueue core q b).tornDown = b.tornDown := by
  simp only [resumeQueue]; split <;> rfl
@[simp] theorem tornDown_resolveTowpath (core lo hi : Nat) : (resolveTowpath core lo hi b).tornDown = b.tornDown :=
  tornDown_foldl (fun _ _ => by
    simp only []
    split
    · exact tornDown_resumeQueue ..
    · rfl) ..

@[simp] theorem tornDown_resolvePage (ctxs : List Nat) (lo hi : Nat) : (resolvePage ctxs lo hi b).tornDown = b.tornDown := by
  simp only [resolvePage]
  refine (tornDown_foldl (fun _ _ => tornDown_rdAdvance ..) ..).trans ((tornDown_settleRd _).trans
    ((tornDown_foldl (fun _ _ => tornDown_wakeCmd ..) ..).trans (tornDown_foldl (fun _ _ => ?_) ..)))
  split <;> simp

end Units

end Sys2Proof.Machine
end

section
/-! PROOFS. Moves of pages, images of adapters, requests and revocations that firmware settles leave a slot that a teardown has left as
it is. -/

namespace Sys2Proof.Machine

/-- The block that an attempt ends with. -/
def attemptBlock : Attempt → Block
  | .ok b => b
  | .error x => x.2

@[simp] theorem attemptBlock_ok (b : Block) : attemptBlock (.ok b) = b := rfl
@[simp] theorem attemptBlock_error (x : Status × Block) : attemptBlock (.error x) = x.2 := rfl

/-- The block that an admission leaves, and the block before it when the request waits. -/
def Admit.block (b : Block) : Admit → Block
  | .done _ b' => b'
  | .ends _ b' => b'
  | .waits => b

@[simp] theorem Admit.block_done (b : Block) (r : Request) (b' : Block) : (Admit.done r b').block b = b' := rfl
@[simp] theorem Admit.block_ends (b : Block) (st : Status) (b' : Block) : (Admit.ends st b').block b = b' := rfl
@[simp] theorem Admit.block_waits (b : Block) : Admit.waits.block b = b := rfl

theorem tornDown_of_attempt {a : Attempt} {b b' : Block} (h : (attemptBlock a).tornDown = b.tornDown) (ha : a = .ok b') :
    b'.tornDown = b.tornDown := by rw [← h, ha]; rfl

theorem tornDown_of_failed {a : Attempt} {b : Block} {x : Status × Block} (h : (attemptBlock a).tornDown = b.tornDown) (ha : a = .error x) :
    x.2.tornDown = b.tornDown := by rw [← h, ha]; rfl

section Moves
variable (b : Block)

/-! ### Moves of pages between the tiers (R555–R575) -/

@[simp] theorem tornDown_corrT2 (pa : Nat) (patrol : Bool) : (corrT2 pa patrol b).tornDown = b.tornDown := tornDown_postFirmware ..
@[simp] theorem tornDown_t2Met (pa n : Nat) : (t2Met pa n b).tornDown = b.tornDown :=
  tornDown_foldl (fun _ _ => by split <;> simp) ..
@[simp] theorem tornDown_t2Write (pa : Nat) (bs : List Byte) : (t2Write pa bs b).tornDown = b.tornDown := rfl
@[simp] theorem tornDown_holdFrames (h : Held) : (holdFrames h b).tornDown = b.tornDown := rfl
@[simp] theorem tornDown_holdGranules (h : Held) : (holdGranules h b).tornDown = b.tornDown := rfl
@[simp] theorem tornDown_tierEvent (e ctx : Nat) (st : Status) (detail : List Byte) : (tierEvent e ctx st detail b).tornDown = b.tornDown :=
  tornDown_postEvent ..
@[simp] theorem tornDown_codecFail (e ctx va : Nat) (err : CodecErr × Nat) : (codecFail e ctx va err b).tornDown = b.tornDown :=
  tornDown_tierEvent ..
@[simp] theorem tornDown_countCodec (e raw cmp : Nat) : (countCodec e raw cmp b).tornDown = b.tornDown := rfl

@[simp] theorem tornDown_modTier (e : Nat) (f : TierEngine → TierEngine) : (b.modTier e f).tornDown = b.tornDown := rfl

@[simp] theorem tornDown_readCompressed (e ctx va : Nat) (x : Leaf) : (readCompressed e ctx va x b).2.tornDown = b.tornDown := by
  grind [readCompressed, Block.freeBelow, tornDown_tierEvent, tornDown_eccT2, tornDown_t2Met, tornDown_hostReport, tornDown_atsTouch]

@[simp] theorem tornDown_readPage (e ctx va : Nat) (x : Leaf) : (readPage e ctx va x b).2.tornDown = b.tornDown := by
  grind [readPage, tornDown_tierEvent, tornDown_eccT1, tornDown_t1Met, tornDown_readCompressed, tornDown_codecFail, tornDown_countCodec]

@[simp] theorem tornDown_placePage (e ctx va : Nat) (x : Leaf) (dest cfmt : Nat) (dies : List Nat) (bs : List Byte) :
    (placePage e ctx va x dest cfmt dies bs b).2.tornDown = b.tornDown := by
  simp only [placePage]
  split
  · split <;> simp [Block.spent]
  · split <;> simp [Block.spent]
  · split
    · simp [t3Place, Block.freeBelow]
    · split
      next h => simp [tornDown_of_eq h, t3Place, Block.freeBelow]
      next h =>
        have sealed := tornDown_of_eq h
        rw [tornDown_countCodec]
        split
        · simp [sealed, t3Place, Block.freeBelow]
        · refine (tornDown_retire _ _ (fun y => { y with oldPages := y.oldPages - 1 }) fun _ => Iff.rfl).trans ?_
          simp [sealed, t3Place, Block.freeBelow]

@[simp] theorem tornDown_copyPage (e : Nat) (j : TierJob) (x : Leaf) : (copyPage e j x b).2.tornDown = b.tornDown := by
  grind [copyPage, tornDown_readPage, tornDown_placePage]

@[simp] theorem tornDown_movePage (e : Nat) (r : TierReq) : (movePage e r b).2.tornDown = b.tornDown := by
  simp only [movePage]
  split
  · rfl
  · rfl
  · split
    next h =>
      rw [tornDown_of_eq h, tornDown_copyPage]
      split <;> simp
    next h =>
      rw [tornDown_modTier, tornDown_releaseHome, tornDown_dropPage, tornDown_putLeaf, tornDown_of_eq h, tornDown_copyPage]
      split <;> simp

/-! ### Images of adapters (R631–R660) -/

@[simp] theorem tornDown_moveImage (v : VSlot) (dest : Nat) : (attemptBlock (moveImage v dest b)).tornDown = b.tornDown := by
  refine List.foldlRecOn (motive := fun a : Attempt => (attemptBlock a).tornDown = b.tornDown) v.addrs _ rfl fun a ha va _ => ?_
  cases a with
  | error x => exact ha
  | ok b₁ =>
    simp only [Except.bind]
    split
    next h =>
      have moved := (tornDown_of_eq h).trans ((tornDown_movePage ..).trans ha)
      split <;> simp [← moved]
    · simp

@[simp] theorem tornDown_pinImage (v : VSlot) (on : Bool) : (pinImage v on b).tornDown = b.tornDown :=
  tornDown_foldl (fun _ _ => tornDown_changeLeaf ..) ..
@[simp] theorem tornDown_dropImage (v : VSlot) : (dropImage v b).tornDown = b.tornDown :=
  tornDown_foldl (fun _ _ => tornDown_unmapPage ..) ..
@[simp] theorem tornDown_eraseImage (v : VSlot) : (eraseImage v b).tornDown = b.tornDown :=
  tornDown_foldl (fun _ _ => tornDown_erasePage ..) ..

@[simp] theorem tornDown_modAd (f : Adapters → Adapters) : (b.modAd f).tornDown = b.tornDown := rfl
@[simp] theorem tornDown_modEntry (i : Nat) (f : DirEntry → DirEntry) : (b.modEntry i f).tornDown = b.tornDown := by
  unfold Block.modEntry; split <;> rfl
@[simp] theorem tornDown_modContext (c : Nat) (f : Context → Context) : (b.modContext c f).tornDown = b.tornDown := by
  unfold Block.modContext; split <;> rfl
@[simp] theorem tornDown_countEviction : (countEviction b).tornDown = b.tornDown := rfl

theorem tornDown_releaseT2 {b' : Block} (h : releaseT2 b = some b') : b'.tornDown = b.tornDown := by
  obtain ⟨p, -, h⟩ := Option.bind_eq_some_iff.1 h
  obtain ⟨e, -, rfl⟩ := Option.map_eq_some_iff.1 h
  simp

theorem tornDown_moveOut (i : Nat) (second : Bool) (n : Nat) {b b' : Block} (h : moveOut i second n b = some b') :
    b'.tornDown = b.tornDown := by
  induction n generalizing b with
  | zero => cases h
  | succ n ih =>
    have again : (releaseT2 b).bind (moveOut i second n) = some b' → b'.tornDown = b.tornDown := fun h => by
      obtain ⟨b₁, h₁, h⟩ := Option.bind_eq_some_iff.1 h
      exact (ih h).trans (tornDown_releaseT2 b h₁)
    simp only [moveOut] at h
    split at h
    · cases h
    · split at h
      next hm =>
        split at h
        · cases h
          simpa using tornDown_of_attempt (tornDown_moveImage ..) hm
        · exact again h
      · exact again h
      · cases h

theorem tornDown_evictOne {b' : Block} (h : evictOne b = some b') : b'.tornDown = b.tornDown := by
  obtain ⟨p, -, h⟩ := Option.bind_eq_some_iff.1 h
  exact tornDown_moveOut _ _ _ h

theorem tornDown_withRoom (n : Nat) {f : Block → Attempt} (hf : ∀ b, (attemptBlock (f b)).tornDown = b.tornDown) (k : Nat) :
    (attemptBlock (withRoom n f k b)).tornDown = b.tornDown := by
  induction k generalizing b with
  | zero => rfl
  | succ k ih =>
    have out : (attemptBlock (match evictOne b with
        | some b => withRoom n f k b
        | none => .error (.busy, b))).tornDown = b.tornDown := by
      split
      next h => exact (ih _).trans (tornDown_evictOne b h)
      · rfl
    simp only [withRoom]
    split
    · split
      · exact out
      · exact hf b
    · exact out

@[simp] theorem tornDown_checkFailed : (checkFailed b).tornDown = b.tornDown := rfl

/-- What one more page does. (The definition's own equation cannot be generated: its page of zeros is evaluated there.) -/
theorem readPages'_succ (f a : Nat) (form : PageForm) (n i off : Nat) (acc : List (Nat × List Byte))
    (bad : List (Nat × CodecErr × Nat)) : readPages' f a form (n + 1) i off acc bad b =
      let off := ceilDiv off 4096 * 4096
      match hostStatus b (a + off) 32 with
      | some st => (.error st, hostReport f (a + off) 32 b)
      | none =>
        match openPage b form i (Mem.read b.mem.host (a + off) 69664) with
        | none => (.error (match form with
            | .sealedSet _ => .permFault
            | .slot _ => .checkMismatch), b)
        | some (c, used) =>
          match hostRead f (a + off) used b with
          | (.error st, b) => (.error st, b)
          | (.ok _, b) =>
            match decodePage 0 false c with
            | .error err => readPages' f a form n (i + 1) (off + used) (acc ++ [(0, zeros 65536)]) (bad ++ [(i, err)]) b
            | .ok bs => readPages' f a form n (i + 1) (off + used) (acc ++ [(fld c 5 1, bs)]) bad b := rfl

@[simp] theorem tornDown_readPages' (f a : Nat) (form : PageForm) (n i off : Nat) (acc : List (Nat × List Byte))
    (bad : List (Nat × CodecErr × Nat)) : (readPages' f a form n i off acc bad b).2.tornDown = b.tornDown := by
  induction n generalizing b i off acc bad with
  | zero => rfl
  | succ n ih =>
    rw [readPages'_succ]
    simp only []
    split
    · simp
    · split
      · rfl
      · split
        next h => simp [tornDown_of_eq h]
        next h => split <;> simp [ih, tornDown_of_eq h]

@[simp] theorem tornDown_readRecordAt (f a k : Nat) : (readRecordAt f a k b).2.tornDown = b.tornDown := by
  grind (gen := 20) [readRecordAt, tornDown_hostRead, tornDown_readPages', tornDown_checkFailed, tornDown_codecFail]

theorem tornDown_createImage (slot va : Nat) (pages : List (Nat × List Byte)) {b b' : Block}
    (h : createImage slot va pages b = some b') : b'.tornDown = b.tornDown := by
  induction pages generalizing b va with
  | nil => cases h; rfl
  | cons p pages ih =>
    simp only [createImage] at h
    split at h
    · cases h
    next h' => exact (ih _ h).trans (tornDown_createPage _ h')

@[simp] theorem tornDown_loadRecord (f i : Nat) (second : Bool) (e : DirEntry) :
    (attemptBlock (loadRecord f i second e b)).tornDown = b.tornDown := by
  simp only [loadRecord]
  split
  next h => simp [tornDown_of_eq h]
  next h =>
    have read := (tornDown_of_eq h).trans (tornDown_readRecordAt ..)
    split
    · simp [← read]
    · split
      · simp [← read]
      next h' =>
        have made := tornDown_createImage _ _ _ h'
        simp [← read, made]

@[simp] theorem tornDown_fetchT1 (f i : Nat) (second : Bool) : (attemptBlock (fetchT1 f i second b)).tornDown = b.tornDown := by
  simp only [fetchT1]
  split
  · rfl
  · split
    · rfl
    · split
      · split
        next h => simpa using tornDown_of_attempt (tornDown_moveImage ..) h
        next h => exact tornDown_of_failed (tornDown_moveImage ..) h
      · split
        · exact tornDown_loadRecord ..
        · rfl

@[simp] theorem tornDown_bringT1 (f i : Nat) (second : Bool) : (attemptBlock (bringT1 f i second b)).tornDown = b.tornDown := by
  simp only [bringT1]
  split
  · rfl
  · split
    · rfl
    · exact tornDown_withRoom _ _ (tornDown_fetchT1 · ..) _

/-! ### Requests and revocations that firmware settles (R842–R845) -/

@[simp] theorem tornDown_writeRequest (r : Request) (imageVa : Nat) : (writeRequest r imageVa b).tornDown = b.tornDown := by
  simp [writeRequest]

@[simp] theorem tornDown_wakeThread (th : Nat) : (wakeThread th b).tornDown = b.tornDown := rfl

theorem tornDown_spentUnless (p : Prop) [Decidable p] (n : Nat) : (if p then b else b.spent n).tornDown = b.tornDown := by split <;> rfl

theorem tornDown_admitPinned (r : Request) {b₁ : Block} (hb : b₁.tornDown = b.tornDown) :
    ((admitPinned r b₁).block b).tornDown = b.tornDown := by
  simp only [admitPinned]
  split
  · exact hb
  next b₂ h =>
    have made : b₂.tornDown = b.tornDown := by
      refine (tornDown_createPages _ h).trans ((tornDown_spentUnless ..).trans ?_)
      rw [tornDown_modContext, ← hb]
      split
      · split <;> simp
      · rfl
    rw [Admit.block_done, ← made]
    split
    · simp
    · split <;> simp

@[simp] theorem tornDown_recordFree (r : Request) : (recordFree r b).2.tornDown = b.tornDown := tornDown_fwSee ..
@[simp] theorem tornDown_checkRecord (r : Request) (fresh : Bool) : (checkRecord r fresh b).2.tornDown = b.tornDown := by
  unfold checkRecord; split <;> simp

@[simp] theorem tornDown_admitRequest (r : Request) (fresh : Bool) : ((admitRequest r fresh b).block b).tornDown = b.tornDown := by
  have checked {r : Request} {c : Bool} {b₁ : Block} (h : checkRecord r fresh b = (c, b₁)) : b₁.tornDown = b.tornDown :=
    (tornDown_of_eq h).trans (tornDown_checkRecord ..)
  unfold admitRequest
  split
  · split
    · rfl
    · split
      next h => exact checked h
      next h => exact tornDown_admitPinned _ _ (checked h)
  · simp only []
    split
    · rfl
    next i e _ =>
      iterate 3 (split; · rfl)
      split
      next h => exact checked h
      next h =>
        have seen := checked h
        split
        · rfl
        · split
          next h' => exact tornDown_admitPinned _ _ ((tornDown_of_attempt (tornDown_bringT1 ..) h').trans seen)
          · rfl
          next h' => exact (tornDown_of_failed (tornDown_bringT1 ..) h').trans seen

@[simp] theorem tornDown_endWaiting (r : Request) (st : Status) : (endWaiting r st b).tornDown = b.tornDown := by
  simp [endWaiting, dropRequest, writeEnded]

@[simp] theorem tornDown_resumeWaiting (rs : List Request) : (resumeWaiting rs b).tornDown = b.tornDown := by
  induction rs generalizing b with
  | nil => rfl
  | cons r rs ih =>
    have admitted := tornDown_admitRequest b r false
    simp only [resumeWaiting]
    split
    · rfl
    next h => rw [h] at admitted; simpa [ih] using admitted
    next h => rw [h] at admitted; simpa [ih] using admitted

@[simp] theorem tornDown_finishRevoke (i : Nat) : (finishRevoke i b).tornDown = b.tornDown := by
  unfold finishRevoke; split <;> simp

@[simp] theorem tornDown_settleRevokes : (settleRevokes b).tornDown = b.tornDown :=
  tornDown_foldl (fun _ _ => by split <;> simp) ..

@[simp] theorem tornDown_settleService : (settleService b).tornDown = b.tornDown := by simp [settleService]

end Moves

end Sys2Proof.Machine
end

section
/-! PROOFS. Teardowns (R805–R810): where they start, what takes a peer from those that one waits for, and the FREE slot at the end. -/

namespace Sys2Proof.Machine

section Rows
variable {b b₁ : Block}

/-! ### Starts (R805, R809) -/

theorem does_slotTeardown {p : Poster} {t : Taken} (h : opReady b p 0x31 t) (hid : b.attest.identityOk = true)
    (hnone : b.teardowns = []) (hk : revocable b (t.arg 0 % 4096) = true) :
    Does (.slotTeardown p) b (startTeardown (t.arg 0 % 4096) (some p) none (markStarted p b)) :=
  does_runOp (exec_slotTeardown p) h (by simp [slotTeardown, hid, hnone, hk, h.names])

theorem does_slotTeardown_busy {p : Poster} {t : Taken} (h : opReady b p 0x31 t) (hid : b.attest.identityOk = true)
    (hbusy : b.teardowns ≠ [] ∨ revocable b (t.arg 0 % 4096) = false) : Does (.slotTeardown p) b (complete p .busy 0 b) :=
  does_runOp (exec_slotTeardown p) h (by simp_all [slotTeardown, fail, h.names])

/-! ### Records of peers, and the time limit (R808–R810) -/

theorem does_revokeRecordRx {src : Nat} (hsrc : src < 4096) (h : revokeRx src b = b₁) : Does (.revokeRecordRx src) b b₁ :=
  does_within (exec_revokeRecordRx src) (decide_eq_true hsrc) h

theorem does_revokeAckRx {src : Nat} (hsrc : src < 4096) (h : revokeAckRx src b = b₁) : Does (.revokeAckRx src) b b₁ :=
  does_within (exec_revokeAckRx src) (decide_eq_true hsrc) h

theorem does_teardownAckTimeout {k peer : Nat} (hk : k < 4096) (hpeer : peer < 4096) (h : ackTimeout k peer b = b₁) :
    Does (.teardownAckTimeout k peer) b b₁ :=
  does_within (exec_teardownAckTimeout k peer) (by simp [hk, hpeer]) h

theorem revokeRx_none {src : Nat} (h : takeRevocation src 1 b = (none, b₁)) : revokeRx src b = b₁ := by rw [revokeRx, h]

theorem revokeAckRx_none {src : Nat} (h : takeRevocation src 2 b = (none, b₁)) : revokeAckRx src b = b₁ := by rw [revokeAckRx, h]

theorem revokeAckRx_some {src : Nat} {bs : List Byte} (h : takeRevocation src 2 b = (some bs, b₁)) :
    revokeAckRx src b = (slotsWithTag b₁ ((bs.drop 0x18).take 16)).foldl (fun b k => peerDone k src b) b₁ := by rw [revokeAckRx, h]

end Rows

/-! ### The end (R805) -/

theorem tornDown_modFunc (b : Block) (n : Nat) (f : Func → Func) : (b.modFunc n f).tornDown = b.tornDown := rfl

theorem tornDown_emptied (slots : SMap KeySlot) (l : List Teardown) (k : Nat) :
    tornDown (SMap.put .init k .init slots) (l.filter fun x => x.slot != k) k := by
  refine ⟨?_, by simp⟩
  rw [SMap.get_put_same]
  exact ⟨rfl, rfl, rfl⟩

/-- The event records of step 6 leave the slot as its release has. -/
theorem tornDown_reported (fns : List Nat) (k : Nat) (detail : List Byte) (b : Block) (l : List Teardown) :
    tornDown (fns.foldl (fun b f => postEvent f .keyRevoked 0x09 k 0xFFFF 0xFF detail b) (b.setSlot k .init)).slots
      (l.filter fun x => x.slot != k) k := by
  have reported := foldl_keeps (fun b : Block => b.slots) (fun b f => postEvent f .keyRevoked 0x09 k 0xFFFF 0xFF detail b)
    (fun b f => (congrArg (fun x : Block => x.slots) (unposted_postEvent f .keyRevoked 0x09 k 0xFFFF 0xFF detail b) :)) fns (b.setSlot k .init)
  rw [reported]
  exact tornDown_emptied ..

/-- The slot is emptied before the event records, and nothing that follows fills it: the records, the completion, and what firmware
settles. -/
theorem tornDown_finishTeardown (t : Teardown) (b : Block) : (finishTeardown t b).tornDown t.slot := by
  simp only [finishTeardown]
  rw [tornDown_settleService]
  split
  · split
    · rw [tornDown_completeFor]
      exact tornDown_reported ..
    · rw [tornDown_modFunc, tornDown_completeFor]
      exact tornDown_reported ..
  · rw [tornDown_completeFor]
    exact tornDown_reported ..

/-- Settles O52: a start, a record of a peer and a time limit each do what their operation's definition says, and the end leaves the
slot empty because nothing after its release fills a slot. -/
theorem teardownsRunToTheirEnd : Obligations.TeardownsRunToTheirEnd := by
  intro b
  refine ⟨fun p t h hid => ⟨does_slotTeardown h hid, does_slotTeardown_busy h hid⟩,
    fun src hsrc => ⟨fun bs b₁ h => does_revokeRecordRx hsrc ?_, fun b₁ h => does_revokeRecordRx hsrc (revokeRx_none h),
      fun bs b₁ h => does_revokeAckRx hsrc (revokeAckRx_some h), fun b₁ h => does_revokeAckRx hsrc (revokeAckRx_none h)⟩,
    fun k peer hk hpeer => ⟨fun h => does_teardownAckTimeout hk hpeer (if_pos h),
      fun h => does_teardownAckTimeout hk hpeer (if_neg (by simp_all))⟩, fun t => ?_⟩
  · rewrite [revokeRx, h]
    rfl
  · obtain ⟨⟨hst, hcur, hprev⟩, hteardowns⟩ := tornDown_finishTeardown t b
    exact ⟨hst, hcur, hprev, hteardowns⟩

end Sys2Proof.Machine
end

section
/-! PROOFS. The SPDM responder (R818–R825, R830): the form that every request has, what each request answers once the responder is
up, and the sessions and chunks that a connection keeps. -/

namespace Sys2Proof.Machine

/-! ### The form of a request (R819, R820) -/

/-- A request on connection `c`: it is answered where its version and its offer are supported. -/
def IsRequest (c : Conn) (ok : Bool) (i : Instr) : Prop := ∃ f, ∀ s, exec i s = onBlock s fun b => .next (spdm c ok f b)

/-- The tollhouse is powered and the module has an identity, so the responder answers (R819). -/
structure Responding (b : Block) : Prop where
  up : b.th.railUp = true
  identity : b.attest.identityOk = true

theorem is13_of_ne {v : Byte} (h : v ≠ 0x13) : is13 v = false := beq_false_of_ne h

section Form
variable {b b' : Block} {c : Conn} {i : Instr} {ok : Bool} {f : Block → Block}

theorem does_request_railDown (hi : IsRequest c ok i) (hup : b.th.railUp = false) : Does i b b := by
  obtain ⟨f, he⟩ := hi
  exact does_of he (by simp [spdm, hup])

theorem does_request_noIdentity (hi : IsRequest c ok i) (hup : b.th.railUp = true) (hid : b.attest.identityOk = false) :
    Does i b (respond c (.error errUnspecified) b) := by
  obtain ⟨f, he⟩ := hi
  exact does_of he (by simp [spdm, hup, hid])

variable (hr : Responding b)
include hr

theorem does_request_unsupported (hi : IsRequest c ok i) (hok : ok = false) : Does i b (respond c (.error errUnsupported) b) := by
  obtain ⟨f, he⟩ := hi
  exact does_of he (by simp [spdm, hr.up, hr.identity, hok])

theorem does_request (he : ∀ s, exec i s = onBlock s fun b => .next (spdm c ok f b)) (hok : ok = true) (h : f b = b') :
    Does i b b' :=
  does_of he (by simp [spdm, hr.up, hr.identity, hok, h])

end Form

/-! ### Certificates, challenges and measurements (R818, R820, R823) -/

section Identity
variable {b : Block} {c : Conn} {slot off len : Nat} {nonce : List Byte} {index : Byte} {sign : Bool}

theorem getCertificate_part (hs : slot < 2) (ho : off < (Config.certChain slot).length) :
    let part := ((Config.certChain slot).drop off).take len
    getCertificate c slot off len b = respond c (.certificate part ((Config.certChain slot).length - off - part.length)) b :=
  if_neg (by simp [hs, ho])

theorem getCertificate_invalid (h : 2 ≤ slot ∨ (Config.certChain slot).length ≤ off) :
    getCertificate c slot off len b = respond c (.error errInvalid) b :=
  if_pos (by simpa using h)

theorem challenge_signed (hs : slot < 2) (hn : nonce.length = 32) :
    let msg := leBytes 1 0x03 ++ leBytes 1 slot ++ nonce ++ sha384 (Config.certChain slot)
    challenge c slot nonce b = respondSigned c (.challengeAuth msg (rsaSig msg)) msg b :=
  if_neg (by simp [hs, hn])

theorem challenge_invalid (h : 2 ≤ slot ∨ nonce.length ≠ 32) : challenge c slot nonce b = respond c (.error errInvalid) b :=
  if_pos (by simpa using h)

/-- The measurement indices are 1 to 6. -/
theorem measurement_isNone (b : Block) (i : Nat) : (measurement b i).isNone = decide (i = 0 ∨ 6 < i) := by
  match i with
  | 0 | 1 | 2 | 3 | 4 | 5 | 6 => rfl
  | n + 7 => simp [measurement]

/-- The index asks for the count of the measurements, for one of them, or for all. -/
def indexKnown (index : Byte) : Prop := index.toNat ≤ 6 ∨ index = 255

/-- What GET_MEASUREMENTS answers for an index. -/
def measuredBlocks (b : Block) (index : Byte) : List Byte :=
  if index = 0 then leBytes 1 6 else if index = 255 then [1, 2, 3, 4, 5, 6].flatMap (measBlock b) else measBlock b index.toNat

theorem measuredBlocks_eq : measuredBlocks b index = if index.toNat = 0 then leBytes 1 6
    else if index.toNat = 255 then [1, 2, 3, 4, 5, 6].flatMap (measBlock b) else measBlock b index.toNat := by
  have zero : index.toNat = 0 ↔ index = 0 := BitVec.toNat_inj (y := 0)
  have all : index.toNat = 255 ↔ index = 255 := BitVec.toNat_inj (y := 255)
  simp only [measuredBlocks, zero, all]

/-- GET_MEASUREMENTS refuses an index exactly when it asks for nothing. -/
theorem unknown_iff : (index.toNat ≠ 0 && index.toNat ≠ 255 && (measurement b index.toNat).isNone) = true ↔ ¬ indexKnown index := by
  have all : index.toNat = 255 ↔ index = 255 := BitVec.toNat_inj (y := 255)
  rw [indexKnown, ← all, measurement_isNone]
  simp
  omega

theorem getMeasurements_unsigned (hi : indexKnown index) :
    getMeasurements c index false nonce b = respond c (.measurements (measuredBlocks b index) none) b := by
  have known := Bool.eq_false_iff.2 (mt (unknown_iff (b := b)).1 (not_not_intro hi))
  simp only [getMeasurements, known, ← measuredBlocks_eq]
  rfl

theorem getMeasurements_signed (hi : indexKnown index) (hn : nonce.length = 32) :
    let msg := leBytes 1 0x60 ++ index :: nonce ++ measuredBlocks b index
    getMeasurements c index true nonce b = respondSigned c (.measurements (measuredBlocks b index) (some (rsaSig msg))) msg b := by
  have known := Bool.eq_false_iff.2 (mt (unknown_iff (b := b)).1 (not_not_intro hi))
  simp only [getMeasurements, known, hn, ← measuredBlocks_eq]
  rfl

theorem getMeasurements_unknown (hi : ¬ indexKnown index) : getMeasurements c index sign nonce b = respond c (.error errInvalid) b :=
  if_pos (Bool.or_eq_true_iff.2 (.inl (unknown_iff.2 hi)))

theorem getMeasurements_noNonce (hn : nonce.length ≠ 32) : getMeasurements c index true nonce b = respond c (.error errInvalid) b :=
  if_pos (Bool.or_eq_true_iff.2 (.inr (by simpa using hn)))

end Identity

/-! ### Key exchange and secure sessions (R820, R825) -/

section Sessions
variable {b : Block} {c : Conn} {bs key : List Byte} {kem : Option (List Byte)} {session : Nat} {x : Session}

theorem keyExchange_noKey (h : (b.conn c).kemKey = none) : keyExchange c bs kem b = respond c (.error errInvalid) b := by
  simp [keyExchange, h]

theorem keyExchange_otherKey (h : (b.conn c).kemKey = some key) (hkem : kem ≠ some (sha384 key)) :
    keyExchange c bs kem b = respond c (.error errInvalid) b := by
  simp [keyExchange, h, hkem]

theorem keyExchange_full (h : (b.conn c).kemKey = some key) (hkem : kem = some (sha384 key)) (hn : 8 ≤ b.attest.sessions.length) :
    keyExchange c bs kem b = respond c (.error errBusy) b := by
  simp [keyExchange, h, hkem, hn]

/-- The session that KEY_EXCHANGE opens: the P-384 secret `z`, then the ML-KEM secret, enter its key schedule (R825). -/
def newSession (c : Conn) (key z : List Byte) (b : Block) : Session :=
  let e := Config.kemEncaps key (b.attest.drbgCtr + 1)
  { id := b.attest.sessionNext, conn := c, secret := z ++ e.2, kemCt := e.1, finished := false }

theorem keyExchange_opens {answer z : List Byte} (h : (b.conn c).kemKey = some key) (hkem : kem = some (sha384 key))
    (hn : b.attest.sessions.length < 8) (hdhe : Config.dhe bs b.attest.drbgCtr = some (answer, z)) :
    let y := newSession c key z b
    keyExchange c bs kem b = respondSigned c (.keyExchange y.id answer (sha384 y.kemCt))
      (leBytes 1 0x64 ++ leBytes 4 y.id ++ bs ++ answer ++ sha384 y.kemCt) (b.modAttest fun a =>
        { a with sessions := a.sessions ++ [y], sessionNext := y.id + 1, drbgCtr := a.drbgCtr + 2 }) := by
  simp [keyExchange, h, hkem, Nat.not_le.2 hn, hdhe, newSession]

theorem session_of_secured (h : b.secured c session = true) : ∃ x, b.session c session = some x ∧ x.finished = true := by
  simpa [Block.secured, Option.any_eq_true] using h

theorem finishMsg_none (h : b.session c session = none) : finishMsg c session bs b = respond c (.error errUnexpected) b := by
  simp [finishMsg, h]

theorem finishMsg_again (h : b.session c session = some x) (hx : x.finished = true) :
    finishMsg c session bs b = respond c (.error errUnexpected) b := by
  simp [finishMsg, h, hx]

section Open
variable (h : b.session c session = some x) (hx : x.finished = false)
include h hx

theorem finishMsg_verifies (hbs : bs = Config.finishVerify x.secret x.id) : finishMsg c session bs b =
    respond c .finish (modSession session (fun x => { x with finished := true }) b) := by
  simp [finishMsg, h, hx, hbs]

theorem finishMsg_fails (hbs : bs ≠ Config.finishVerify x.secret x.id) :
    finishMsg c session bs b = respond c (.error errDecrypt) b := by
  simp [finishMsg, h, hx, hbs]

theorem hkKemct_open : hkKemct c session b = respondVendor c x.kemCt b := by simp [hkKemct, h, hx]

end Open

theorem hkKemct_none (h : b.session c session = none) : hkKemct c session b = respond c (.error errUnexpected) b := by
  simp [hkKemct, h]

theorem hkKemct_finished (h : b.session c session = some x) (hx : x.finished = true) :
    hkKemct c session b = respond c (.error errUnexpected) b := by
  simp [hkKemct, h, hx]

theorem inSession_secured {f : Block → Block} (h : b.secured c session = true) : inSession c session f b = f b := if_pos h

theorem inSession_unsecured {f : Block → Block} (h : b.secured c session = false) :
    inSession c session f b = respond c (.error errUnexpected) b :=
  if_neg (by simp [h])

/-- HK_KEYOP carries a party's key command in a session, and answers its status (R821). -/
theorem hkKeyop_secured {party : U128} {op slot : Nat} (h : b.secured c session = true) :
    let r := partyCommand party op slot bs b
    hkKeyop c (some session) party op slot bs b = respondVendor c (leBytes 1 r.1.code) (keyDone r) := by
  simp only [hkKeyop, inSession_secured h]

theorem hkKeyop_unsecured {party : U128} {op slot : Nat} (h : b.secured c session = false) :
    hkKeyop c (some session) party op slot bs b = respond c (.error errUnexpected) b := by
  simp only [hkKeyop, inSession_unsecured h]

/-- KEY_UPDATE's operations are 1 to 3. -/
theorem keyUpdate_reserved {op : Byte} (h : op = 0 ∨ 3 < op.toNat) : ¬ (1 ≤ op.toNat && op.toNat ≤ 3) = true := by
  rcases h with rfl | h
  · decide
  · simp; omega

end Sessions

/-! ### Chunks, and the vendor-defined messages (R820–R822, R825) -/

section Messages
variable {b : Block} {c : Conn} {handle seq : Nat} {last : Bool} {bs nonce msg : List Byte} {mask : U32}

theorem modConn_congr {f g : SpdmConn → SpdmConn} (h : f (b.conn c) = g (b.conn c)) : b.modConn c f = b.modConn c g := by
  cases c with
  | doe => exact congrArg (fun x => b.modAttest fun a => { a with doe := x }) h
  | mctp => exact congrArg (fun x => b.modAttest fun a => { a with mctp := x }) h

theorem chunkSend_first : chunkSend c handle 0 last bs b = respond c .chunkAck (b.modConn c fun x =>
    { x with chunkIn := bs, chunkSeq := if last then 0 else handle * 65536 + 1 }) := by
  simp [chunkSend]

theorem chunkSend_next (h0 : 0 < seq) (hs : seq < 65536) (h : (b.conn c).chunkSeq = handle * 65536 + seq) :
    chunkSend c handle seq last bs b = respond c .chunkAck (b.modConn c fun x =>
      { x with chunkIn := x.chunkIn ++ bs, chunkSeq := if last then 0 else handle * 65536 + seq + 1 }) := by
  have inOrder : ¬ (decide (65536 ≤ seq) || decide ((b.conn c).chunkSeq ≠ handle * 65536 + seq)) = true := by simp [hs, h]
  simp only [chunkSend, Nat.ne_of_gt h0, if_false, if_neg inOrder]
  exact congrArg (respond c .chunkAck) (modConn_congr rfl)

theorem chunkGet_piece (h : (b.conn c).large.drop (1024 * seq) ≠ []) :
    let rest := (b.conn c).large.drop (1024 * seq)
    chunkGet c seq b = respond c (.chunk (rest.take 1024) (decide (rest.length ≤ 1024))) b :=
  if_neg (by simpa using h)

theorem chunkGet_past (h : (b.conn c).large.drop (1024 * seq) = []) : chunkGet c seq b = respond c (.error errUnexpected) b :=
  if_pos (by simp [h])

theorem hkPqsig_signed (hl : (b.conn c).lastWasSigned = true) (hs : (b.conn c).lastSigned = some msg) :
    hkPqsig c b = respondVendor c (slhSig msg) b := by
  simp only [hkPqsig, hl, hs]

theorem hkPqsig_unsigned (hl : (b.conn c).lastWasSigned = false) : hkPqsig c b = respond c (.error errUnexpected) b := by
  simp only [hkPqsig, hl]

theorem hkKemek_takes (ho : handshakeOpen b c = false) (hn : bs.length = 1568) :
    hkKemek c bs b = respondVendor c [] (b.modConn c fun x => { x with kemKey := some bs }) := by
  simp [hkKemek, ho, hn]

theorem hkKemek_malformed (ho : handshakeOpen b c = false) (hn : bs.length ≠ 1568) :
    hkKemek c bs b = respond c (.error errInvalid) b := by
  simp [hkKemek, ho, hn]

theorem hkKemek_inHandshake (ho : handshakeOpen b c = true) : hkKemek c bs b = respond c (.error errUnexpected) b := by
  simp [hkKemek, ho]

end Messages

/-- Settles O53, request by request. -/
theorem attestationAnswers : Obligations.AttestationAnswers := by
  intro b c v index op o slot off len handle seq session last sign nonce bs kem mask party key tells plain own
  have versioned : ∀ v, ∀ i ∈ plain v, ∃ ok, (v ≠ 0x13 → ok = false) ∧ IsRequest c ok i := by
    intro v
    have old : v ≠ 0x13 → is13 v = false := is13_of_ne
    simp only [plain, List.forall_mem_cons, List.not_mem_nil, false_implies, implies_true, and_true]
    exact ⟨⟨_, old, _, exec_getCapabilities c v⟩, ⟨_, fun h => by simp [old h], _, exec_negotiateAlgorithms c v o⟩,
      ⟨_, old, _, exec_getDigests c v⟩, ⟨_, old, _, exec_getCertificate c v slot off len⟩, ⟨_, old, _, exec_challenge c v slot nonce⟩,
      ⟨_, old, _, exec_getMeasurements c v index sign nonce⟩, ⟨_, old, _, exec_keyExchange c v bs kem⟩,
      ⟨_, old, _, exec_finishMsg c v session bs⟩, ⟨_, old, _, exec_heartbeat c v session⟩, ⟨_, old, _, exec_keyUpdate c v session op⟩,
      ⟨_, old, _, exec_endSession c v session⟩, ⟨_, old, _, exec_chunkSend c v handle seq last bs⟩,
      ⟨_, old, _, exec_chunkGet c v handle seq⟩⟩
  have vendorDefined : ∀ i ∈ own, IsRequest c true i := by
    simp only [own, List.forall_mem_cons, List.not_mem_nil, false_implies, implies_true, and_true]
    exact ⟨⟨_, exec_hkPqsig c⟩, ⟨_, exec_hkReport c nonce mask⟩, ⟨_, exec_hkKemkey c⟩, ⟨_, exec_hkKemek c bs⟩,
      ⟨_, exec_hkKemct c session⟩, ⟨_, exec_hkKeyop c (some session) party op slot bs⟩⟩
  have request : ∀ i ∈ .getVersion c v :: plain v ++ own, ∃ ok, IsRequest c ok i := by
    simp only [List.cons_append, List.forall_mem_cons, List.forall_mem_append]
    exact ⟨⟨_, _, exec_getVersion c v⟩, fun i hi => (versioned v i hi).imp fun _ h => h.2, fun i hi => ⟨true, vendorDefined i hi⟩⟩
  refine ⟨fun hup i hi => ?railDown, fun hup hid i hi => ?noIdentity, fun hup hid => ?answers⟩
  case railDown =>
    obtain ⟨ok, h⟩ := request i hi
    exact does_request_railDown h hup
  case noIdentity =>
    obtain ⟨ok, h⟩ := request i hi
    exact does_request_noIdentity h hup hid
  case answers =>
    have hr : Responding b := ⟨hup, hid⟩
    refine ⟨fun hv i hi => ?oldVersion,
      fun hv => does_request hr (exec_getVersion c v) (by simpa [is13] using hv) rfl,
      fun h13 h10 => does_request_unsupported hr ⟨_, exec_getVersion c v⟩ (Bool.or_eq_false_iff.2 ⟨is13_of_ne h13, beq_false_of_ne h10⟩),
      does_request hr (exec_getCapabilities c 0x13) rfl rfl,
      fun ho => does_request hr (exec_negotiateAlgorithms c 0x13 o) (by simp [ho]; rfl) rfl,
      fun ho => does_request_unsupported hr ⟨_, exec_negotiateAlgorithms c 0x13 o⟩
        (Bool.eq_false_iff.2 fun offered => ho (by cases o; simp_all)),
      does_request hr (exec_getDigests c 0x13) rfl rfl,
      ⟨fun hs ho => does_request hr (exec_getCertificate c 0x13 slot off len) rfl (getCertificate_part hs ho),
        fun h => does_request hr (exec_getCertificate c 0x13 slot off len) rfl (getCertificate_invalid h)⟩,
      ⟨fun hs hn => does_request hr (exec_challenge c 0x13 slot nonce) rfl (challenge_signed hs hn),
        fun h => does_request hr (exec_challenge c 0x13 slot nonce) rfl (challenge_invalid h)⟩,
      ⟨fun hi => ⟨does_request hr (exec_getMeasurements c 0x13 index false nonce) rfl (getMeasurements_unsigned hi),
          fun hn => does_request hr (exec_getMeasurements c 0x13 index true nonce) rfl (getMeasurements_signed hi hn)⟩,
        fun hn => does_request hr (exec_getMeasurements c 0x13 index true nonce) rfl (getMeasurements_noNonce hn),
        fun h6 h255 => does_request hr (exec_getMeasurements c 0x13 index sign nonce) rfl
          (getMeasurements_unknown (not_or.2 ⟨Nat.not_le.2 h6, h255⟩))⟩,
      fun answer z hk hkem hn hdhe => does_request hr (exec_keyExchange c 0x13 bs kem) rfl (keyExchange_opens hk hkem hn hdhe),
      fun h => does_request hr (exec_keyExchange c 0x13 bs kem) rfl
        (h.elim keyExchange_noKey fun h => keyExchange_otherKey h.1 h.2),
      fun hk hkem hn => does_request hr (exec_keyExchange c 0x13 bs kem) rfl (keyExchange_full hk hkem hn),
      fun h => ⟨does_request hr (exec_finishMsg c 0x13 session bs) rfl (finishMsg_none h),
        does_request hr (exec_hkKemct c session) rfl (hkKemct_none h)⟩,
      fun x h hx => ⟨fun hbs => does_request hr (exec_finishMsg c 0x13 session bs) rfl (finishMsg_verifies h hx hbs),
        fun hbs => does_request hr (exec_finishMsg c 0x13 session bs) rfl (finishMsg_fails h hx hbs),
        does_request hr (exec_hkKemct c session) rfl (hkKemct_open h hx)⟩,
      fun hs => ?secured, fun hs => ?unsecured,
      does_request hr (exec_hkKeyop c none party op slot bs) rfl rfl,
      does_request hr (exec_chunkSend c 0x13 handle 0 last bs) rfl chunkSend_first,
      fun h0 hs h => does_request hr (exec_chunkSend c 0x13 handle seq last bs) rfl (chunkSend_next h0 hs h),
      ⟨fun h => does_request hr (exec_chunkGet c 0x13 handle seq) rfl (chunkGet_piece h),
        fun h => does_request hr (exec_chunkGet c 0x13 handle seq) rfl (chunkGet_past h)⟩,
      fun msg hl hs => does_request hr (exec_hkPqsig c) rfl (hkPqsig_signed hl hs),
      fun hl => does_request hr (exec_hkPqsig c) rfl (hkPqsig_unsigned hl),
      fun hn => does_request hr (exec_hkReport c nonce mask) rfl (if_neg (not_not_intro hn)),
      fun hn => does_request hr (exec_hkReport c nonce mask) rfl (if_pos hn),
      does_request hr (exec_hkKemkey c) rfl rfl,
      fun ho hn => does_request hr (exec_hkKemek c bs) rfl (hkKemek_takes ho hn),
      fun ho hn => does_request hr (exec_hkKemek c bs) rfl (hkKemek_malformed ho hn),
      fun ho => does_request hr (exec_hkKemek c bs) rfl (hkKemek_inHandshake ho)⟩
    case oldVersion =>
      obtain ⟨ok, old, h⟩ := versioned v i hi
      exact does_request_unsupported hr h (old hv)
    case secured =>
      obtain ⟨x, hx, hfin⟩ := session_of_secured hs
      have within : ∀ f, inSession c session f b = f b := fun _ => inSession_secured hs
      exact ⟨does_request hr (exec_heartbeat c 0x13 session) rfl (within _),
        fun h1 h3 => does_request hr (exec_keyUpdate c 0x13 session op) rfl ((within _).trans (if_pos (by simp [h1, h3]))),
        fun h => does_request hr (exec_keyUpdate c 0x13 session op) rfl ((within _).trans (if_neg (keyUpdate_reserved h))),
        does_request hr (exec_endSession c 0x13 session) rfl (within _),
        does_request hr (exec_hkKeyop c (some session) party op slot bs) rfl (hkKeyop_secured hs),
        does_request hr (exec_finishMsg c 0x13 session bs) rfl (finishMsg_again hx hfin),
        does_request hr (exec_hkKemct c session) rfl (hkKemct_finished hx hfin)⟩
    case unsecured =>
      have outside : ∀ f, inSession c session f b = respond c (.error errUnexpected) b := fun _ => inSession_unsecured hs
      simp only [List.forall_mem_cons, List.not_mem_nil, false_implies, implies_true, and_true]
      exact ⟨does_request hr (exec_heartbeat c 0x13 session) rfl (outside _),
        does_request hr (exec_keyUpdate c 0x13 session op) rfl (outside _),
        does_request hr (exec_endSession c 0x13 session) rfl (outside _),
        does_request hr (exec_hkKeyop c (some session) party op slot bs) rfl (hkKeyop_unsecured hs)⟩

end Sys2Proof.Machine
end

section
/-! PROOFS. TDISP and IDE_KM (R826, R832): the messages to a virtual function's interface, what its stop tears down, and the
selective streams. -/

namespace Sys2Proof.Machine

section Interfaces
variable {b b' : Block} {fn : Nat} {i : Instr} {f : Block → Block}

/-! ### TDISP (R826) -/

section Form
variable (hfn : fn < 64) (hr : Responding b) (he : ∀ s, exec i s = onBlock s fun b => tdisp fn f b)
include hfn hr he

/-- A TDISP message to a virtual function does what the message is about. -/
theorem does_tdisp (h0 : fn ≠ 0) (h : f b = b') : Does i b b' :=
  does_within he (decide_eq_true hfn) (by simp [spdm, hr.up, hr.identity, h0, h])

/-- The physical function is no TDI. -/
theorem does_tdisp_physical (h0 : fn = 0) : Does i b (respond .doe (.error tdispBadInterface) b) :=
  does_within he (decide_eq_true hfn) (by simp [spdm, hr.up, hr.identity, h0])

end Form

theorem tdiMove_from {st dest : TdiState} (h : (b.func fn).tdi = st) :
    tdiMove fn st dest b = respond .doe (.status .ok) (b.modFunc fn fun x => { x with tdi := dest }) := if_pos h

theorem tdiMove_refused {st dest : TdiState} (h : (b.func fn).tdi ≠ st) :
    tdiMove fn st dest b = respond .doe (.error tdispBadState) b := if_neg h

/-- An interface has a report while it is locked or runs. -/
theorem does_getDeviceInterfaceReport (hfn : fn < 64) (hr : Responding b) (h0 : fn ≠ 0)
    (h : (b.func fn).tdi = .locked ∨ (b.func fn).tdi = .run) :
    Does (.getDeviceInterfaceReport fn) b (respond .doe (.vendor (tdiReport b fn)) b) :=
  does_tdisp hfn hr (exec_getDeviceInterfaceReport fn) h0 (by rcases h with h | h <;> simp [h])

theorem does_getDeviceInterfaceReport_refused (hfn : fn < 64) (hr : Responding b) (h0 : fn ≠ 0) (hl : (b.func fn).tdi ≠ .locked)
    (hrun : (b.func fn).tdi ≠ .run) : Does (.getDeviceInterfaceReport fn) b (respond .doe (.error tdispBadState) b) :=
  does_tdisp hfn hr (exec_getDeviceInterfaceReport fn) h0 (by cases h : (b.func fn).tdi <;> simp_all)

/-- The stop of an interface that is bound to no partition, and that no teardown has to wait for, unlocks it. -/
theorem stopInterface_unbound (hb : (b.func fn).bound = none) (ht : ∀ t ∈ b.teardowns, t.tdi ≠ some fn) :
    stopInterface fn b = respond .doe (.status .ok) (b.modFunc fn fun x => { x with tdi := .unlocked }) := by
  have none_waits : (b.teardowns.any fun t => t.tdi == some fn) = false := List.any_eq_false.2 fun t h => by simpa using ht t h
  simp [stopInterface, hb, none_waits]

/-! ### IDE_KM (R832) -/

/-- An IDE stream after an operation on it: the key it is given, whether it is active. -/
def IdeStream.after (op : IdeOp) (x : IdeStream) : IdeStream :=
  match op with
  | .program k => { x with key := some k }
  | .activate => { x with active := x.key.isSome }
  | .stop => { x with active := false }

section Streams
variable {session stream : Nat} {op : IdeOp}

/-- The block with an operation done on one of the selective streams. -/
def withIde (stream : Nat) (op : IdeOp) (b : Block) : Block :=
  b.modAttest fun a => { a with ide := SMap.put .init stream ((SMap.get .init stream a.ide).after op) a.ide }

theorem ideKm_outside (h : b.secured .doe session = false) :
    ideKm (some session) stream op b = respond .doe (.error errUnexpected) b := by
  simp only [ideKm, inSession_unsecured h]

variable (h : b.secured .doe session = true)
include h

theorem ideKm_noStream (hs : 8 ≤ stream) : ideKm (some session) stream op b = respond .doe (.error errInvalid) b := by
  simp only [ideKm, inSession_secured h, if_pos hs]

theorem ideKm_stream (hs : stream < 8) : ideKm (some session) stream op b = respond .doe (.vendor []) (withIde stream op b) := by
  simp only [ideKm, inSession_secured h, if_neg (Nat.not_le.2 hs)]
  rfl

end Streams

end Interfaces

/-- Settles O54: each message to an interface by the state it stands in, and each operation on a stream by its session. -/
theorem interfacesAreLockedAndRun : Obligations.InterfacesAreLockedAndRun := by
  intro b fn hfn hup hid tells st
  have hr : Responding b := ⟨hup, hid⟩
  refine ⟨fun h0 => ?physical, fun h0 => ?virtual, fun session stream op => ?ide⟩
  case physical =>
    have refuses : ∀ {i f}, (∀ s, exec i s = onBlock s fun b => tdisp fn f b) → tells i (.error tdispBadInterface) :=
      fun he => does_tdisp_physical hfn hr he h0
    simp only [List.forall_mem_cons, List.not_mem_nil, false_implies, implies_true, and_true]
    exact ⟨refuses (exec_getTdispVersion fn), refuses (exec_getTdispCapabilities fn), refuses (exec_lockInterface fn),
      refuses (exec_getDeviceInterfaceReport fn), refuses (exec_getDeviceInterfaceState fn), refuses (exec_startInterfaceRequest fn),
      refuses (exec_stopInterfaceRequest fn)⟩
  case virtual =>
    exact ⟨does_tdisp hfn hr (exec_getTdispVersion fn) h0 rfl, does_tdisp hfn hr (exec_getTdispCapabilities fn) h0 rfl,
      does_tdisp hfn hr (exec_getDeviceInterfaceState fn) h0 rfl,
      fun h => does_tdisp hfn hr (exec_lockInterface fn) h0 (tdiMove_from h),
      fun h => does_tdisp hfn hr (exec_lockInterface fn) h0 (tdiMove_refused h),
      fun h => does_tdisp hfn hr (exec_startInterfaceRequest fn) h0 (tdiMove_from h),
      fun h => does_tdisp hfn hr (exec_startInterfaceRequest fn) h0 (tdiMove_refused h),
      does_getDeviceInterfaceReport hfn hr h0, does_getDeviceInterfaceReport_refused hfn hr h0,
      fun hb ht => does_tdisp hfn hr (exec_stopInterfaceRequest fn) h0 (stopInterface_unbound hb ht),
      does_tdisp hfn hr (exec_stopInterfaceRequest fn) h0 rfl⟩
  case ide =>
    exact ⟨does_request hr (exec_ideKm none stream op) rfl rfl,
      fun h => does_request hr (exec_ideKm (some session) stream op) rfl (ideKm_outside h),
      fun h hs => does_request hr (exec_ideKm (some session) stream op) rfl (ideKm_noStream h hs),
      fun h hs => ⟨withIde stream op b, does_request hr (exec_ideKm (some session) stream op) rfl (ideKm_stream h hs),
        fun n hn => SMap.get_put_other _ _ _ _ _ hn, SMap.get_put_same ..⟩⟩

end Sys2Proof.Machine
end

section
/-! PROOFS. The step at the front of the queue, and the state after reset (R542, R950, R963). -/

namespace Sys2Proof.Machine

/-- Settles O1: a step of a queue with a front is `exec` of that front, by definition. -/
theorem stepRunsFrontCommand : Obligations.StepRunsFrontCommand := fun _ _ _ => rfl

/-- Settles O5: no command waits after reset, so none is ill formed. -/
theorem resetIsSafe : Obligations.ResetIsSafe := ⟨rfl, fun _ h => absurd h List.not_mem_nil⟩

/-- Every ring of a function that nothing has bound is disabled. -/
theorem rings_disabled_init (r : Nat) : (Func.init.cr r).en = false ∧ (Func.init.er r).en = false := by
  have ring : ∀ {α : Type} (a : α), (List.replicate 4 a).getD r a = a := fun a => by
    rw [List.getD_eq_getElem?_getD, List.getElem?_replicate]
    split <;> rfl
  exact ⟨congrArg CmdRing.en (ring CmdRing.init), congrArg EvRing.en (ring EvRing.init)⟩

/-- Settles O6: every map of the state after reset is empty, so each unit reads as its own value at reset. -/
theorem resetValues : Obligations.ResetValues :=
  ⟨rfl, rfl, rfl, fun _ => ⟨rfl, rfl, rings_disabled_init⟩, fun _ => rfl, fun _ => rfl, rfl, rfl, rfl, rfl, rfl, fun _ _ => rfl,
    fun _ => ⟨rfl, rfl, rfl⟩, rfl, rfl, rfl⟩

end Sys2Proof.Machine
end

section
/-! PROOFS. Unit power states (R924–R926): each row sets the gate of its unit and nothing else. -/

namespace Sys2Proof.Machine

theorem Block.core_modCore (b : Block) (c d : Nat) (f : Core → Core) :
    (b.modCore c f).core d = if d = c then f (b.core c) else b.core d := SMap.get_put ..

theorem Block.basin_modBasin (b : Block) (n m : Nat) (f : Basin → Basin) :
    (b.modBasin n f).basin m = if m = n then f (b.basin n) else b.basin m := SMap.get_put ..

section Gates
variable {b : Block} {u v : GateRef} {g : Gate}

@[simp] theorem Block.gate_setGate_same : (b.setGate u g).gate u = g := by
  rcases u with ⟨c, _ | _⟩ | ⟨n, _ | _⟩ <;> simp [Block.setGate, Block.gate, Block.core_modCore, Block.basin_modBasin]

/-- The two gates of a unit are two fields of its core or basin. -/
theorem Block.gate_setGate_other (h : v ≠ u) : (b.setGate u g).gate v = b.gate v := by
  rcases u with ⟨c, x⟩ | ⟨n, x⟩ <;> rcases v with ⟨d, y⟩ | ⟨m, y⟩
  case core.core =>
    by_cases same : d = c
    · subst same; cases x <;> cases y <;> simp_all [Block.setGate, Block.gate, Block.core_modCore]
    · cases x <;> cases y <;> simp [Block.setGate, Block.gate, Block.core_modCore, same]
  case basin.basin =>
    by_cases same : m = n
    · subst same; cases x <;> cases y <;> simp_all [Block.setGate, Block.gate, Block.basin_modBasin]
    · cases x <;> cases y <;> simp [Block.setGate, Block.gate, Block.basin_modBasin, same]
  case core.basin | basin.core => cases x <;> cases y <;> rfl

@[simp] theorem Block.mem_setGate : (b.setGate u g).mem = b.mem := by
  rcases u with ⟨c, _ | _⟩ | ⟨n, _ | _⟩ <;> rfl

/-- The gate of a unit alone is another. -/
structure GateTurned (u : GateRef) (g : Gate) (b b' : Block) : Prop where
  gate : b'.gate u = g
  mem : b'.mem = b.mem
  others : ∀ v, v ≠ u → b'.gate v = b.gate v

/-- A row that sets the gate of its unit. -/
theorem does_setGate {i : Instr} {f : Block → Block} (he : ∀ s, exec i s = onBlock s fun b => within (GateRef.ok u) b f)
    (hu : GateRef.ok u = true) (h : f b = b.setGate u g) : ∃ b', Does i b b' ∧ GateTurned u g b b' :=
  ⟨_, does_within he hu h, Block.gate_setGate_same, Block.mem_setGate, fun _ => Block.gate_setGate_other⟩

theorem GateTurned.turns {i : Instr} {st : PwrState} (hst : g.st = st) (h : ∃ b', Does i b b' ∧ GateTurned u g b b') :
    ∃ b', Does i b b' ∧ (b'.gate u).st = st ∧ b'.mem = b.mem ∧ ∀ v, v ≠ u → b'.gate v = b.gate v :=
  let ⟨b', hd, ht⟩ := h
  ⟨b', hd, by rw [ht.gate, hst], ht.mem, ht.others⟩

end Gates

/-- The gate that a write of 0 leaves; `held` where a command of the unit is held for it. -/
def Gate.stopped (held : Bool) (g : Gate) : Gate :=
  { g with en := false, pendingEn := g.pendingEn && held
           st := match g.st with
             | .on | .starting => .stopping
             | st => st }

/-- The gate that a write of 1 leaves (R926). -/
def Gate.enabled (g : Gate) : Gate :=
  match g.st with
  | .off => { g with en := true, st := .starting }
  | .stopping => { g with en := true, pendingEn := true }
  | _ => { g with en := true }

theorem Gate.en_enabled (g : Gate) : g.enabled.en = true := by
  unfold Gate.enabled; split <;> rfl

section Rows
variable {b : Block} {u : GateRef} (hu : GateRef.ok u = true)
include hu

theorem does_unitStop : ∃ held b', Does (.unitStop u) b b' ∧ GateTurned u ((b.gate u).stopped held) b b' :=
  ⟨_, does_setGate (exec_unitStop u) hu rfl⟩

theorem does_unitEnable : ∃ b', Does (.unitEnable u) b b' ∧ GateTurned u (b.gate u).enabled b b' :=
  does_setGate (exec_unitEnable u) hu rfl

theorem does_unitGated (hst : (b.gate u).st = .stopping) (hq : ∀ q ∈ gateQueues u, ∀ c ∈ b.queue q, c.phase ≠ .running) :
    ∃ b', Does (.unitGated u) b b' ∧ GateTurned u
      { b.gate u with st := if (b.gate u).pendingEn then .starting else .off, pendingEn := false } b b' := by
  refine does_setGate (exec_unitGated u) hu ?_
  have rest : ((gateQueues u).any fun q => (b.queue q).any fun c => c.phase == .running) = false := by
    simpa [List.any_eq_false] using hq
  simp [unitGated, hst, rest]

theorem does_unitStarted (hst : (b.gate u).st = .starting) :
    ∃ b', Does (.unitStarted u) b b' ∧ GateTurned u { b.gate u with st := .on } b b' :=
  does_setGate (exec_unitStarted u) hu (if_pos hst)

end Rows

/-- Settles O38, row by row: what each leaves in its unit's gate, by the state of that gate. -/
theorem unitGatesFollowTheirWrites : Obligations.UnitGatesFollowTheirWrites := by
  intro b u hu g turns
  obtain ⟨held, stop⟩ := does_unitStop (b := b) hu
  have enable := does_unitEnable (b := b) hu
  have stops : ∀ {st}, (g.stopped held).st = st → turns (.unitStop u) st := fun h => GateTurned.turns h stop
  have enables : ∀ {st}, g.enabled.st = st → turns (.unitEnable u) st := fun h => GateTurned.turns h enable
  refine ⟨fun h => stops (by simp [Gate.stopped, h]), fun h => stops (by simp [Gate.stopped, h]), ?notEnabled,
    fun h => enables (by simp [Gate.enabled, h]), fun h => enables (by simp [Gate.enabled, h]),
    fun h => ⟨enables (by simp [Gate.enabled, h]), ?pending⟩, ?isEnabled,
    fun h hq => GateTurned.turns rfl (does_unitGated hu h hq), fun h => GateTurned.turns rfl (does_unitStarted hu h)⟩
  case notEnabled =>
    obtain ⟨b', hd, ht⟩ := stop
    exact ⟨b', hd, by rw [ht.gate]; rfl⟩
  case pending =>
    obtain ⟨b', hd, ht⟩ := enable
    have pends : g.enabled.pendingEn = true := by simp [Gate.enabled, h]
    exact ⟨b', hd, by rw [ht.gate]; exact pends⟩
  case isEnabled =>
    obtain ⟨b', hd, ht⟩ := enable
    exact ⟨b', hd, by rw [ht.gate]; exact Gate.en_enabled g⟩

end Sys2Proof.Machine
end

section
/-! PROOFS. Flits that arrive on a link and the states a link goes through (R875–R879, R886, R888, R891). -/

namespace Sys2Proof.Machine

section Links
variable {b : Block} {l : Nat}

theorem link_modLink (b : Block) (l n : Nat) (f : Link → Link) :
    (b.modLink l f).link n = if n = l then f (b.link l) else b.link n := SMap.get_put ..

/-- Only what a change makes of the link it changes matters. -/
theorem modLink_congr {f g : Link → Link} (h : f (b.link l) = g (b.link l)) : b.modLink l f = b.modLink l g := by
  have same : f (b.kreash.link l) = g (b.kreash.link l) := h
  rw [Block.modLink, Block.modLink, Block.modKreash, Block.modKreash, same]

/-- A posted event record leaves the links alone. -/
theorem link_postEvent (n f : Nat) (st : Status) (source inst ctx slot : Nat) (detail : List Byte) (b : Block) :
    (postEvent f st source inst ctx slot detail b).link n = b.link n := by
  have h := unposted_postEvent f st source inst ctx slot detail b
  exact congrArg (·.link n) h

/-! ### A flit arrives -/

/-- The link counts the codewords that its FEC met (R875). -/
def fecCounted (l : Nat) (fec : FecOutcome) (b : Block) : Block :=
  b.modLink l fun x => { x with fecCorr := x.fecCorr + BitVec.ofNat 32 fec.corrected
                                fecUncorr := x.fecUncorr + BitVec.ofNat 16 fec.uncorrectable }

section Flit
variable {f : List Byte} {fec : FecOutcome}

theorem takeFlit_down (h : (b.link l).st ≠ .up) : takeFlit l f fec b = b := if_pos h

theorem takeFlit_bad (hup : (b.link l).st = .up) (h : fec.lost = true ∨ flitOk f = false) :
    takeFlit l f fec b = (fecCounted l fec b).modLink l fun x => { x with crcDrop := x.crcDrop + 1 } := by
  have bad : (!fec.lost && flitOk f) = false := by rcases h with h | h <;> simp [h]
  simp only [takeFlit, hup, bad]; rfl

section Sound
variable (hup : (b.link l).st = .up) (hlost : fec.lost = false) (hok : flitOk f = true)
include hup hlost hok

theorem takeFlit_sound : takeFlit l f fec b = rxFlit l f (fecCounted l fec b) := by
  simp only [takeFlit, hup, hlost, hok]; rfl

theorem takeFlit_own (hdst : fld f 0 2 = b.kreash.moduleId.toNat) : takeFlit l f fec b =
    if bitsOf (fld f 9 1) 2 2 = 0 then rxData l f (rxCredits f (fecCounted l fec b)) else rxCredits f (fecCounted l fec b) :=
  (takeFlit_sound hup hlost hok).trans (if_pos hdst)

theorem takeFlit_other (hdst : fld f 0 2 ≠ b.kreash.moduleId.toNat) : takeFlit l f fec b =
    match routeLink (fecCounted l fec b) (fld f 0 2) with
      | some l' => (fecCounted l fec b).modLink l' fun x => { x with sent := x.sent ++ [f] }
      | none => (fecCounted l fec b).modLink l fun x => { x with noRoute := x.noRoute + 1 } :=
  (takeFlit_sound hup hlost hok).trans (if_neg hdst)

end Sound
end Flit

/-! ### A link goes through its states -/

/-- A link that leaves UP notes it before its event record is posted (R891). -/
theorem leaveUp_up (dest : LinkState) (h : (b.link l).st = .up) : leaveUp l dest b =
    postEvent 0 .internal 0x05 l 0xFFFF 0xFF (leBytes 1 0x10 ++ leBytes 1 l ++ leBytes 2 (b.link l).peer.toNat)
      (b.modLink l fun x => { x with st := dest, downCount := x.downCount + 1 }) := by
  simp [leaveUp, h, linkEvent, link_modLink]

/-- Leaving a state, a link takes the other and counts an exit from UP. -/
theorem link_leaveUp (dest : LinkState) (n : Nat) : (leaveUp l dest b).link n = if n = l then
    { b.link l with st := dest, downCount := if (b.link l).st = .up then (b.link l).downCount + 1 else (b.link l).downCount }
    else b.link n := by
  by_cases h : (b.link l).st = .up
  · simp [leaveUp_up dest h, link_postEvent, link_modLink, h]
  · simp [leaveUp, h, link_modLink]

section Rows
variable (hl : l < 12)
include hl

theorem does_linkDisable : ∃ b', Does (.linkEnable l false) b b' ∧ (b'.link l).st = .disabled ∧ (b'.link l).en = false
    ∧ (b'.link l).downCount = (if (b.link l).st = .up then (b.link l).downCount + 1 else (b.link l).downCount)
    ∧ ∀ n, n ≠ l → b'.link n = b.link n := by
  refine ⟨_, does_within (exec_linkEnable l false) (decide_eq_true hl) rfl, ?_⟩
  simp only [linkEnable, Bool.false_eq_true, if_false, link_leaveUp, link_modLink, if_true, true_and]
  exact fun n hn => by rw [if_neg hn, if_neg hn]

theorem does_linkTrainDone (h : (b.link l).st = .train) :
    Does (.linkTrainDone l) b (b.modLink l fun x => { x with st := .ident }) :=
  does_within (exec_linkTrainDone l) (decide_eq_true hl) (modLink_congr (by simp [h]))

/-- A row that gives a link what it has changes no link. -/
theorem does_linkSame {i : Instr} {f : Link → Link} (he : ∀ s, exec i s = onBlock s fun b =>
    within (decide (l < 12)) b (·.modLink l f)) (h : f (b.link l) = b.link l) : ∃ b', Does i b b' ∧ ∀ n, b'.link n = b.link n := by
  refine ⟨_, does_within he (decide_eq_true hl) rfl, fun n => ?_⟩
  rw [link_modLink, h]
  split
  · subst_vars; rfl
  · rfl

theorem does_linkIdentDone (peer : BitVec 12) (h : (b.link l).st = .ident) : Does (.linkIdentDone l peer) b
    (postEvent 0 .internal 0x05 l 0xFFFF 0xFF (leBytes 1 0x11 ++ leBytes 1 l ++ leBytes 2 peer.toNat)
      (b.modLink l fun x => { x with st := .up, peer := peer })) :=
  does_within (exec_linkIdentDone l peer) (decide_eq_true hl) (by simp [h, linkEvent, link_modLink])

theorem does_linkIdentDone_other (peer : BitVec 12) (h : (b.link l).st ≠ .ident) : Does (.linkIdentDone l peer) b b :=
  does_within (exec_linkIdentDone l peer) (decide_eq_true hl) (if_neg h)

theorem does_linkDown (h : (b.link l).st = .up) : Does (.linkDown l) b (leaveUp l .train b) :=
  does_within (exec_linkDown l) (decide_eq_true hl) (if_pos h)

theorem does_linkDown_other (h : (b.link l).st ≠ .up) : Does (.linkDown l) b b :=
  does_within (exec_linkDown l) (decide_eq_true hl) (if_neg h)

end Rows
end Links

/-- Settles O55: a flit by what its link, its checks and its destination say, then each row of the links by the state it finds. -/
theorem kreashTakesAndForwards : Obligations.KreashTakesAndForwards := by
  intro b l hl up
  have takes : ∀ {f fec b'}, takeFlit l f fec b = b' → Does (.flitRx l f fec) b b' := fun h => h ▸ does_flitRx _ _ b hl
  refine ⟨?flit, does_within (exec_linkEnable l true) (decide_eq_true hl) rfl, does_linkDisable hl, does_linkTrainDone hl,
    fun h => does_linkSame hl (exec_linkTrainDone l) (by simp [h]), does_linkSame hl (exec_linkTrainRetry l) ?retry,
    fun peer => ⟨does_linkIdentDone hl peer, does_linkIdentDone_other hl peer⟩, fun hup => ?down, does_linkDown_other hl⟩
  case flit =>
    intro f fec c
    exact ⟨fun hn => takes (takeFlit_down hn), fun hup hbad => takes (takeFlit_bad hup hbad),
      fun hup hlost hok hdst => takes (takeFlit_own hup hlost hok hdst),
      fun hup hlost hok hdst => takes (takeFlit_other hup hlost hok hdst)⟩
  case retry =>
    by_cases h : (b.link l).st = .train
    · simp [← h]
    · simp [h]
  case down => exact leaveUp_up .train hup ▸ does_linkDown hl hup

end Sys2Proof.Machine
end

section
/-! PROOFS. The function page, interrupts, function resets and the link's own requests (R839, R841, R851–R861, R948). -/

namespace Sys2Proof.Machine

/-- Bit fields that are read off a word by division. -/
theorem ofNat_bitsOf (v lo len : Nat) : BitVec.ofNat len (bitsOf v lo len) = BitVec.ofNat len (v / 2 ^ lo) := by
  rw [bitsOf_eq]
  exact BitVec.eq_of_toNat_eq (by simp)

theorem bitOf_toNat {w : Nat} (v : BitVec w) (n : Nat) : bitOf v.toNat n = v.getLsbD n := bitOf_eq_testBit ..

section Page
variable {b : Block} {f : Nat} (hf : f < 64)
include hf

section Writes
variable (hu : fwUp b = true) {c : BitVec 2} {v : U64}
include hu

/-- A row of the function page takes its effect while the module is ready (R949). -/
theorem does_whenUp {i : Instr} {g : Block → Block} {b' : Block}
    (he : ∀ s, exec i s = onBlock s fun b => within (decide (f < 64)) b (whenUp g)) (h : g b = b') : Does i b b' :=
  does_within he (decide_eq_true hf) ((if_pos hu).trans h)

theorem does_hiCrCtrl_enables (h : v.getLsbD 5 = true) : Does (.hiCrCtrl f c v) b (b.modFunc f fun x => x.setCr c.toNat
    { x.cr c.toNat with size := BitVec.ofNat 5 (if 6 ≤ v.toNat % 32 ∧ v.toNat % 32 ≤ 16 then v.toNat % 32 else 6), en := true }) :=
  does_whenUp hf hu (exec_hiCrCtrl f c v) (by simp only [writeCrCtrl, bitsOf_zero, bitOf_toNat, h]; rfl)

theorem does_hiCrCtrl_disables (h : v.getLsbD 5 = false) : Does (.hiCrCtrl f c v) b (b.modFunc f fun x => x.setCr c.toNat
    { x.cr c.toNat with size := BitVec.ofNat 5 (if 6 ≤ v.toNat % 32 ∧ v.toNat % 32 ≤ 16 then v.toNat % 32 else 6), en := false
                        err := false, head := 0, tail := 0 }) :=
  does_whenUp hf hu (exec_hiCrCtrl f c v) (by simp only [writeCrCtrl, bitsOf_zero, bitOf_toNat, h]; rfl)

/-- The fields of `HI_ER_CTRL_e` as a write of it gives them. -/
def EvRing.controlled (v : U64) (e : EvRing) : EvRing :=
  { e with size := BitVec.ofNat 5 (if 8 ≤ v.toNat % 32 ∧ v.toNat % 32 ≤ 20 then v.toNat % 32 else 8), en := v.getLsbD 5
           vec := BitVec.ofNat 5 (v.toNat / 64), modCount := BitVec.ofNat 8 (v.toNat / 2 ^ 16)
           modUs := BitVec.ofNat 16 (v.toNat / 2 ^ 24) }

omit hf hu in
theorem writeErCtrl_eq : writeErCtrl f c.toNat v.toNat b = b.modFunc f fun x =>
    if v.getLsbD 5 then x.setEr c.toNat ((x.er c.toNat).controlled v)
    else { x.setEr c.toNat { (x.er c.toNat).controlled v with head := 0, tail := 0, lost := 0, lostUnreported := 0, sinceIrq := 0 } with
      held := x.held.filter fun h => h.1 != c.toNat } := by
  simp only [writeErCtrl, bitsOf_zero, bitOf_toNat, ofNat_bitsOf]; rfl

theorem does_hiErCtrl_enables (h : v.getLsbD 5 = true) : Does (.hiErCtrl f c v) b (b.modFunc f fun x => x.setEr c.toNat
    { (x.er c.toNat).controlled v with en := true }) :=
  does_whenUp hf hu (exec_hiErCtrl f c v) (by simp only [writeErCtrl_eq, EvRing.controlled, h]; rfl)

theorem does_hiErCtrl_disables (h : v.getLsbD 5 = false) : Does (.hiErCtrl f c v) b (b.modFunc f fun x =>
    { x.setEr c.toNat { (x.er c.toNat).controlled v with
        en := false, head := 0, tail := 0, lost := 0, lostUnreported := 0, sinceIrq := 0 } with
      held := x.held.filter fun h => h.1 != c.toNat }) :=
  does_whenUp hf hu (exec_hiErCtrl f c v) (by simp only [writeErCtrl_eq, EvRing.controlled, h]; rfl)

section Head
variable {e : EvRing} {head : U32} (he : e = (b.func f).er c.toNat) (hh : head = BitVec.ofNat 32 v.toNat)
include he hh

theorem does_hiErHead_within (h : (head - e.head).toNat ≤ (e.tail - e.head).toNat) : Does (.hiErHead f c v) b
    (releaseHeld f c.toNat 257 (b.modFunc f fun x => x.setEr c.toNat { x.er c.toNat with head := head })) := by
  subst he hh
  exact does_whenUp hf hu (exec_hiErHead f c v) (if_neg (Nat.not_lt.2 h))

theorem does_hiErHead_beyond (h : (e.tail - e.head).toNat < (head - e.head).toNat) : Does (.hiErHead f c v) b b := by
  subst he hh
  exact does_whenUp hf hu (exec_hiErHead f c v) (if_pos h)

end Head
end Writes

theorem does_interruptModTimer {c : BitVec 2} {e : EvRing} (he : e = (b.func f).er c.toNat) (hen : e.en = true) (hus : e.modUs ≠ 0)
    (hirq : 0 < e.sinceIrq) (hne : e.head ≠ e.tail) : Does (.interruptModTimer f c) b
      (raiseVector f e.vec.toNat (b.modFunc f fun x => x.setEr c.toNat { x.er c.toNat with sinceIrq := 0 })) := by
  subst he
  exact does_within (exec_interruptModTimer f c) (decide_eq_true hf) (if_pos (by simp [hen, hirq, hne]; exact hus))

end Page

/-! ### Vectors -/

section Vectors
variable {b : Block} {f v : Nat}

theorem func_modFunc (b : Block) (n m : Nat) (g : Func → Func) :
    (b.modFunc n g).func m = if m = n then g (b.func n) else b.func m := SMap.get_put ..

/-- A function with a vector that is neither masked nor pending. -/
def Func.unmask (v : Nat) (x : Func) : Func :=
  { x with vecMask := x.vecMask &&& ~~~(1#32 <<< v), vecPending := x.vecPending &&& ~~~(1#32 <<< v) }

/-- A function with one more interrupt of a vector raised. -/
def Func.raised (v : Nat) (x : Func) : Func := { x with irqs := SMap.put 0 v (SMap.get 0 v x.irqs + 1) x.irqs }

/-- A vector that is unmasked is neither masked nor pending, and is raised if it was pending (R855). -/
theorem func_unmaskVector (hv : v < 32) (k : Nat) : (unmaskVector f v b).func k = if k = f then
    (if (b.func f).vecPending.getLsbD v then ((b.func f).unmask v).raised v else (b.func f).unmask v) else b.func k := by
  have unmasked : bitOf ((b.func f).unmask v).vecMask.toNat v = false := by rw [bitOf_toNat]; simp [Func.unmask, hv]
  have unmask : ∀ n, (b.modFunc f (Func.unmask v)).func n = if n = f then (b.func f).unmask v else b.func n :=
    fun _ => func_modFunc ..
  have eq : unmaskVector f v b = if (b.func f).vecPending.getLsbD v then raiseVector f v (b.modFunc f (Func.unmask v))
      else b.modFunc f (Func.unmask v) := by simp only [unmaskVector, bitOf_toNat]; rfl
  rw [eq]
  split
  · simp only [raiseVector, func_modFunc, unmask, if_true, unmasked]
    split <;> rfl
  · exact unmask k

theorem mem_unmaskVector : (unmaskVector f v b).mem = b.mem := by
  simp only [unmaskVector]; split <;> rfl

theorem does_msixUnmask (hf : f < 64) (hu : fwUp b = true) (v : BitVec 5) : ∃ b', Does (.msixUnmask f v) b b'
    ∧ (b'.func f).vecMask.getLsbD v.toNat = false ∧ (b'.func f).vecPending.getLsbD v.toNat = false
    ∧ SMap.get 0 v.toNat (b'.func f).irqs = SMap.get 0 v.toNat (b.func f).irqs + (if (b.func f).vecPending.getLsbD v.toNat then 1 else 0)
    ∧ (∀ k, k ≠ f → b'.func k = b.func k) ∧ b'.mem = b.mem := by
  have hv : v.toNat < 32 := v.isLt
  refine ⟨_, does_whenUp hf hu (exec_msixUnmask f v) rfl, ?_, ?_, ?_, fun k hk => by rw [func_unmaskVector hv, if_neg hk],
    mem_unmaskVector⟩ <;> rw [func_unmaskVector hv, if_pos rfl] <;> split <;> simp [Func.unmask, Func.raised, hv]

end Vectors

/-! ### Function Level Reset, configuration requests and errors of the link -/

section Requests
variable {b : Block} {f : Nat} (hf : f < 64)

/-- A reset of one function leaves its page at the values of a reset, but for what is no part of the page (R859). -/
theorem func_resetFunction (f : Nat) (b : Block) : ∃ y : Func, (resetFunction f b).func f = { Func.init with
    bound := y.bound, irqs := y.irqs, tdi := y.tdi, offerSeed := y.offerSeed, cfgRetry := y.cfgRetry, cfgReply := y.cfgReply,
    vfBar0 := y.vfBar0, aer := y.aer } := ⟨_, Block.func_setFunc_same ..⟩

include hf

theorem does_functionLevelReset (hu : fwUp b = true) : Does (.functionLevelReset f) b (flr f b) :=
  does_whenUp hf hu (exec_functionLevelReset f) rfl

section Config
variable (hm : b.th.mainUp = true) (hp : b.th.perstN = true)
include hm hp

theorem does_configRequest_answered (h : b.th.cfgUp = true ∨ b.th.perstAt + 12000000 ≤ b.gl.timebase.toNat) :
    Does (.configRequest f) b (configAnswer f true b) :=
  does_within (exec_configRequest f) (decide_eq_true hf) (by rcases h with h | h <;> simp [configRequest, hm, hp, h])

/-- Before 120 ms a request may be answered or retried, as a free value says (R948). -/
theorem does_configRequest_early (h : b.th.cfgUp = false) (ht : b.gl.timebase.toNat < b.th.perstAt + 12000000) :
    ∃ yes, Does (.configRequest f) b (configAnswer f yes (b.spent 1)) :=
  ⟨_, does_within (exec_configRequest f) (decide_eq_true hf) (by
    simp only [configRequest, hm, hp, h, Nat.not_le.2 ht, decide_false]; rfl)⟩

end Config

theorem does_atsInvalidation (addr len : Nat) : Does (.atsInvalidation f addr len) b (atsInvalidate f addr len b) :=
  does_within (exec_atsInvalidation f addr len) (decide_eq_true hf) rfl

omit hf in
theorem mem_ats_atsInvalidate (addr len : Nat) (e : Nat × Nat) : e ∈ (atsInvalidate f addr len b).host.ats ↔
    e ∈ b.host.ats ∧ ¬ (e.1 = f ∧ addr / 4096 ≤ e.2 ∧ e.2 * 4096 < addr + len) := by
  simp only [atsInvalidate, List.mem_filter, Bool.not_eq_true', Bool.and_eq_false_iff, beq_eq_false_iff_ne, decide_eq_false_iff_not]
  exact and_congr_right fun _ => by omega

end Requests

/-- An error stands in the function's AER status, and in no other's (R858). -/
theorem mem_aer_reportAer (f : Nat) (e : AerError) (b : Block) : e ∈ ((reportAer f e b).func f).aer := by
  rw [reportAer, func_modFunc, if_pos rfl]
  simp only
  split
  case isTrue h => simpa using h
  case isFalse => simp

/-- Settles O44, row by row: what a write of the function page leaves, and what the host's and the link's requests do. -/
theorem functionPageEffects : Obligations.FunctionPageEffects := by
  intro b f hf
  refine ⟨fun hu c v => ?writes, fun c => ?timer, fun hu v => does_msixUnmask hf hu v, fun hu => ⟨fun _ => ?virtual, fun h0 => ?physical⟩,
    fun hm hp => ⟨does_configRequest_answered hf hm hp, does_configRequest_early hf hm hp⟩,
    fun addr len => ⟨_, does_atsInvalidation hf addr len, rfl, mem_ats_atsInvalidate addr len⟩,
    does_of exec_pcieFatalError rfl, mem_aer_reportAer 0 .fatal b, fun k hk => ?others⟩
  case writes =>
    exact ⟨does_hiCrCtrl_enables hf hu, does_hiCrCtrl_disables hf hu, does_hiErCtrl_enables hf hu, does_hiErCtrl_disables hf hu,
      does_hiErHead_within hf hu rfl rfl, does_hiErHead_beyond hf hu rfl rfl⟩
  case timer => exact does_interruptModTimer hf rfl
  case virtual => exact ⟨_, does_functionLevelReset hf hu, by rw [flr, if_neg ‹_›]; exact func_resetFunction f b⟩
  case physical => exact ⟨_, does_functionLevelReset hf hu, by rw [flr, if_pos h0]⟩
  case others => rw [reportAer, func_modFunc, if_neg hk]

end Sys2Proof.Machine
end

section
/-! PROOFS. The operations of a migration (R862–R871): each where it completes with OK, and a stream that is refused. -/

namespace Sys2Proof.Machine

/-- Bytes with the module's two signatures after them. -/
def withSignatures (bs : List Byte) : List Byte := bs ++ rsaSig bs ++ slhSig bs

/-- The offer of a module, before its signatures (R862 step 1). -/
def offerBody (fwVersion : U32) (seed : BitVec 256) : List Byte :=
  offerMagic ++ leBytes 2 1 ++ partNumber ++ leBytes 4 fwVersion.toNat ++ deviceId ++ Config.kemKeygen seed ++ chains.1 ++ chains.2

/-- The capsule for the module whose identity is `id`, before its signatures (R862 step 2). -/
def capsuleBody (id ct : List Byte) : List Byte := capsuleMagic ++ deviceId ++ id ++ ct

/-- The key of the stream that a capsule begins, where the offer it answers was made with `seed` (R862 step 4). -/
def streamKey (seed : BitVec 256) (capsule : List Byte) : List Byte :=
  migKeyOf ((capsule.drop 4).take 48) deviceId (Config.kemDecaps seed ((capsule.drop 100).take 1568))

/-- The records of a stream under a key; none where R870 refuses them. -/
def openedStream (key bs : List Byte) : Option (List OpenRec) := openStream key (bs.length / 80 + 1) 0 [] bs

/-- A capsule for this module. -/
def capsuleMine (capsule : List Byte) : Prop := capsule.take 4 = capsuleMagic ∧ (capsule.drop 52).take 48 = deviceId

section Operations
variable {b b₁ b₂ b₃ : Block} {p : Poster} {t : Taken} {v : Nat}

@[simp] theorem posterFn_drawSecret (q : Poster) (b : Block) : posterFn (drawSecret b).2 q = posterFn b q := rfl
@[simp] theorem fwVersion_drawSecret (b : Block) : (drawSecret b).2.attest.fwVersion = b.attest.fwVersion := rfl

/-! ### What a discard leaves -/

@[simp] theorem dropFreeze_slots (f : Nat) (b : Block) : (dropFreeze f b).slots = b.slots :=
  foldl_keeps Block.slots _ (fun _ _ => by split <;> rfl) _ _
@[simp] theorem dropFreeze_adapters (f : Nat) (b : Block) : (dropFreeze f b).adapters = b.adapters :=
  foldl_keeps Block.adapters _ (fun _ _ => by split <;> rfl) _ _

theorem slot_freed {k : Nat} {ks : List Nat} (hk : k ∈ ks) (b : Block) : (ks.foldl (fun s k => s.setSlot k .init) b).slot k = .init :=
  foldl_establishes (P := fun s : Block => s.slot k = .init) (f := fun s j => s.setSlot j .init) (fun _ => Block.slot_setSlot_same ..)
    (fun s x hx hs => (Block.slot_setSlot_other s x k .init (Ne.symm hx)).trans hs) hk b

/-- The function's contexts ended, and its slots and what hangs on them gone (R867). -/
def discarded (v : Nat) (b : Block) : Block :=
  let ks := slotsOfFn b v
  let s := ks.foldl (fun s k => s.setSlot k .init) ((contextsOf b v).foldl (fun s c => endContext c s) b)
  let s := dropFreeze v (s.modAd fun a =>
    { a with dir := a.dir.filter (fun e => !ks.contains e.2.slot), reservoirs := a.reservoirs.filter fun r => !ks.contains r.keySlot })
  s.modFunc v fun x =>
    { x with frozen := false, frozenThreads := [], frozenUnits := [], frozenGroups := [], dirtyLog := false, migKey := none, saved := [], migCt := [] }

theorem slot_discarded {k : Nat} (hk : k ∈ slotsOfFn b v) : (discarded v b).slot k = .init := by
  have freed := slot_freed hk ((contextsOf b v).foldl (fun s c => endContext c s) b)
  simp only [Block.slot] at freed ⊢
  simpa [discarded, Block.modFunc, Block.setFunc, Block.modAd] using freed

theorem func_discarded : ((discarded v b).func v).frozen = false ∧ ((discarded v b).func v).migKey = none := by
  simp only [discarded, func_modFunc, if_true, true_and]

theorem dir_discarded {e : Nat × DirEntry} (he : e ∈ (discarded v b).adapters.dir) : e.2.slot ∉ slotsOfFn b v := by
  simp only [discarded, Block.modFunc, Block.setFunc, dropFreeze_adapters, Block.modAd, List.mem_filter] at he
  simpa using he.2

variable (hv : migFn t = some v) (hid : b.attest.identityOk = true)
include hv hid

theorem onVf_of (f : Nat → Block) : onVf t b f = f v := by simp [onVf, hv, hid]

/-- The row of a migration operation, whose entry may run, takes its effect on the function it names. -/
theorem does_onVf {i : Instr} {op : Nat} {f : Taken → Block → Block} {g : Nat → Block} {b' : Block}
    (he : ∀ s, exec i s = onBlock s fun b => within (posterOk p) b (runOp p op f)) (h : opReady b p op t)
    (hf : f t b = onVf t b g) (hg : g v = b') : Does i b b' :=
  does_runOp he h (hf.trans ((onVf_of hv hid g).trans hg))

/-! ### The key, and the dirty log -/

theorem does_migOffer (h : opReady b p 0x50 t)
    (hput : hostPut (posterFn b p) (t.arg 1) (withSignatures (offerBody b.attest.fwVersion (drawSecret b).1)) (drawSecret b).2
      = (.ok (), b₁)) :
    Does (.migOffer p) b (complete p .ok (withSignatures (offerBody b.attest.fwVersion (drawSecret b).1)).length
      (b₁.modFunc v fun x => { x with offerSeed := some (drawSecret b).1 })) := by
  refine does_onVf hv hid (exec_migOffer p) h rfl ?_
  simp only [withSignatures, offerBody] at hput ⊢
  simp only [h.names, posterFn_drawSecret, fwVersion_drawSecret, hput]

theorem does_migKey (h : opReady b p 0x51 t) {id ek bs : List Byte} {n : Nat}
    (hoffer : readOffer b (Mem.read b.mem.host (t.arg 1) 0x20_0000) = some (id, ek, n))
    (hread : hostRead (posterFn b p) (t.arg 1) n b = (.ok bs, b₁))
    (hput : hostPut (posterFn b p) (t.arg 2) (withSignatures (capsuleBody id (Config.kemEncaps ek b₁.attest.drbgCtr).1))
      (b₁.modAttest fun a => { a with drbgCtr := a.drbgCtr + 1 }) = (.ok (), b₂)) :
    Does (.migKey p) b (complete p .ok (withSignatures (capsuleBody id (Config.kemEncaps ek b₁.attest.drbgCtr).1)).length
      (b₂.modFunc v fun x => { x with
        migKey := some (migKeyOf deviceId id (Config.kemEncaps ek b₁.attest.drbgCtr).2), migSeq := 0, migCt := [], saved := [] })) := by
  refine does_onVf hv hid (exec_migKey p) h rfl ?_
  simp only [withSignatures, capsuleBody] at hput ⊢
  simp only [h.names, hoffer, hread, hput]

theorem does_migDirty (h : opReady b p 0x52 t) : Does (.migDirty p) b (complete p .ok 0 (b.modFunc v fun x =>
    { x with dirtyLog := bitOf (t.arg 1) 0, saved := if bitOf (t.arg 1) 0 && !x.dirtyLog then [] else x.saved })) :=
  does_onVf hv hid (exec_migDirty p) h rfl (by rw [h.names])

/-! ### Freeze, save, thaw and discard -/

omit hv hid in
/-- An entry of MIG_FREEZE that has not started begins its freeze. -/
theorem does_migFreeze_fresh (h : opReady b p 0x53 t) (hf : migFreeze t b = b₁) : Does (.migFreeze p) b b₁ := by
  refine does_within (exec_migFreeze p) h.poster ?_
  have run := runOp_of migFreeze h
  rw [within_of b _ h.poster, hf] at run
  simp only [migFreezeStep, h.taken, h.fresh]
  exact Host.Outcome.next.inj run

theorem does_migFreeze_waits (h : opReady b p 0x53 t)
    (htd : (b.teardowns.any fun y => (slotsOfFn b v).contains y.slot) = true) : Does (.migFreeze p) b b :=
  does_migFreeze_fresh h ((onVf_of hv hid _).trans (if_pos htd))

theorem does_migFreeze_begins (h : opReady b p 0x53 t)
    (htd : (b.teardowns.any fun y => (slotsOfFn b v).contains y.slot) = false) :
    Does (.migFreeze p) b (freezeOn v t (markStarted p (b.modFunc v fun x =>
      { x with frozen := true, frozenThreads := [], frozenUnits := [], frozenGroups := [] }))) :=
  does_migFreeze_fresh h ((onVf_of hv hid _).trans (by simp only [htd, h.names]; rfl))

omit hid in
theorem does_migFreeze_goesOn (hp : posterOk p = true) (ht : b.host.taken.find? (fun y => y.poster == p) = some t)
    (hs : t.started = true) (hop : t.op = 0x53) (hu : fwUp b = true) : Does (.migFreeze p) b (freezeOn v t b) :=
  does_within (exec_migFreeze p) hp (by simp [migFreezeStep, ht, hs, hop, hv, hu])

theorem does_migSave (h : opReady b p 0x54 t) (hkey : (b.func v).migKey.isSome = true) (halign : t.arg 2 % 65536 = 0)
    (hsize : 0x10_0000 ≤ t.arg 2) {done : Nat} {more : Bool}
    (hw : writeRecs v (t.arg 1) (if (b.func v).frozen then finalRecs b v else if (b.func v).dirtyLog then pageRecs b v else []) (t.arg 2) 0 b
      = (.ok (done, more), b₁)) :
    Does (.migSave p) b (complete p .ok (done % 2 ^ 32 + if more then 2 ^ 32 else 0) b₁) := by
  refine does_onVf hv hid (exec_migSave p) h rfl ?_
  have sound : ¬ ((b.func v).migKey.isNone || t.arg 2 % 65536 ≠ 0 || t.arg 2 < 0x10_0000) = true := by
    simp [← Option.not_isSome, hkey, halign, hsize]
  simp only [if_neg sound, hw, h.names]
  cases more <;> rfl

theorem does_migThaw (h : opReady b p 0x55 t) (hf : (b.func v).frozen = true) (hr : (b.func v).migRestored = false) :
    Does (.migThaw p) b (complete p .ok 0 (thaw v b)) :=
  does_onVf hv hid (exec_migThaw p) h rfl (by simp [hf, hr, h.names])

theorem does_migStart (h : opReady b p 0x58 t) (hr : (b.func v).migRestored = true) :
    Does (.migStart p) b (complete p .ok 0 (thaw v b)) :=
  does_onVf hv hid (exec_migStart p) h rfl (by simp [hr, h.names])

theorem does_migDiscard (h : opReady b p 0x56 t) : Does (.migDiscard p) b (complete p .ok 0 (discarded v b)) :=
  does_onVf hv hid (exec_migDiscard p) h rfl (by rw [h.names]; rfl)

/-! ### A stream is restored -/

section Restore
variable (h : opReady b p 0x57 t) {seed : BitVec 256} {part : Nat} {c bs : List Byte} (hseed : (b.func v).offerSeed = some seed)
  (hpart : (b.func v).bound = some part)
  (hc : hostRead (posterFn b p) (t.arg 1) (4 + 96 + 1568 + 384 + 16224) (b.modFunc v fun x => { x with offerSeed := none }) = (.ok c, b₁))
  (hbs : hostRead (posterFn b p) (t.arg 2) (t.arg 3) b₁ = (.ok bs, b₂))
include h hseed hpart hc hbs

theorem does_migRestore_foreign (hm : c.take 4 ≠ capsuleMagic ∨ (c.drop 52).take 48 ≠ deviceId) :
    Does (.migRestore p) b (fail t .permFault b₂) := by
  refine does_onVf hv hid (exec_migRestore p) h rfl ?_
  have foreign : (c.take 4 ≠ capsuleMagic || (c.drop 52).take 48 ≠ deviceId) = true := by
    simpa using hm
  simp only [h.names, hseed, hpart, hc, hbs, foreign, if_true]

variable (hm : capsuleMine c)
include hm

theorem does_migRestore_refused (hs : openedStream (streamKey seed c) bs = none) : Does (.migRestore p) b (fail t .internal b₂) := by
  refine does_onVf hv hid (exec_migRestore p) h rfl ?_
  simp only [openedStream, streamKey] at hs
  simp [h.names, hseed, hpart, hc, hbs, hm.left, hm.right, hs]

theorem does_migRestore_applies {rs : List OpenRec} {ks : List Byte × List Byte}
    (hs : openedStream (streamKey seed c) bs = some rs)
    {crs : List CmdRing} {ers : List EvRing} {n : Nat} {ticks : List (Nat × Nat)} {reqs : List Request} {taken : List Taken}
    {ch : List Byte × List Byte} {bases : List (Nat × List Byte)}
    (hitem : (rs.find? fun r => r.type == 1).bind OpenRec.item = some (.function crs ers n ticks reqs taken ch bases))
    (hks : Config.chainKeys ch.1 ch.2 = some ks) (hsrc : sha384 (ks.1 ++ ks.2) = (c.drop 4).take 48)
    (hsig : signedBy ks (c.take 1668) ((c.drop 1668).take 384) ((c.drop 2052).take 16224) = true)
    (happly : applyStream v part rs b₂ = some b₃) :
    Does (.migRestore p) b (complete p .ok 0 (b₃.modFunc v fun x =>
      { x with frozen := true, migRestored := true, frozenThreads := fnThreads b₃ v
               frozenUnits := (fnBasins b₃ v).flatMap fun k => (4096 + k) :: (List.range 16).map fun i => k * 16 + i })) := by
  refine does_onVf hv hid (exec_migRestore p) h rfl ?_
  simp only [openedStream, streamKey] at hs
  simp [h.names, hseed, hpart, hc, hbs, hm.left, hm.right, hs, hitem, hks, hsrc, hsig, happly]

end Restore
end Operations

/-- Settles O49, operation by operation: its operands meet what it asks of them, so it takes its effect on the function it names. -/
theorem migrationOperations : Obligations.MigrationOperations := by
  intro b p t v hv hid f x
  refine ⟨fun h b₁ => does_migOffer hv hid h, fun h id ek n bs b₁ b₂ hoffer hread => does_migKey hv hid h hoffer hread,
    does_migDirty hv hid, fun h => ⟨does_migFreeze_waits hv hid h, does_migFreeze_begins hv hid h⟩, does_migFreeze_goesOn hv,
    fun h hkey halign hsize done more b₁ => does_migSave hv hid h hkey halign hsize, does_migThaw hv hid,
    fun h => ⟨_, does_migDiscard hv hid h, fun k => slot_discarded, func_discarded.1, func_discarded.2, fun e => dir_discarded⟩,
    fun h seed part c b₁ bs b₂ hseed hpart hc hbs => ?restore, does_migStart hv hid⟩
  case restore =>
    exact ⟨does_migRestore_foreign hv hid h hseed hpart hc hbs,
      fun hmagic hdevice => ⟨does_migRestore_refused hv hid h hseed hpart hc hbs ⟨hmagic, hdevice⟩,
        fun rs crs ers n ticks reqs taken ch bases ks b₃ hs hitem hks hsrc hsig happly =>
          does_migRestore_applies hv hid h hseed hpart hc hbs ⟨hmagic, hdevice⟩ hs hitem hks hsrc hsig happly⟩⟩

end Sys2Proof.Machine
end

section
/-! PROOFS. The tollhouse's operations, from the mailbox and from the sideband, and the sideband's own (R961, R971–R978). -/

namespace Sys2Proof.Machine

/-- A row that only needs its effect on the block. -/
theorem does_next {i : Instr} {f : Block → Block} {b b' : Block} (he : ∀ s, exec i s = onBlock s fun b => .next (f b))
    (h : f b = b') : Does i b b' := does_of he (congrArg _ h)

/-- An operation of the tollhouse may run: the mailbox's GO has started it, or the sideband's does not wait for one of the mailbox. -/
def thBegun (src : ThSource) (op : Nat) (b : Block) : Prop := match src with
  | .mailbox => b.th.cmdGo = true ∧ b.th.cmdRun.toNat = op
  | .sideband _ _ => sidebandWaits op b = false

/-- An operation of the tollhouse ends with a status (R971, R976). -/
def thEnds (src : ThSource) (st : Status) (b : Block) : Block := match src with
  | .mailbox => { b with th := { b.th with cmdGo := false, cmdResult := st } }
  | .sideband _ _ => { b with th := { b.th with reply := sidebandReply (leBytes 1 st.code) } }

section Operations
variable {b b' : Block} {src : ThSource} {op : Nat} {st : Status} (hr : b.th.railUp = true)
include hr

theorem thOp_begun {f : Block → Block × Status × List Byte} (h : thBegun src op b) (hf : f b = (b', st, [])) :
    thOp src op f b = thEnds src st b' := by
  cases src with
  | mailbox =>
    obtain ⟨hgo, hop⟩ := h
    simp [thOp, hr, hgo, hop, hf]; rfl
  | sideband arg nonce =>
    have hw : sidebandWaits op b = false := h
    simp [thOp, hr, hw, hf]; rfl

theorem thOp_idle {f : Block → Block × Status × List Byte} (h : ¬ thBegun src op b) : thOp src op f b = b := by
  cases src with
  | mailbox =>
    have idle : (!b.th.cmdGo || b.th.cmdRun.toNat ≠ op) = true := by simpa [thBegun, imp_iff_not_or] using h
    simp only [thOp, hr, if_pos idle]
    rfl
  | sideband arg nonce =>
    have hw : sidebandWaits op b = true := by simpa [thBegun] using h
    simp [thOp, hr, hw]

/-! ### What the operations do -/

theorem does_report_mailbox {r : List Byte} (h : thBegun .mailbox 2 b)
    (hrep : thReport (Mem.read b.th.report 0 32) (b.th.arg.truncate 32) b = (r, b')) : Does (.report .mailbox) b (thEnds .mailbox .ok
      { b' with th := { b'.th with report := Mem.write b'.th.report 32 (r.take (32768 - 32)) } }) :=
  does_next (exec_report .mailbox) (thOp_begun hr h (by simp only [hrep]; rfl))

/-- The sideband's report is the response itself. -/
theorem does_report_sideband {arg : U64} {nonce r : List Byte} (h : thBegun (.sideband arg nonce) 2 b)
    (hrep : thReport nonce (arg.truncate 32) b = (r, b')) (hne : r ≠ []) :
    Does (.report (.sideband arg nonce)) b { b' with th := { b'.th with reply := sidebandReply r } } := by
  refine does_next (exec_report _) ?_
  have hw : sidebandWaits 2 b = false := h
  have full : r.isEmpty = false := by simpa using hne
  simp [report, thOp, hr, hw, hrep, full]; rfl

theorem does_resetWarm (h : thBegun src 4 b) (h' : (if b.th.mainUp then warmReset 4 b else b) = b') :
    Does (.resetWarm src) b (thEnds src .ok b') :=
  does_next (exec_resetWarm src) (thOp_begun hr h (by rw [h']))

theorem does_powerOff (h : thBegun src 6 b) (h' : (if b.th.mainUp then standby 7 b else freeAllSlots b) = b') :
    Does (.powerOff src) b (thEnds src .ok b') :=
  does_next (exec_powerOff src) (thOp_begun hr h (by rw [h']))

/-! ### CFG_WRITE -/

omit hr in
/-- The bytes of BAR2 that an operation names. -/
def cfgLength (src : ThSource) (b : Block) : Nat := match src with
  | .mailbox => b.th.arg.toNat
  | .sideband arg _ => arg.toNat

section CfgWrite
variable (h : thBegun src 7 b)
include h

theorem does_cfgWrite_late (ht : ¬ (b.th.stage = .waitBundle ∨ b.th.stage = .ready)) : Does (.cfgWrite src) b (thEnds src .busy b) :=
  does_next (exec_cfgWrite src) (thOp_begun hr h (if_pos (by simpa using ht)))

variable (ht : b.th.stage = .waitBundle ∨ b.th.stage = .ready)
include ht

theorem does_cfgWrite_bad (hbad : 0x40_0000 < cfgLength src b ∨ recordIn (Mem.read b.th.bar2 0 (cfgLength src b)) = none) :
    Does (.cfgWrite src) b (thEnds src .internal b) := by
  refine does_next (exec_cfgWrite src) (thOp_begun hr h ?_)
  refine (if_neg (by rcases ht with ht | ht <;> simp [ht])).trans ?_
  change (if 0x40_0000 < cfgLength src b then _ else if (recordIn (Mem.read b.th.bar2 0 (cfgLength src b))).isNone then _ else _) = _
  split
  · rfl
  · exact if_pos (by simp [hbad.resolve_left ‹_›])

theorem does_cfgWrite (hn : cfgLength src b ≤ 0x40_0000) (hrec : recordIn (Mem.read b.th.bar2 0 (cfgLength src b)) ≠ none) :
    Does (.cfgWrite src) b (thEnds src .ok { b with th :=
      if b.th.cfgCopy then { b.th with flashA := Mem.read b.th.bar2 0 (cfgLength src b) }
      else { b.th with flashB := Mem.read b.th.bar2 0 (cfgLength src b) } }) := by
  refine does_next (exec_cfgWrite src) (thOp_begun hr h ?_)
  refine (if_neg (by rcases ht with ht | ht <;> simp [ht])).trans ((if_neg (Nat.not_lt.2 hn)).trans (if_neg ?_))
  exact fun hnone => hrec (Option.isNone_iff_eq_none.1 hnone)

end CfgWrite

/-! ### The sideband's own rows -/

theorem does_setEndpointId {eid : Byte} (h0 : eid ≠ 0) (hff : eid ≠ 0xFF) :
    Does (.setEndpointId eid) b { b with th := { b.th with eid := eid } } :=
  does_next (exec_setEndpointId eid) (if_pos (by simp only [hr, bne_iff_ne.2 h0, bne_iff_ne.2 hff]; rfl))

omit hr in
theorem does_setEndpointId_reserved {eid : Byte} (h : eid = 0 ∨ eid = 0xFF) : Does (.setEndpointId eid) b b :=
  does_next (exec_setEndpointId eid) (if_neg (by rcases h with h | h <;> simp [h]))

theorem does_i3cDynamicAddress (m : I3cMethod) (a : BitVec 7) :
    Does (.i3cDynamicAddress m a) b { b with th := { b.th with i3cAddr := some a } } :=
  does_next (exec_i3cDynamicAddress m a) (if_pos hr)

omit hr in
/-- Ten times a tenth of a number, rounded either way, is less than ten away from it. -/
theorem roundEither_ten (w : Nat) (b : Block) : 10 * (roundEither w 10 b).1 < w + 10 ∧ w < 10 * (roundEither w 10 b).1 + 10 := by
  unfold roundEither
  split
  · simp only; omega
  · have hk : (b.freeBelow 2).1 < 2 := Nat.mod_lt _ (by decide)
    simp only; omega

/-- The power reads in units of 10 W, rounded either way (R977). -/
theorem does_pldmSensorRead_power {r : Nat × Block} (h : roundEither b.th.powerW.toNat 10 b = r) :
    Does (.pldmSensorRead .power) b (r.2.modTh fun t => { t with sensorReply := some (10 * r.1) }) :=
  does_next (exec_pldmSensorRead .power) ((if_neg (by simp [hr])).trans (by rw [← h]; rfl))

end Operations

/-- Settles O59, operation by operation: one that has begun takes its effect and leaves its status, one that has not changes nothing. -/
theorem tollhouseOperations : Obligations.TollhouseOperations := by
  intro b src w tj dv hr begun ends shown
  have up : ¬ (!b.th.railUp) = true := by simp [hr]
  refine ⟨does_next (exec_telemetryPeriod w tj dv) (if_pos hr),
    fun h => does_next (exec_telemetry src w tj dv) (thOp_begun hr h rfl), ?mailboxReport, ?sidebandReport,
    fun h => does_next (exec_zeroizeAll src) (thOp_begun hr h rfl), fun h hm => does_resetWarm hr h (if_pos hm),
    fun h hm => does_resetWarm hr h (if_neg (by simp [hm])),
    fun h => does_next (exec_resetModule src) (thOp_begun hr h rfl), fun h hm => does_powerOff hr h (if_pos hm),
    fun h hm => does_powerOff hr h (if_neg (by simp [hm])),
    fun h => ⟨does_cfgWrite_late hr h, does_cfgWrite_bad hr h, does_cfgWrite hr h⟩, fun op hop => ?idle,
    fun eid => ⟨does_setEndpointId hr, does_setEndpointId_reserved⟩, does_i3cDynamicAddress hr, ?sensors,
    does_next exec_platformEventMessage (if_neg up)⟩
  case mailboxReport =>
    rintro mask r b₁ rfl h rfl hrep
    exact does_report_mailbox hr h hrep
  case sidebandReport =>
    rintro arg nonce r b₁ rfl h hrep hne
    exact does_report_sideband hr h hrep hne
  case idle =>
    simp only [List.forall_mem_cons, List.not_mem_nil, false_implies, implies_true, and_true]
    exact ⟨fun h => does_next (exec_telemetry src w tj dv) (thOp_idle hr (h ▸ hop)),
      fun h => does_next (exec_report src) (thOp_idle hr (h ▸ hop)),
      fun h => does_next (exec_zeroizeAll src) (thOp_idle hr (h ▸ hop)),
      fun h => does_next (exec_resetWarm src) (thOp_idle hr (h ▸ hop)),
      fun h => does_next (exec_resetModule src) (thOp_idle hr (h ▸ hop)),
      fun h => does_next (exec_powerOff src) (thOp_idle hr (h ▸ hop)),
      fun h => does_next (exec_cfgWrite src) (thOp_idle hr (h ▸ hop))⟩
  case sensors =>
    have reads : ∀ {x b'}, sensorRead x b = b' → Does (.pldmSensorRead x) b b' := does_next (exec_pldmSensorRead _)
    refine ⟨reads (if_neg up), reads (if_neg up), reads (if_neg up), reads (if_neg up), fun h10 => ?_,
      _, _, does_pldmSensorRead_power hr rfl, rfl, roundEither_ten b.th.powerW.toNat b⟩
    have whole : b.th.powerW.toNat = 10 * (b.th.powerW.toNat / 10) := by omega
    rw [whole]
    exact does_pldmSensorRead_power hr (if_pos h10)

end Sys2Proof.Machine
end

section
/-! PROOFS. Start-up: rails and pins, the ends of its stages, and the failures that stop it (R941–R963, R968, R975, R997, R998). -/

namespace Sys2Proof.Machine

section Pins
variable {b : Block}

/-! ### What power-up changes -/

/-- All that link training changes: the stage, and when it began (R950). -/
theorem linkUp_eq (b : Block) : ∃ stage began cfg, linkUp b = { b with th := { b.th with stage := stage, perstAt := began, cfgUp := cfg } } := by
  unfold linkUp
  split
  · exact ⟨_, _, _, rfl⟩
  · exact ⟨b.th.stage, b.th.perstAt, b.th.cfgUp, rfl⟩

/-- All that power-up changes: the main rails, and what link training does (R945, R998). -/
theorem tryPowerUp_eq (b : Block) : ∃ main stage began cfg, tryPowerUp b = { b with th :=
    { b.th with mainUp := main, stage := stage, perstAt := began, cfgUp := cfg } } := by
  simp only [tryPowerUp]
  split
  · obtain ⟨stage, began, cfg, h⟩ := linkUp_eq { b with th := { b.th with mainUp := true } }
    exact ⟨true, stage, began, cfg, h⟩
  · exact ⟨b.th.mainUp, b.th.stage, b.th.perstAt, b.th.cfgUp, rfl⟩

/-! ### Rails and pins -/

theorem does_tollhouseRailUp (ok : Bool) (id : BitVec 4) (hr : b.th.railUp = false) : ∃ b', Does (.tollhouseRailUp ok id) b b'
    ∧ b'.th.railUp = true ∧ b'.th.modId = id ∧ b'.th.lastReset = 0 ∧ b'.attest.identityOk = ok ∧ b'.mem = b.mem ∧ b'.slots = b.slots := by
  refine ⟨_, does_next (exec_tollhouseRailUp ok id) (if_neg (by simp [hr])), ?_⟩
  obtain ⟨main, stage, began, cfg, h⟩ := tryPowerUp_eq ((b.modAttest fun a => { a with identityOk := ok, secretUp := true }).modTh fun t =>
    { t with railUp := true, modId := id, stage := .link, lastReset := 0, armed := t.pwrEn })
  rw [h]
  exact ⟨rfl, rfl, rfl, rfl, rfl, rfl⟩

/-- After a thermal trip either may be: PWR_EN was low for 1 s, or not (assumption 49). -/
theorem does_pwrEnRise_afterTrip (hp : b.th.pwrEn = false) (hn : b.th.needLow = true) : ∃ b', Does .pwrEnRise b b'
    ∧ (b' = { b.spent 1 with th := { b.th with pwrEn := true } }
      ∨ b' = tryPowerUp { b.spent 1 with th := { b.th with pwrEn := true, needLow := false, armed := true } }) := by
  refine ⟨_, does_next exec_pwrEnRise rfl, ?_⟩
  have eq : pwrEnRise b = if (b.freeBelow 2).1 = 0 then { b.spent 1 with th := { b.th with pwrEn := true } }
      else tryPowerUp { b.spent 1 with th := { b.th with pwrEn := true, needLow := false, armed := true } } := by
    simp only [pwrEnRise, hp, Block.modTh, hn]; rfl
  rw [eq]
  exact ite_eq_or_eq ..

theorem does_pwrEnFall_main (hp : b.th.pwrEn = true) (hm : b.th.mainUp = true) : ∃ k < 8, Does .pwrEnFall b
    (standby k { b.spent 1 with th := { b.th with pwrEn := false, armed := false, thermTripN := true } }) :=
  ⟨_, Nat.mod_lt _ (by decide), does_next exec_pwrEnFall (by simp only [pwrEnFall, hp, Block.modTh, hm]; rfl)⟩

/-! ### Temperatures -/

/-- A junction at 115 °C or a stack at 105 °C (R975). -/
def thermalTrip (die stack : List Nat) : Prop := (∃ t ∈ die, 115 ≤ t) ∨ ∃ t ∈ stack, 105 ≤ t

section Thermal
variable {die stack : List Nat} (hm : b.th.mainUp = true)
include hm

theorem does_thermalSample_trip (ht : thermalTrip die stack) : Does (.thermalSample die stack) b (platformEvent 4
    ((standby 6 (endOps b)).modTh fun t => { t with thermTripN := false, needLow := true })) :=
  does_next (exec_thermalSample die stack) ((if_neg (by simp [hm])).trans (if_pos (by simpa [thermalTrip] using ht)))

variable (ht : ¬ thermalTrip die stack)
include ht

theorem thermalSample_noTrip : thermalSample die stack b =
    if die.any (fun t => 105 ≤ t) && !b.th.events.contains 3 then platformEvent 3 b else b :=
  (if_neg (by simp [hm])).trans (if_neg (by simpa [thermalTrip] using ht))

theorem does_thermalSample_hot (hd : ∃ t ∈ die, 105 ≤ t) (he : 3 ∉ b.th.events) :
    Does (.thermalSample die stack) b (platformEvent 3 b) :=
  does_next (exec_thermalSample die stack) ((thermalSample_noTrip hm ht).trans (if_pos (by simpa [he] using hd)))

theorem does_thermalSample_quiet (h : (∀ t ∈ die, t < 105) ∨ 3 ∈ b.th.events) : Does (.thermalSample die stack) b b :=
  does_next (exec_thermalSample die stack) ((thermalSample_noTrip hm ht).trans (if_neg (by
    rcases h with h | h
    · simpa using fun t hd h105 => absurd (h t hd) (Nat.not_lt.2 h105)
    · simp [h])))

end Thermal

/-! ### The bundle -/

section Bundle
variable {v : U64} (hm : b.th.mainUp = true)
include hm

/-- A write of `TH_BOOT` stores LENGTH, and starts the bundle's verification if it sets GO while the module waits for one (R953). -/
theorem bundleGo_eq : bundleGo v.toNat b = if v.getLsbD 28 && b.th.stage = .waitBundle then
      { b with th := { b.th with bundleLen := BitVec.ofNat 28 v.toNat, bootGo := true
                                 bundle := Mem.read b.th.bar2 0 (v.toNat % 2 ^ 28), stage := .verify, fail := 0 } }
    else { b with th := { b.th with bundleLen := BitVec.ofNat 28 v.toNat } } := by
  have len : BitVec.ofNat 28 (v.toNat % 2 ^ 28) = BitVec.ofNat 28 v.toNat := BitVec.eq_of_toNat_eq (by simp)
  simp only [bundleGo, hm, Block.modTh, bitOf_toNat, bitsOf_zero, len]
  rfl

theorem does_bundleGo_starts (hs : b.th.stage = .waitBundle) (hv : v.getLsbD 28 = true) : Does (.bundleGo v) b { b with th := { b.th with
    bundleLen := BitVec.ofNat 28 v.toNat, bootGo := true, bundle := Mem.read b.th.bar2 0 (v.toNat % 2 ^ 28), stage := .verify, fail := 0 } } :=
  does_next (exec_bundleGo v) ((bundleGo_eq hm).trans (if_pos (by simp [hs, hv])))

theorem does_bundleGo_stores (h : b.th.stage ≠ .waitBundle ∨ v.getLsbD 28 = false) : Does (.bundleGo v) b
    { b with th := { b.th with bundleLen := BitVec.ofNat 28 v.toNat } } :=
  does_next (exec_bundleGo v) ((bundleGo_eq hm).trans (if_neg (by simpa [imp_iff_not_or, or_comm] using h)))

end Bundle

section Verify
variable (hs : b.th.stage = .verify)
include hs

omit hs in
/-- A bundle is refused, and start-up waits for another (R954). -/
def bundleRefused (code : Nat) (b : Block) : Block :=
  { b with th := { b.th with stage := .waitBundle, bootGo := false, fail := code, bar2 := [], bundle := [] } }

theorem does_stageVerifyDone_form (hf : bundleForm b.th.bundle = false) : Does .stageVerifyDone b (bundleRefused 2 b) :=
  does_next exec_stageVerifyDone (by simp [verifyDone, hs, hf]; rfl)

theorem does_stageVerifyDone_signature (hf : bundleForm b.th.bundle = true) (hg : envSigned b.th.bundle = false) :
    Does .stageVerifyDone b (bundleRefused 1 b) :=
  does_next exec_stageVerifyDone (by simp [verifyDone, hs, hf, hg]; rfl)

theorem does_stageVerifyDone_accepts (hf : bundleForm b.th.bundle = true) (hg : envSigned b.th.bundle = true) :
    Does .stageVerifyDone b { b with
      th := { b.th with stage := .config, bootGo := false, accepted := b.th.bundle, bundle := [] }
      attest := { b.attest with meas2 := sha384 b.th.bundle, fwVersion := BitVec.ofNat 32 (fld b.th.bundle 8 4)
                                fwSvn := BitVec.ofNat 32 (fld b.th.bundle 0xC 4) } } :=
  does_next exec_stageVerifyDone (by simp [verifyDone, hs, hf, hg]; rfl)

end Verify
end Pins

/-! ### The configuration record in use (R958–R961) -/

section Config
variable {b : Block}

/-- The copy of the record in module flash. -/
def flashCopy (b : Block) (second : Bool) : List Byte := if second then b.th.flashB else b.th.flashA

/-- After a warm reset the copy in use stays in use, if it may still be applied (R961). -/
def keepsCopy (b : Block) : Bool :=
  warmStart b && !b.attest.meas5.isEmpty && (recordIn (if b.th.cfgCopy then b.th.flashB else b.th.flashA)).isSome

/-- The copy whose record is to be applied: the one kept, or the newer of those that may be applied, A at an equal SEQ (R959). -/
def copyChosen (b : Block) : Bool :=
  if keepsCopy b then b.th.cfgCopy
  else match recordIn b.th.flashA, recordIn b.th.flashB with
    | some x, some y => decide (x.2 < y.2)
    | none, some _ => true
    | _, none => false

/-- The start of the system cores with a record's substitutions, and those of the log of retirements, in force (R29, R938, R960). -/
def configured (second : Bool) (rs : List Repair) (b : Block) : Block :=
  let s := b.modAttest fun a => { a with meas5 := sha384 (flashCopy b second) }
  let clean := fun (_ : Nat) (x : Basin) => { x with phys := [], fencedSlots := 0, retired := false, spare := 0x10 }
  let s := { s with basins := SMap.mapVal .init clean s.basins }
  let s := (s.lm.log.takeWhile LogEntry.good).foldl applyLog (rs.foldl applyRepair s)
  let s := (List.range 8).foldl startSystemCore s
  let s := { s with contexts := if (s.context 0).isSome then s.contexts else SMap.set 0 firmwareContext s.contexts }
  s.modTh fun t => { t with stage := .train, cfgCopy := second }

theorem attest_configured (second : Bool) (rs : List Repair) (b : Block) :
    (configured second rs b).attest = { b.attest with meas5 := sha384 (flashCopy b second) } := by
  simp only [configured, Block.modTh]
  rw [foldl_keeps Block.attest startSystemCore (fun _ _ => rfl), foldl_keeps Block.attest applyLog (fun _ _ => rfl),
    foldl_keeps Block.attest applyRepair (fun _ _ => rfl)]
  rfl

theorem copyChosen_kept (h : keepsCopy b = true) : copyChosen b = b.th.cfgCopy := if_pos h

theorem copyChosen_first {r : List Repair × Nat} (h : keepsCopy b = false) (ha : recordIn b.th.flashA = some r)
    (hb : ∀ rs n, recordIn b.th.flashB = some (rs, n) → n ≤ r.2) : copyChosen b = false := by
  simp only [copyChosen, h, Bool.false_eq_true, if_false, ha]
  cases hB : recordIn b.th.flashB with
  | none => rfl
  | some s => exact decide_eq_false (Nat.not_lt.2 (hb _ _ hB))

theorem copyChosen_second {r : List Repair × Nat} (h : keepsCopy b = false) (hb : recordIn b.th.flashB = some r)
    (ha : ∀ rs n, recordIn b.th.flashA = some (rs, n) → n < r.2) : copyChosen b = true := by
  simp only [copyChosen, h, Bool.false_eq_true, if_false, hb]
  cases hA : recordIn b.th.flashA with
  | none => rfl
  | some s => exact decide_eq_true (ha _ _ hA)

variable (hs : b.th.stage = .config)
include hs

/-- Of a stage that is to end, the record of the copy chosen says how (R829, R959). -/
theorem configDone_eq : configDone b = match recordIn (flashCopy b (copyChosen b)) with
    | none => failStart 3 (b.modAttest fun a => { a with meas5 := zeros 48 })
    | some (rs, _) => configured (copyChosen b) rs b := by
  have kept : ∀ x : Bool, (recordIn (if x then b.th.flashB else b.th.flashA)) = if x then recordIn b.th.flashB else recordIn b.th.flashA :=
    fun x => by cases x <;> rfl
  rw [configDone, if_neg (not_not_intro hs)]
  simp only [flashCopy, kept, copyChosen, keepsCopy]
  rfl

theorem does_stageConfigDone {rs : List Repair} {n : Nat} {second : Bool} (hc : copyChosen b = second)
    (hr : recordIn (flashCopy b second) = some (rs, n)) : ∃ b', Does .stageConfigDone b b' ∧ b'.th.stage = .train
      ∧ b'.th.cfgCopy = second ∧ b'.attest.meas5 = sha384 (flashCopy b second) := by
  subst hc
  refine ⟨_, does_next exec_stageConfigDone ((configDone_eq hs).trans (by rw [hr])), rfl, rfl, ?_⟩
  rw [attest_configured]

theorem does_stageConfigDone_fails (ha : recordIn b.th.flashA = none) (hb : recordIn b.th.flashB = none) :
    ∃ b', Does .stageConfigDone b b' ∧ b'.th.stage = .failed ∧ b'.th.fail = 3 ∧ b'.attest.meas5 = zeros 48 := by
  have none : recordIn (flashCopy b (copyChosen b)) = none := by unfold flashCopy; split <;> assumption
  exact ⟨_, does_next exec_stageConfigDone ((configDone_eq hs).trans (by rw [none])), rfl, rfl, rfl⟩

end Config

/-! ### Training, initialisation and release -/

section Train
variable {b : Block} {r : TrainResult}

/-- The block as training leaves it, before it is told whether it has basins enough (R930, R951): after a warm reset nothing is calibrated or tested. -/
def trained (r : TrainResult) (b : Block) : Block :=
  if warmStart b then b else (r.failed.filter fun p => p.1 < 256 && p.2 < 17).foldl failCore (startCalibrate r.cal b)

/-- The basins that are not retired (R952). -/
def usableBasins (b : Block) : Nat := ((List.range 256).filter fun k => !(b.basin k).retired).length

theorem usableBasins_of_basins {b b' : Block} (h : b'.basins = b.basins) : usableBasins b' = usableBasins b := by
  simp only [usableBasins, Block.basin, h]

/-- The block with its usable basins counted. -/
def counted (b : Block) : Block := { b with gl := { b.gl with basinsUsable := usableBasins b } }

theorem trainDone_trained (hs : b.th.stage = .train) (hh : r.hbmOk = true) (hl : r.lpddrOk = true) : trainDone r b =
    if usableBasins (trained r b) < 32 then failStart 6 (counted (trained r b))
    else (counted (trained r b)).modTh fun t => { t with stage := if warmStart (trained r b) then .release else .init } := by
  simp only [trainDone, hs, hh, hl]; rfl

theorem does_stageTrainDone (hs : b.th.stage = .train) (hh : r.hbmOk = true) (hl : r.lpddrOk = true) : ∃ b', Does (.stageTrainDone r) b b'
    ∧ b'.gl.basinsUsable = usableBasins b' ∧ (b'.gl.basinsUsable < 32 → b'.th.stage = .failed ∧ b'.th.fail = 6)
    ∧ (32 ≤ b'.gl.basinsUsable → b'.th.stage = if warmStart b' then .release else .init) := by
  have done := does_next (b := b) (exec_stageTrainDone r) (trainDone_trained hs hh hl)
  generalize trained r b = x at done
  have same : ∀ b' : Block, b'.basins = x.basins → usableBasins b' = usableBasins x := fun _ => usableBasins_of_basins
  by_cases few : usableBasins x < 32
  · rw [if_pos few] at done
    have count : (failStart 6 (counted x)).gl.basinsUsable = usableBasins x := rfl
    refine ⟨_, done, ?_⟩
    rw [count]
    exact ⟨(same _ rfl).symm, fun _ => ⟨rfl, rfl⟩, fun enough => absurd few (Nat.not_lt.2 enough)⟩
  · rw [if_neg few] at done
    have count : ((counted x).modTh fun t => { t with stage := if warmStart x then .release else .init }).gl.basinsUsable
      = usableBasins x := rfl
    refine ⟨_, done, ?_⟩
    rw [count]
    exact ⟨(same _ rfl).symm, fun h => absurd h few, fun _ => rfl⟩

theorem does_stageTrainDone_hbm (hs : b.th.stage = .train) (hh : r.hbmOk = false) : Does (.stageTrainDone r) b (failStart 4 b) :=
  does_next (exec_stageTrainDone r) (by simp [trainDone, hs, hh])

theorem does_stageTrainDone_lpddr (hs : b.th.stage = .train) (hh : r.hbmOk = true) (hl : r.lpddrOk = false) :
    Does (.stageTrainDone r) b (failStart 5 b) :=
  does_next (exec_stageTrainDone r) (by simp [trainDone, hs, hh, hl])

theorem does_stageReleaseDone (hs : b.th.stage = .release) (ht : b.teardowns = []) : Does .stageReleaseDone b
    { b with th := { b.th with stage := .ready, readyN := false, events := b.th.events ++ [0], alertN := false } } :=
  does_next exec_stageReleaseDone (by simp [releaseDone, hs, platformEvent, Block.modTh, ht])

end Train

/-- Settles O58: rails and pins by what they find, then each stage by its result; out of its stage, an end changes nothing. -/
theorem startUpRunsItsStages : Obligations.StartUpRunsItsStages := by
  intro b
  refine ⟨fun ok id => ⟨fun hr => does_next (exec_tollhouseRailUp ok id) (if_pos hr), does_tollhouseRailUp ok id⟩,
    fun hr => ⟨_, does_next exec_tollhouseRailDown (if_neg (by simp [hr])), rfl, rfl, rfl, rfl, rfl, rfl, rfl, rfl, rfl, rfl, rfl, rfl⟩,
    fun hr => ⟨does_next exec_tollhouseRailDown (if_pos (by simp [hr])), does_next exec_inrushDone (if_neg (by simp [hr]))⟩,
    fun hr => does_next exec_inrushDone (if_pos hr), fun hp => does_next exec_pwrEnRise (if_pos hp),
    fun hp hn => does_next exec_pwrEnRise (by simp only [pwrEnRise, hp, Block.modTh, hn]; rfl), does_pwrEnRise_afterTrip,
    fun hp => does_next exec_pwrEnFall (if_pos (by simp [hp])),
    fun hp hm => does_next exec_pwrEnFall (by simp only [pwrEnFall, hp, Block.modTh, hm]; rfl), does_pwrEnFall_main,
    fun hp => ⟨does_next exec_perstNFall (if_neg (by simp [hp])), does_next exec_perstNRise (if_neg (by simp [hp]))⟩,
    fun hp => ⟨does_next exec_perstNRise (if_pos hp), does_next exec_perstNFall (if_pos hp)⟩,
    fun x => does_next (exec_refclkChange x) rfl, fun hm => does_next exec_currentLimitTrip (if_pos hm),
    fun hm => does_next exec_currentLimitTrip (if_neg (by simp [hm])), fun die stack => ?thermal, fun v => ?bundle,
    fun hs => ⟨does_stageVerifyDone_form hs, does_stageVerifyDone_signature hs, does_stageVerifyDone_accepts hs⟩,
    fun hs => ?config, fun hs r => ⟨fun hh => ⟨_, does_stageTrainDone_hbm hs hh, rfl, rfl⟩,
      fun hh hl => ⟨_, does_stageTrainDone_lpddr hs hh hl, rfl, rfl⟩, does_stageTrainDone hs⟩,
    fun hs => ⟨_, does_next exec_stageInitDone (if_neg (not_not_intro hs)), rfl, rfl, rfl, rfl⟩, does_stageReleaseDone,
    fun r => ⟨fun h => does_next exec_stageVerifyDone (if_pos h), fun h => does_next exec_stageConfigDone (if_pos h),
      fun h => does_next (exec_stageTrainDone r) (if_pos h), fun h => does_next exec_stageInitDone (if_pos h),
      fun h => does_next exec_stageReleaseDone (if_pos h)⟩⟩
  case thermal =>
    exact ⟨fun hm => does_next (exec_thermalSample die stack) (if_pos (by simp [hm])),
      fun hm ht => ⟨_, does_thermalSample_trip hm ht, rfl, rfl, rfl, rfl, rfl⟩, does_thermalSample_hot, does_thermalSample_quiet⟩
  case bundle =>
    exact ⟨fun hm => does_next (exec_bundleGo v) (if_pos (by simp [hm])), does_bundleGo_starts, does_bundleGo_stores⟩
  case config =>
    refine ⟨does_stageConfigDone_fails hs, fun hk => ?_, fun hk rs n ha hb => ?_, fun hk rs n hb ha => ?_⟩
    · have isSome : (recordIn (flashCopy b b.th.cfgCopy)).isSome = true := (Bool.and_eq_true_iff.1 hk).2
      obtain ⟨⟨rs, n⟩, hr⟩ := Option.isSome_iff_exists.1 isSome
      exact does_stageConfigDone hs (copyChosen_kept hk) hr
    · exact does_stageConfigDone hs (copyChosen_first hk ha hb) ha
    · exact does_stageConfigDone hs (copyChosen_second hk hb ha) hb

end Sys2Proof.Machine
end

section
/-! PROOFS. The lengthsman's calibration: its count, and the margins it shows (R930, R931). -/

namespace Sys2Proof.Machine

/-! ### What the parts of a calibration leave unchanged -/

/-- What a calibration counts, whether it runs, and T1. -/
def Block.calCount (b : Block) : Nat × Bool × Mem := (b.lm.cals, b.lm.busy, b.mem.t1)

theorem basinMargins_none {ms : List Margin} {b : Block} {k : Nat} (h : worstOf (ms.filter fun m => m.basin == k) = none) :
    basinMargins ms b k = b := by simp only [basinMargins, h]

/-- A basin with margins shows the worst of them; rounding its life takes a free value at most. -/
theorem basinMargins_some {ms : List Margin} {b : Block} {k : Nat} {w : Margin}
    (h : worstOf (ms.filter fun m => m.basin == k) = some w) : ∃ n life hist,
    basinMargins ms b k = ({ b with freeCtr := n } : Block).modLmBasin k fun x =>
      { x with minMargin := BitVec.ofNat 8 (min w.ps 255), worst := BitVec.ofNat 5 w.path, rulDy := life, hist := hist } := by
  simp only [basinMargins, h]
  split
  · exact ⟨_, _, _, rfl⟩
  · generalize lifeOf _ _ = f
    obtain ⟨n, hn⟩ := roundEither_state f.1 f.2 b
    rw [hn]
    exact ⟨n, _, _, rfl⟩

theorem calCount_basinMargins (ms : List Margin) (b : Block) (k : Nat) : (basinMargins ms b k).calCount = b.calCount := by
  cases h : worstOf (ms.filter fun m => m.basin == k) with
  | none => rw [basinMargins_none h]
  | some w =>
    obtain ⟨n, life, hist, he⟩ := basinMargins_some (b := b) h
    rw [he]
    rfl

theorem calCount_dieMargins (ms : List Margin) (b : Block) (d : Nat) : (dieMargins ms b d).calCount = b.calCount := by
  unfold dieMargins; split <;> rfl

theorem basins_dieMargins (ms : List Margin) (b : Block) (d : Nat) : (dieMargins ms b d).lm.basins = b.lm.basins := by
  unfold dieMargins; split <;> rfl

theorem calCount_postEvent (f : Nat) (st : Status) (source inst ctx slot : Nat) (detail : List Byte) (b : Block) :
    (postEvent f st source inst ctx slot detail b).calCount = b.calCount := by
  have h := unposted_postEvent f st source inst ctx slot detail b
  exact (congrArg Block.calCount h :)

/-- The event record of a basin to be retired leaves the lengthsman's state and the memories. -/
theorem calCount_replan (capOk : Bool) (d : Nat) (m : Margin) (b : Block) : (replan capOk d m b).calCount = b.calCount := by
  unfold replan
  extract_lets x cap
  split
  · rfl
  split
  · rfl
  · exact calCount_postEvent ..

theorem calCount_reinstate (target : Nat) (ms : List Margin) (b : Block) (k : Nat) :
    (reinstate target ms b k).calCount = b.calCount := by
  simp only [reinstate]
  split
  · rfl
  split <;> rfl

theorem basins_reinstate (target : Nat) (ms : List Margin) (b : Block) (k : Nat) :
    (reinstate target ms b k).lm.basins = b.lm.basins := by
  simp only [reinstate]
  split
  · rfl
  split <;> rfl

/-! ### The stages of a calibration -/

/-- The margins that a calibration shows: each as its delay line, lengthened where it may be, leaves it. -/
def calMargins (x : CalSample) (b : Block) : List Margin :=
  ((x.margins.filter fun m => m.basin < 256 && m.path < 32).map fun m => (m, lengthen b.lm.targetPs.toNat m)).map fun p => p.2.1

/-- A delay line is lengthened by the steps found for it. -/
def lengthenLine (s : Block) (p : Margin × Margin × Nat) : Block :=
  let k := p.1.basin * 32 + p.1.path
  { s with lm := { s.lm with delay := SMap.put 0 k (SMap.get 0 k s.lm.delay + p.2.2) s.lm.delay } }

/-- The delay lines are set, and the calibration is counted. -/
def calCounted (x : CalSample) (b : Block) : Block :=
  let steps := (x.margins.filter fun m => m.basin < 256 && m.path < 32).map fun m => (m, lengthen b.lm.targetPs.toNat m)
  let s := steps.foldl lengthenLine b
  { s with lm := { s.lm with cals := s.lm.cals + 1, busy := false } }

/-- The basins and the dies show their margins. -/
def calShown (x : CalSample) (b : Block) : Block :=
  (List.range 8).foldl (dieMargins (calMargins x b)) ((List.range 256).foldl (basinMargins (calMargins x b)) (calCounted x b))

/-- Steps 2 to 4 of R931 for one die. -/
def replanDie (x : CalSample) (short : List Margin) (s : Block) (d : Nat) : Block :=
  match worstOf (short.filter fun m => dieOfBasin m.basin == d) with
  | some m => replan (x.capFloorOk.getD d false) d m s
  | none => s

/-- The margins that no delay line restores are planned for, and basins are reinstated. -/
def calPlanned (x : CalSample) (b : Block) : Block :=
  (List.range 256).foldl (reinstate b.lm.targetPs.toNat (calMargins x b))
    ((List.range 8).foldl (replanDie x ((calMargins x b).filter fun m => m.ps < b.lm.targetPs.toNat)) (calShown x b))

theorem calibrate_eq (x : CalSample) (b : Block) : ∃ gl, calibrate x b = { calPlanned x b with gl := gl } := ⟨_, rfl⟩

/-- After its stages a calibration only tells whether a die goes to another VCORE. -/
theorem calibrate_stages (x : CalSample) (b : Block) :
    (calibrate x b).lm = (calPlanned x b).lm ∧ (calibrate x b).mem = (calPlanned x b).mem := by
  obtain ⟨gl, he⟩ := calibrate_eq x b
  rw [he]
  generalize calPlanned x b = s
  exact ⟨rfl, rfl⟩

theorem calCount_calCounted (x : CalSample) (b : Block) : (calCounted x b).calCount = (b.lm.cals + 1, false, b.mem.t1) := by
  have kept (l : List (Margin × Margin × Nat)) : (l.foldl lengthenLine b).calCount = b.calCount :=
    foldl_keeps Block.calCount lengthenLine (fun _ _ => rfl) l b
  exact congrArg (fun c : Nat × Bool × Mem => (c.1 + 1, false, c.2.2)) (kept _)

theorem calCount_replanDie (x : CalSample) (short : List Margin) (b : Block) (d : Nat) :
    (replanDie x short b d).calCount = b.calCount := by
  unfold replanDie
  split
  · exact calCount_replan ..
  · rfl

theorem calCount_calPlanned (x : CalSample) (b : Block) : (calPlanned x b).calCount = (b.lm.cals + 1, false, b.mem.t1) := by
  rw [calPlanned, foldl_keeps Block.calCount _ (calCount_reinstate _ _), foldl_keeps Block.calCount _ (calCount_replanDie _ _),
    calShown, foldl_keeps Block.calCount _ (calCount_dieMargins _), foldl_keeps Block.calCount _ (calCount_basinMargins _),
    calCount_calCounted]

theorem calCount_calibrate (x : CalSample) (b : Block) : (calibrate x b).calCount = (b.lm.cals + 1, false, b.mem.t1) := by
  obtain ⟨hlm, hmem⟩ := calibrate_stages x b
  rw [← calCount_calPlanned, Block.calCount, hlm, hmem, Block.calCount]

/-- Where every margin meets the target, the basins show what they were measured with. -/
theorem basins_calibrate {x : CalSample} {b : Block} (h : ((calMargins x b).filter fun m => m.ps < b.lm.targetPs.toNat) = []) :
    (calibrate x b).lm.basins = ((List.range 256).foldl (basinMargins (calMargins x b)) (calCounted x b)).lm.basins := by
  have planned : (calPlanned x b).lm.basins = (calShown x b).lm.basins := by
    rw [calPlanned, h, foldl_keeps (fun s : Block => s.lm.basins) _ (basins_reinstate _ _)]
    exact foldl_keeps (fun s : Block => s.lm.basins) (replanDie x []) (fun _ _ => rfl) ..
  rw [(calibrate_stages x b).1, planned, calShown, foldl_keeps (fun s : Block => s.lm.basins) _ (basins_dieMargins _)]

/-- A basin whose one path was measured shows that path and its margin. -/
theorem basinMargins_only {m : Margin} {l : List Nat} (hk : m.basin ∈ l) (b : Block) :
    let b' := l.foldl (basinMargins [m]) b
    (b'.lmBasin m.basin).minMargin = BitVec.ofNat 8 (min m.ps 255) ∧ (b'.lmBasin m.basin).worst = BitVec.ofNat 5 m.path := by
  refine foldl_establishes (P := fun s => (s.lmBasin m.basin).minMargin = BitVec.ofNat 8 (min m.ps 255)
    ∧ (s.lmBasin m.basin).worst = BitVec.ofNat 5 m.path) (fun s => ?_) (fun s k hne hs => ?_) hk b
  · have own : worstOf ([m].filter fun m' => m'.basin == m.basin) = some m := by simp [worstOf]
    obtain ⟨n, life, hist, he⟩ := basinMargins_some (b := s) own
    rw [he]
    simp [Block.modLmBasin, Block.lmBasin]
  · rwa [basinMargins_none (by simp [worstOf, hne.symm])]

/-! ### The rows -/

section Rows
variable {b : Block} {x : CalSample} (hup : b.th.mainUp = true)
include hup

theorem does_calibrationPeriod : Does (.calibrationPeriod x) b (calibrate x b) := does_next (exec_calibrationPeriod x) (if_pos hup)

theorem does_calNow : Does (.calNow x) b (calibrate x b) := does_next (exec_calNow x) (if_pos hup)

theorem calibration_counts :
    ∃ b', Does (.calibrationPeriod x) b b' ∧ Does (.calNow x) b b' ∧ b'.lm.cals = b.lm.cals + 1 ∧ b'.lm.busy = false
      ∧ b'.mem.t1 = b.mem.t1 := by
  have h := calCount_calibrate x b
  simp only [Block.calCount, Prod.mk.injEq] at h
  obtain ⟨hcals, hbusy, ht1⟩ := h
  exact ⟨_, does_calibrationPeriod hup, does_calNow hup, hcals, hbusy, ht1⟩

theorem calibration_shows_margin {k ps path : Nat} (hk : k < 256) (hpath : path < 32)
    (hm : x.margins = [{ basin := k, path := path, ps := ps, longest := true }]) (hps : ps < 256) (ht : b.lm.targetPs.toNat ≤ ps) :
    ∃ b', Does (.calNow x) b b' ∧ (b'.lmBasin k).minMargin.toNat = ps ∧ (b'.lmBasin k).worst.toNat = path := by
  have ms : calMargins x b = [{ basin := k, path := path, ps := ps, longest := true }] := by
    simp [calMargins, hm, hk, hpath, lengthen]
  have basins := basins_calibrate (x := x) (b := b) (by simp [ms, ht])
  rw [ms] at basins
  obtain ⟨hmin, hworst⟩ := basinMargins_only (m := { basin := k, path := path, ps := ps, longest := true })
    (List.mem_range.mpr hk) (calCounted x b)
  refine ⟨_, does_calNow hup, ?_, ?_⟩
  · rw [Block.lmBasin, basins]
    exact (congrArg BitVec.toNat hmin).trans (by simp; omega)
  · rw [Block.lmBasin, basins]
    exact (congrArg BitVec.toNat hworst).trans (by simp; omega)

end Rows

end Sys2Proof.Machine
end

section
/-! PROOFS. The spares of a basin and their operations (R933–R939). -/

namespace Sys2Proof.Machine

theorem SMap.get_eq_find {α : Type} (d : α) (k : Nat) (m : SMap α) : SMap.get d k m = (SMap.find k m).getD d := by
  induction m with
  | nil => rfl
  | cons e m ih =>
    obtain ⟨k', v⟩ := e
    by_cases h : k' = k <;> simp [SMap.get, SMap.find, h, ih]

theorem SMap.get_set_same {α : Type} (d : α) (k : Nat) (v : α) (m : SMap α) : SMap.get d k (SMap.set k v m) = v := by
  simp [SMap.get_eq_find]

/-- A slot bit that is set among the 17 of a basin. -/
theorem getLsbD_or_slot (v : BitVec 17) {p : Nat} (hp : p < 17) : (v ||| 1#17 <<< p).getLsbD p = true := by
  simp [hp]

theorem getLsbD_andNot_slot (v : BitVec 17) {p : Nat} (hp : p < 17) : (v &&& ~~~(1#17 <<< p)).getLsbD p = false := by
  simp [hp]

section Slots
variable {b : Block} {bs p c : Nat}

/-- The logical slots of a basin name their cores by PHYS alone. -/
theorem Block.pslot_modBasin {f : Basin → Basin} (hf : ∀ x, (f x).phys = x.phys) : (b.modBasin bs f).pslot c = b.pslot c := by
  unfold Block.pslot
  rw [Block.basin_modBasin]
  split
  next same => rw [hf, same]
  next => rfl

theorem coreAt_modBasin {f : Basin → Basin} (hf : ∀ x, (f x).phys = x.phys) : coreAt (b.modBasin bs f) bs p = coreAt b bs p := by
  simp only [coreAt, Block.pslot_modBasin hf]

theorem basinOf_coreAt (h : coreAt b bs p = some c) : basinOf c = bs := by
  obtain ⟨k, hk, rfl⟩ := List.mem_map.mp (List.mem_of_find?_eq_some h)
  have := List.mem_range.mp hk
  simp only [basinOf]
  omega

/-! ### What an operation of `BS_SPARE_CTRL` leaves -/

@[simp] theorem basin_spareDone (st : Status) : (spareDone bs st b).basin bs = { b.basin bs with spareGo := false, spareResult := st } := by
  simp [spareDone, Block.basin_modBasin]

/-- A spare is bound: the slot it takes over is fenced, no spare is left, and the operation is done. -/
theorem basin_bound (a : LogAct) {b : Block} {l : Nat} :
    (spareDone bs .ok (logAct bs a (bindSpare bs l p b))).basin bs =
      { b.basin bs with phys := SMap.set l (b.basin bs).spare (b.basin bs).phys, spare := 0x1F, spareGo := false, spareResult := .ok
                        fencedSlots := (b.basin bs).fencedSlots ||| (1#17 <<< p) } := by
  have h : (bindSpare bs l p b).basin bs = { b.basin bs with phys := SMap.set l (b.basin bs).spare (b.basin bs).phys, spare := 0x1F
                                                             fencedSlots := (b.basin bs).fencedSlots ||| (1#17 <<< p) } := by
    simp [bindSpare, Block.basin_modBasin]
  rw [basin_spareDone]
  exact congrArg (fun x : Basin => { x with spareGo := false, spareResult := .ok }) h

theorem core_bound (a : LogAct) {l : Nat} : (spareDone bs .ok (logAct bs a (bindSpare bs l p b))).core c = b.core c := rfl

/-- What a lost core holds is as after a scrub. -/
theorem core_loseCore : ∃ x, (loseCore c b).core c = Core.scrub x := by
  simp only [loseCore]
  generalize abortCmds _ _ _ = s
  exact ⟨_, Block.core_setCore_same ..⟩

/-! ### The rows, where no operation runs -/

/-- What a write that asks for an operation finds when it starts it. -/
abbrev Block.asked (b : Block) (bs p op : Nat) : Block := b.modBasin bs fun x => { x with sparePslot := p, spareOp := op }

theorem basin_asked (b : Block) (bs p op : Nat) :
    (b.asked bs p op).basin bs = { b.basin bs with sparePslot := p, spareOp := op } := by
  simp [Block.asked, Block.basin_modBasin]

theorem coreAt_asked {op : Nat} : coreAt (b.asked bs p op) bs p = coreAt b bs p :=
  coreAt_modBasin (f := fun x => { x with sparePslot := p, spareOp := op }) fun _ => rfl

theorem askSpare_running {op : Nat} {f : Block → Block} (h : (b.basin bs).spareGo = true) : askSpare bs p op f b = b.asked bs p op :=
  if_pos h

theorem askSpare_idle {op : Nat} {f : Block → Block} (h : (b.basin bs).spareGo = false) :
    askSpare bs p op f b = f (b.asked bs p op) := by
  simp [askSpare, h]

variable (hbs : bs < 256) (hp : p < 17)
include hbs hp

theorem slots_ok : (decide (bs < 256) && decide (p < 17)) = true := by simp [hbs, hp]

theorem does_copyCore_fenced (hgo : (b.basin bs).spareGo = false) (hs : (b.basin bs).spare = 0x1F) :
    Does (.copyCore bs p) b (spareDone bs .fenced (b.asked bs p 1)) := by
  refine does_within (exec_copyCore bs p) (slots_ok hbs hp) ((askSpare_idle hgo).trans ?_)
  simp [copyCore, basin_asked, hs]

theorem does_copyCore_bound (hgo : (b.basin bs).spareGo = false) (hs : (b.basin bs).spare ≠ 0x1F) (hc : coreAt b bs p = some c)
    (hstop : (b.core c).regs.stopReq = true) (hrest : coreAtRest b c = true)
    (hth : ∀ t ∈ (b.core c).threads, t.2.st = .stopped ∨ t.2.st = .free) :
    Does (.copyCore bs p) b (spareDone bs .ok
      (logAct bs (.bind (c % 16) (b.basin bs).spare p) (bindSpare bs (c % 16) p (b.asked bs p 1)))) := by
  refine does_within (exec_copyCore bs p) (slots_ok hbs hp) ((askSpare_idle hgo).trans ?_)
  have at' : coreAt (b.asked bs p 1) bs p = some c := coreAt_asked.trans hc
  have rest : coreAtRest (b.asked bs p 1) c = true := hrest
  have stop : ((b.asked bs p 1).core c).regs.stopReq = true := hstop
  have still : (((b.asked bs p 1).core c).threads.all fun t => t.2.st == .stopped || t.2.st == .free) = true := by
    have : ∀ t ∈ ((b.asked bs p 1).core c).threads, t.2.st = .stopped ∨ t.2.st = .free := hth
    simpa [List.all_eq_true] using this
  simp [copyCore, basin_asked, hs, at', rest, stop, still]

theorem does_deadCore_bound (hgo : (b.basin bs).spareGo = false) (hs : (b.basin bs).spare ≠ 0x1F) (hc : coreAt b bs p = some c) :
    Does (.deadCore bs p) b (spareDone bs .ok
      (logAct bs (.bind (c % 16) (b.basin bs).spare p) (bindSpare bs (c % 16) p (loseCore c (b.asked bs p 2))))) := by
  refine does_within (exec_deadCore bs p) (slots_ok hbs hp) ((askSpare_idle hgo).trans ?_)
  have at' : coreAt (b.asked bs p 2) bs p = some c := coreAt_asked.trans hc
  simp [deadCore, basin_asked, hs, at']

/-- TEST ends on the block as it is, or on one that has just been asked for it. -/
theorem does_testCore (pass : Bool) : ∃ a : Block, Does (.testCore bs p pass) b (testCore bs p pass a)
    ∧ a.parts = b.parts ∧ a.cores = b.cores := by
  have run : ∀ {b'}, runTest bs p pass b = b' → Does (.testCore bs p pass) b b' :=
    does_within (exec_testCore bs p pass) (slots_ok hbs hp)
  cases hgo : (b.basin bs).spareGo with
  | true => exact ⟨b, run (if_pos hgo), rfl, rfl⟩
  | false => exact ⟨b.asked bs p 3, run (by simp [runTest, hgo, askSpare_idle hgo]), rfl, rfl⟩

end Slots

theorem testCore_busy {b : Block} {bs p : Nat} {pass : Bool} (h : b.partOfBasin bs ≠ none) :
    testCore bs p pass b = spareDone bs .busy b := if_pos (Option.isSome_iff_ne_none.mpr h)

theorem basin_testCore {b : Block} {bs p : Nat} {pass : Bool} (h : b.partOfBasin bs = none) :
    (testCore bs p pass b).basin bs = { b.basin bs with
      spareGo := false, spareResult := if pass then .ok else .internal
      tested := if pass then (b.basin bs).tested ||| (1#17 <<< p) else (b.basin bs).tested &&& ~~~(1#17 <<< p) } := by
  simp [testCore, h, Block.basin_modBasin]

theorem cores_testCore {b : Block} {bs p : Nat} {pass : Bool} : (testCore bs p pass b).cores = b.cores := by
  unfold testCore; split <;> rfl

/-- Settles O41: the calibration by what each of its stages leaves, the spares operation by operation, by what the write finds. -/
theorem calibrationAndSpares : Obligations.CalibrationAndSpares := by
  refine ⟨fun b x hup => ⟨calibration_counts hup, fun _ _ _ => calibration_shows_margin hup⟩, fun b bs p hbs hp => ?_⟩
  intro y
  refine ⟨fun hgo => ⟨?_, ?_⟩, fun hgo hs => ?fenced, fun c hgo hs hc => ⟨fun hstop hrest hth => ?copy, ?dead⟩,
    fun hpart pass => ?test, fun hpart pass => ?busy⟩
  · exact does_within (exec_copyCore bs p) (slots_ok hbs hp) (askSpare_running hgo)
  · exact does_within (exec_deadCore bs p) (slots_ok hbs hp) (askSpare_running hgo)
  case fenced => exact ⟨_, does_copyCore_fenced hbs hp hgo hs, by rw [basin_spareDone], rfl⟩
  case copy =>
    refine ⟨_, does_copyCore_bound hbs hp hgo hs hc hstop hrest hth, by rw [basin_bound], ?_, by rw [basin_bound],
      by rw [basin_bound]; exact getLsbD_or_slot _ hp, rfl⟩
    unfold Block.pslot
    rw [basinOf_coreAt hc, basin_bound, SMap.get_set_same, basin_asked]
  case dead =>
    obtain ⟨x, hx⟩ := core_loseCore (b := b.asked bs p 2) (c := c)
    refine ⟨_, does_deadCore_bound hbs hp hgo hs hc, by rw [basin_bound], by rw [basin_bound],
      by rw [basin_bound]; exact getLsbD_or_slot _ hp, ?_⟩
    rw [core_bound, hx]
    exact ⟨rfl, fun _ => rfl, fun _ => rfl⟩
  case test =>
    obtain ⟨a, hd, hparts, hcores⟩ := does_testCore (b := b) hbs hp pass
    have free : a.partOfBasin bs = none := by simpa only [Block.partOfBasin, hparts] using hpart
    refine ⟨_, hd, by rw [basin_testCore free], ?_, cores_testCore.trans hcores⟩
    rw [basin_testCore free]
    cases pass
    · exact getLsbD_andNot_slot _ hp
    · exact getLsbD_or_slot _ hp
  case busy =>
    obtain ⟨a, hd, hparts, -⟩ := does_testCore (b := b) hbs hp pass
    have owned : a.partOfBasin bs ≠ none := by simpa only [Block.partOfBasin, hparts] using hpart
    exact ⟨_, hd, by rw [testCore_busy owned, basin_spareDone]⟩

end Sys2Proof.Machine
end

section
/-! PROOFS. Weir levels follow the supply (R913–R920). -/

namespace Sys2Proof.Machine

/-! ### What acts on a level leaves the supply as it is -/

/-- The weir level, what the module knows of its supply, and the main rails. -/
structure Supply where
  level : Nat
  vinDv : Nat
  vinHist : List Nat
  sagLow : Bool
  mainUp : Bool

def Block.supply (b : Block) : Supply :=
  { level := b.lock.level, vinDv := b.lock.vinDv, vinHist := b.lock.vinHist, sagLow := b.lock.sagLow, mainUp := b.th.mainUp }

theorem supply_of_unposted {b b' : Block} (h : b'.unposted = b.unposted) : b'.supply = b.supply :=
  (congrArg Block.supply h :)

theorem supply_foldl {α : Type} {f : Block → α → Block} (h : ∀ b x, (f b x).supply = b.supply) (l : List α) (b : Block) :
    (l.foldl f b).supply = b.supply := foldl_keeps Block.supply f h l b

section Keeps
variable (b : Block)

@[simp] theorem supply_modBasin (n : Nat) (f : Basin → Basin) : (b.modBasin n f).supply = b.supply := rfl
@[simp] theorem supply_modThread (n : Nat) (f : Thread → Thread) : (b.modThread n f).supply = b.supply := rfl
@[simp] theorem supply_freeBelow (n : Nat) : (b.freeBelow n).2.supply = b.supply := rfl
@[simp] theorem supply_countRefused (d : Nat) : (countRefused d b).supply = b.supply := rfl
@[simp] theorem supply_modCmd (q : QueueRef) (id : Nat) (f : Cmd → Cmd) : (b.modCmd q id f).supply = b.supply := by cases q <;> rfl
@[simp] theorem mem_modCmd (q : QueueRef) (id : Nat) (f : Cmd → Cmd) : (b.modCmd q id f).mem = b.mem := by cases q <;> rfl

@[simp] theorem supply_modRun (ctx id : Nat) (f : SchedRun → SchedRun) : (modRun ctx id f b).supply = b.supply := by
  unfold modRun Block.modContext; split <;> rfl

@[simp] theorem supply_endRun (ctx : Nat) (r : SchedRun) (st : Status) : (endRun ctx r st b).supply = b.supply := by
  simp only [endRun, supply_modRun]
  split <;> rfl

@[simp] theorem supply_refuseRequest (n : Nat) (r : PassReq) : (refuseRequest n r b).supply = b.supply := by
  simp only [refuseRequest]
  split
  · split <;> simp
  · split
    · rfl
    · split <;> simp

@[simp] theorem supply_refuseWaiting : (refuseWaiting b).supply = b.supply :=
  supply_foldl (fun _ _ => supply_refuseRequest ..) ..

/-! ### A thread that stops -/

@[simp] theorem supply_corrT1 (pa : Nat) (patrol : Bool) : (corrT1 pa patrol b).supply = b.supply :=
  (supply_of_unposted (unposted_postFirmware ..)).trans rfl

@[simp] theorem supply_t1Met (pa n : Nat) : (t1Met pa n b).supply = b.supply := supply_foldl (fun _ _ => by split <;> simp) ..

@[simp] theorem supply_t1Correct (a : Nat) : (t1Correct a b).supply = b.supply := supply_t1Met ..

@[simp] theorem supply_t1Write (pa : Nat) (bs : List Byte) : (t1Write pa bs b).supply = b.supply := by
  unfold t1Write
  split
  · rfl
  · exact supply_foldl (fun _ _ => supply_t1Correct ..) ..

@[simp] theorem supply_landed (slot : Nat) (prev : Bool) : (landed slot prev b).supply = b.supply := by
  unfold landed; split <;> rfl

@[simp] theorem supply_landStore (x : Store) : (landStore x b).supply = b.supply := by
  rw [landStore, supply_landed, supply_t1Write]; rfl

@[simp] theorem supply_landOwn (n : Nat) : (landOwn n b).supply = b.supply := supply_foldl (fun _ _ => supply_landStore ..) ..

@[simp] theorem supply_accessOver (n : Nat) : (accessOver n b).supply = b.supply := by
  simp only [accessOver, answerTstop]; split <;> rfl

@[simp] theorem supply_stopThread (n : Nat) : (stopThread n b).2.supply = b.supply := by
  simp only [stopThread]
  split
  · split <;> simp
  · split <;> simp
  · simp
  · simp

@[simp] theorem supply_weirStop (n : Nat) : (weirStop b n).supply = b.supply := by
  simp only [weirStop]; split <;> simp

end Keeps

/-! ### The weir notice goes out on the links alone (R922) -/

/-- A block but for its links. -/
def Block.offLinks (b : Block) : Block := { b with kreash := Block.reset.kreash }

theorem offLinks_sendRecord (r : TxRecord) (b : Block) : (sendRecord r b).offLinks = b.offLinks := by
  rw [sendRecord]
  split
  · rw [sendNow]
    split
    · exact foldl_keeps Block.offLinks (fun b f => putFlit _ f b) (fun _ _ => rfl) ..
    · rfl
  · rfl

theorem offLinks_sendWeirNotice (n : Nat) (b : Block) : (sendWeirNotice n b).offLinks = b.offLinks :=
  foldl_keeps Block.offLinks _ (fun _ _ => offLinks_sendRecord ..) ..

@[simp] theorem supply_sendWeirNotice (n : Nat) (b : Block) : (sendWeirNotice n b).supply = b.supply :=
  (congrArg Block.supply (offLinks_sendWeirNotice n b) :)

@[simp] theorem mem_sendWeirNotice (n : Nat) (b : Block) : (sendWeirNotice n b).mem = b.mem :=
  (congrArg Block.mem (offLinks_sendWeirNotice n b) :)

@[simp] theorem supply_platformEvent (e : Nat) (b : Block) : (platformEvent e b).supply = b.supply := rfl

/-! ### The level rises -/

/-- A rise never lowers the level, and leaves the rest of the supply. -/
theorem supply_weirRise (n : Nat) (b : Block) : (weirRise n b).supply = { b.supply with level := max b.lock.level n } := by
  unfold weirRise
  extract_lets old s
  split
  next h => rw [max_eq_left h]; rfl
  next h =>
    have counted : s.supply = { b.supply with level := n } := by
      rw [supply_refuseWaiting]
      unfold countWeir
      split <;> rfl
    rw [max_eq_right (Nat.le_of_not_le h), ← counted]
    split
    · rw [supply_platformEvent, supply_sendWeirNotice]
      exact supply_foldl supply_weirStop ..
    · rfl

/-- Below level 3 a request is refused by its command's end alone. -/
theorem mem_refuseRequest {b : Block} (h : b.lock.level < 3) (n : Nat) (r : PassReq) : (refuseRequest n r b).mem = b.mem := by
  simp only [refuseRequest, h, if_true]
  split
  · split
    · rfl
    · exact mem_modCmd ..
  · rfl

theorem mem_refuseWaiting {b : Block} (h : b.lock.level < 3) : (refuseWaiting b).mem = b.mem := by
  refine (List.foldlRecOn (motive := fun s : Block => s.supply = b.supply ∧ s.mem = b.mem) _ _ ⟨rfl, rfl⟩
    fun s hs p _ => ?_).2
  obtain ⟨hsup, hmem⟩ := hs
  have low : s.lock.level < 3 := by rwa [show s.lock.level = b.lock.level from congrArg Supply.level hsup]
  exact ⟨(supply_refuseRequest ..).trans hsup, (mem_refuseRequest low ..).trans hmem⟩

theorem level_countWeir (n : Nat) (x : LockKeeper) : (countWeir n x).level = x.level := by unfold countWeir; split <;> rfl

theorem mem_weirRise {n : Nat} {b : Block} (h : n < 3) : (weirRise n b).mem = b.mem := by
  unfold weirRise
  extract_lets old s
  split
  · rfl
  · rw [if_neg (Nat.ne_of_lt h)]
    exact mem_refuseWaiting (by simpa [Block.modLock, level_countWeir] using h)

/-! ### The supply is acted on -/

section Acts
variable {b : Block} (hup : b.th.mainUp = true)
include hup

theorem applyWeir_rises (ht : triggered b.lock ≠ 5) (hl : b.lock.level ≠ 4) :
    applyWeir b = weirRise (max (min (triggered b.lock) 3) (sagFloor b.lock)) b := by
  simp [applyWeir, hup, ht, hl]

/-- Level 5 is a reset (R921). -/
theorem applyWeir_level5 (ht : triggered b.lock = 5) : applyWeir b = platformEvent 2 (standby 5 b) := by
  simp [applyWeir, hup, ht]

theorem tryPowerUp_up : tryPowerUp b = b := by simp [tryPowerUp, hup]

end Acts

theorem tryPowerUp_unarmed {b : Block} (h : b.th.armed = false) : tryPowerUp b = b := by simp [tryPowerUp, h]

theorem armed_standby (cause : Nat) (b : Block) : (platformEvent 2 (standby cause b)).th.armed = false := rfl

/-! ### Samples of VIN (R915) -/

/-- The block with a sample in it, before it acts on the level. -/
def sampled (dv : Nat) (droop : Bool) (b : Block) : Block :=
  let s := b.modLock fun x =>
    let h := (dv :: x.vinHist).take 4
    { x with vinHist := h, vinDv := h.sum / h.length, droop := droop }
  s.modLock fun x => { x with trigger := triggered x }

section Samples
variable {b : Block} (dv : Nat) (droop : Bool)

/-- The average of the samples is below a threshold. -/
def sampleBelow (b : Block) (dv v : Nat) : Bool :=
  decide (((dv :: b.lock.vinHist).take 4).sum < v * ((dv :: b.lock.vinHist).take 4).length)

theorem vinBelow_sampled (v : Nat) : vinBelow (sampled dv droop b).lock v = sampleBelow b dv v := rfl

/-- The level that a sample asks for, short of level 5. -/
def sampleLevel (b : Block) (dv : Nat) (droop : Bool) : Nat :=
  if sampleBelow b dv 420 then 3 else if sampleBelow b dv 440 then 2 else if sampleBelow b dv 460 || droop then 1 else 0

/-- Below 40 V is below 42 V: level 4 is never entered at once. -/
theorem triggered_sampled (h : sampleBelow b dv 360 = false) : triggered (sampled dv droop b).lock ≠ 5
    ∧ min (triggered (sampled dv droop b).lock) 3 = sampleLevel b dv droop := by
  have mono : sampleBelow b dv 400 = true → sampleBelow b dv 420 = true := by
    simp only [sampleBelow, decide_eq_true_eq]
    omega
  have hd : (sampled dv droop b).lock.droop = droop := rfl
  simp only [triggered, vinBelow_sampled, hd, h, sampleLevel]
  cases h4 : sampleBelow b dv 400 with
  | true => simp [mono h4]
  | false => cases sampleBelow b dv 420 <;> cases sampleBelow b dv 440 <;> cases sampleBelow b dv 460 || droop <;> simp

theorem triggered_sampled_low (h : sampleBelow b dv 360 = true) : triggered (sampled dv droop b).lock = 5 := by
  simp [triggered, vinBelow_sampled, h]

variable (hup : b.th.mainUp = true) (hrail : b.th.railUp = true)
include hrail

theorem does_vinSample : Does (.vinSample dv droop false) b (tryPowerUp (applyWeir (sampled dv droop b))) :=
  does_next (exec_vinSample dv droop false) (by simp only [vinSample, hrail, Bool.not_true, Bool.false_eq_true, if_false, sampled])

include hup

/-- The level that a sample leaves (R915, R917). -/
theorem does_vinSample_rises (hl : b.lock.level ≤ 3) (h : sampleBelow b dv 360 = false) :
    Does (.vinSample dv droop false) b (weirRise (max (sampleLevel b dv droop) (sagFloor b.lock)) (sampled dv droop b)) := by
  obtain ⟨hne, hmin⟩ := triggered_sampled dv droop h
  have rises := applyWeir_rises (b := sampled dv droop b) hup hne (Nat.ne_of_lt (Nat.lt_succ_of_le hl))
  rw [hmin] at rises
  have up : (applyWeir (sampled dv droop b)).th.mainUp = true := by
    rw [rises]
    exact (congrArg Supply.mainUp (supply_weirRise ..)).trans hup
  have done := does_vinSample dv droop hrail (b := b)
  rwa [tryPowerUp_up up, rises] at done

theorem does_vinSample_standby (h : sampleBelow b dv 360 = true) :
    Does (.vinSample dv droop false) b (platformEvent 2 (standby 5 (sampled dv droop b))) := by
  have falls := applyWeir_level5 (b := sampled dv droop b) hup (triggered_sampled_low dv droop h)
  have off := tryPowerUp_unarmed (armed_standby 5 (sampled dv droop b))
  have done := does_vinSample dv droop hrail (b := b)
  rwa [falls, off] at done

end Samples

/-! ### SAG_N (R917) -/

section Sag
variable {b : Block} (hup : b.th.mainUp = true) (hrail : b.th.railUp = true)
include hup hrail

theorem does_sagNEdge {high : Bool} (ht : triggered b.lock ≠ 5) (hl : b.lock.level ≠ 4) :
    Does (.sagNEdge high) b (weirRise (max (min (triggered b.lock) 3) (sagFloor { b.lock with sagLow := !high }))
      (b.modLock fun x => { x with sagLow := !high })) := by
  refine does_next (exec_sagNEdge high) ?_
  simp only [sagEdge, hrail, Bool.not_true, Bool.false_eq_true, if_false]
  exact applyWeir_rises hup ht hl

end Sag

/-- A level below 3 whose trigger is gone falls by one, unless SAG_N holds it (R916). -/
theorem does_weirFall {b : Block} {n : Nat} (hup : b.th.mainUp = true) (hl : b.lock.level = n + 1) (hn : n < 2)
    (hg : triggerGone b.lock (n + 1) = true) (hs : b.lock.sagLow = false) :
    Does .weirFall b (b.modLock fun x => countWeir n { x with level := n }) := by
  refine does_next exec_weirFall ?_
  have not4 : n ≠ 3 := by omega
  have not3 : n ≠ 2 := by omega
  simp [weirFall, weirDrop, hl, hup, hg, hs, sagFloor, not4, not3]

/-! ### Level 4 (R919) -/

/-- A thread, and a core, of a system core that is gated. -/
def Thread.gated (t : Thread) : Thread :=
  match t.st with
  | .ready | .waiting | .parked => { t with st := .stopped }
  | _ => t

def gatedCore (n : Nat) (c : Core) : Core := if isSystem n then c.mapThreads Thread.gated else c

theorem Thread.not_ready_gated (t : Thread) : t.gated.st ≠ .ready := by
  unfold Thread.gated
  split <;> simp_all

theorem SMap.get_mapKey {α : Type} {d : α} {g : Nat → α → α} (k : Nat) (hd : g k d = d) (m : SMap α) :
    SMap.get d k (m.map fun e => (e.1, g e.1 e.2)) = g k (SMap.get d k m) := by
  induction m with
  | nil => exact hd.symm
  | cons e m ih =>
    obtain ⟨k', v⟩ := e
    by_cases h : k' = k
    · subst h; simp [SMap.get_cons]
    · simp [SMap.get_cons, h, ih]

/-- Level 4 is entered: the notice goes out, the system cores are gated, and the module is DEGRADED. -/
def level4Entered (b : Block) : Block :=
  let s := sendWeirNotice 4 (b.modLock fun x => { x with level := 4 })
  let s := { s with cores := s.cores.map fun (c : Nat × Core) => (c.1, gatedCore c.1 c.2) }
  platformEvent 2 { s with th := { s.th with stage := .degraded } }

theorem does_weirLevel4Entry {b : Block} (hup : b.th.mainUp = true) (hl : b.lock.level = 3) (hv : vinBelow b.lock 400 = true) :
    Does .weirLevel4Entry b (level4Entered b) :=
  does_next exec_weirLevel4Entry (if_pos (by simp [hl, hup, hv]))

theorem level4Entered_level (b : Block) : (level4Entered b).lock.level = 4 :=
  congrArg Supply.level (supply_sendWeirNotice 4 (b.modLock fun x => { x with level := 4 }))

theorem level4Entered_mem (b : Block) : (level4Entered b).mem = b.mem :=
  mem_sendWeirNotice 4 (b.modLock fun x => { x with level := 4 })

theorem level4Entered_not_ready (b : Block) {c : Nat} (hc : isSystem c = true) (t : Nat) :
    (((level4Entered b).core c).thread t).st ≠ .ready := by
  have core : (level4Entered b).core c = gatedCore c ((sendWeirNotice 4 (b.modLock fun x => { x with level := 4 })).core c) :=
    SMap.get_mapKey c (by simp only [gatedCore, hc]; rfl) _
  rw [core, gatedCore, if_pos hc, Core.thread_mapThreads rfl]
  exact Thread.not_ready_gated _

/-- Settles O40, row by row; what a rise does on the way leaves the supply as it is. -/
theorem weirLevelsFollowTheSupply : Obligations.WeirLevelsFollowTheSupply := by
  intro b hup hrail
  refine ⟨fun dv droop hl => ?samples, fun hl hv hs => does_weirFall hup hl (by decide) (by simp [triggerGone, weirDv, hv]) hs,
    fun hl hv hd hs => does_weirFall hup hl (by decide) (by simp [triggerGone, weirDv, hv, hd]) hs, fun hl ht hs => ?sagLow,
    fun hl h5 ht => ?sagHigh, fun hl hv => ⟨_, does_weirLevel4Entry hup hl hv, level4Entered_level b, rfl, level4Entered_mem b,
      fun _ t hc => level4Entered_not_ready b hc t⟩, fun hl hv => ?leave4⟩
  case samples =>
    intro h below n floor
    refine ⟨fun hb => ?_, fun hb => ⟨_, does_vinSample_standby dv droop hup hrail hb, rfl, rfl, rfl, rfl⟩⟩
    have rises := supply_weirRise (max n floor) (sampled dv droop b)
    have level := congrArg Supply.level rises
    refine ⟨_, does_vinSample_rises dv droop hup hrail hl hb, level, congrArg Supply.vinDv rises,
      congrArg Supply.vinHist rises, fun h3 => ?_⟩
    exact mem_weirRise (b := sampled dv droop b) (lt_of_le_of_lt ((le_max_right ..).trans_eq level.symm) h3)
  case sagLow =>
    have rises := supply_weirRise (max (min (triggered b.lock) 3) (sagFloor { b.lock with sagLow := true }))
      (b.modLock fun x => { x with sagLow := true })
    refine ⟨_, does_sagNEdge hup hrail (by simp [ht]) (by simp [hl]), (congrArg Supply.level rises).trans ?_,
      congrArg Supply.sagLow rises⟩
    simp [Block.modLock, hl, ht, sagFloor, hs]
  case sagHigh =>
    have done := does_sagNEdge (high := true) hup hrail (Nat.ne_of_lt h5) (by omega)
    rwa [weirRise, if_pos] at done
    simp [sagFloor, Block.modLock, ht]
  case leave4 => exact does_next exec_weirLevel4Exit (by simp [weirLevel4Exit, hl, hv])

end Sys2Proof.Machine
end

section
/-! PROOFS. The integer group (R108, R110–R112): the value of each operation as a number, and the rows that write it to gD. -/

namespace Sys2Proof.Machine

/-! ### The rows that write gD -/

section Rows
variable {b : Block} {th : Nat} {d x y : Reg} {i : Instr} {r : U64}

theorem issues_regReg {f : U64 → U64 → U64} (hi : canIssue b th false = true)
    (he : ∀ s, exec i s = onBlock s fun b => issue th false b (regReg th d x y f)) (h : f (b.g th x) (b.g th y) = r) :
    Issues th i b (finishG th d r b) := issues_word he hi (congrArg (finishG th d · b) h)

theorem issues_regOne {f : U64 → U64} (hi : canIssue b th false = true)
    (he : ∀ s, exec i s = onBlock s fun b => issue th false b (regOne th d x f)) (h : f (b.g th x) = r) :
    Issues th i b (finishG th d r b) := issues_word he hi (congrArg (finishG th d · b) h)

/-- A row that writes gD whatever registers it reads. -/
theorem issues_finishG {v : Block → U64} (hi : canIssue b th false = true)
    (he : ∀ s, exec i s = onBlock s fun b => issue th false b fun b => finishG th d (v b) b) (h : v b = r) :
    Issues th i b (finishG th d r b) := issues_word he hi (congrArg (finishG th d · b) h)

/-- A row of two words that writes gD. -/
theorem issues_finishLong {v : Block → U64} (hi : canIssue b th true = true)
    (he : ∀ s, exec i s = onBlock s fun b => issue th true b fun b => finishLong th d (v b) b) (h : v b = r) :
    Issues th i b (finishLong th d r b) := issues_of he (by rw [issue_of _ hi, h])

end Rows

/-! ### The values of R110's table and R111's corners -/

section Values
variable (u v : U64)

theorem mulHigh_eq : mulHigh u v = BitVec.ofInt 64 (u.toInt * v.toInt / 2 ^ 64) := by
  have product : u.signExtend 128 * v.signExtend 128 = BitVec.ofInt 128 (u.toInt * v.toInt) := (BitVec.ofInt_mul ..).symm
  refine BitVec.eq_of_toNat_eq ?_
  rw [mulHigh, product]
  generalize u.toInt * v.toInt = n
  simp only [BitVec.truncate_eq_setWidth, BitVec.toNat_setWidth, BitVec.toNat_ushiftRight, BitVec.toNat_ofInt,
    Nat.shiftRight_eq_div_pow]
  omega

theorem mulHighU_eq : mulHighU u v = BitVec.ofNat 64 (u.toNat * v.toNat / 2 ^ 64) := by
  have product : u.zeroExtend 128 * v.zeroExtend 128 = BitVec.ofNat 128 (u.toNat * v.toNat) := by
    rw [BitVec.ofNat_mul, BitVec.ofNat_toNat, BitVec.ofNat_toNat]
  refine BitVec.eq_of_toNat_eq ?_
  rw [mulHighU, product]
  generalize u.toNat * v.toNat = n
  simp only [BitVec.truncate_eq_setWidth, BitVec.toNat_setWidth, BitVec.toNat_ushiftRight, BitVec.toNat_ofNat,
    Nat.shiftRight_eq_div_pow]
  omega

theorem divS_eq : divS u v = if v = 0 then BitVec.allOnes 64 else BitVec.ofInt 64 (u.toInt.tdiv v.toInt) := by
  refine if_congr Iff.rfl rfl (BitVec.eq_of_toInt_eq ?_)
  rw [BitVec.toInt_sdiv, BitVec.toInt_ofInt]

theorem remS_eq : remS u v = if v = 0 then u else BitVec.ofInt 64 (u.toInt.tmod v.toInt) := by
  refine if_congr Iff.rfl rfl ?_
  rw [← BitVec.toInt_srem, BitVec.ofInt_toInt]

theorem divU_eq : divU u v = if v = 0 then BitVec.allOnes 64 else BitVec.ofNat 64 (u.toNat / v.toNat) := by
  refine if_congr Iff.rfl rfl (BitVec.eq_of_toNat_eq ?_)
  have fits : u.toNat / v.toNat < 2 ^ 64 := lt_of_le_of_lt (Nat.div_le_self ..) u.isLt
  rw [BitVec.toNat_udiv, BitVec.toNat_ofNat, Nat.mod_eq_of_lt fits]

theorem remU_eq : remU u v = if v = 0 then u else BitVec.ofNat 64 (u.toNat % v.toNat) := by
  refine if_congr Iff.rfl rfl (BitVec.eq_of_toNat_eq ?_)
  have fits : u.toNat % v.toNat < 2 ^ 64 := lt_of_le_of_lt (Nat.mod_le ..) u.isLt
  rw [BitVec.toNat_umod, BitVec.toNat_ofNat, Nat.mod_eq_of_lt fits]

theorem shiftLeft_eq_ofNat (n : Nat) : u <<< n = BitVec.ofNat 64 (u.toNat * 2 ^ n) :=
  BitVec.eq_of_toNat_eq (by rw [BitVec.toNat_shiftLeft, BitVec.toNat_ofNat, Nat.shiftLeft_eq])

theorem ushiftRight_eq_ofNat (n : Nat) : u >>> n = BitVec.ofNat 64 (u.toNat / 2 ^ n) := by
  refine BitVec.eq_of_toNat_eq ?_
  have fits : u.toNat / 2 ^ n < 2 ^ 64 := lt_of_le_of_lt (Nat.div_le_self ..) u.isLt
  rw [BitVec.toNat_ushiftRight, BitVec.toNat_ofNat, Nat.shiftRight_eq_div_pow, Nat.mod_eq_of_lt fits]

theorem sshiftRight_eq_ofInt (n : Nat) : u.sshiftRight n = BitVec.ofInt 64 (u.toInt / 2 ^ n) := by
  rw [BitVec.sshiftRight, Int.shiftRight_eq_div_pow]
  simp only [Nat.cast_pow, Nat.cast_ofNat]

/-- The lesser of two values, and the greater; of equal ones it does not matter which. -/
theorem minS_eq : (if v.slt u then v else u) = if u.toInt ≤ v.toInt then u else v := by
  rw [← ite_not]
  exact if_congr (by rw [BitVec.slt_iff_toInt_lt, Int.not_lt]) rfl rfl

theorem minU_eq : (if v.ult u then v else u) = if u.toNat ≤ v.toNat then u else v := by
  rw [← ite_not]
  exact if_congr (by rw [BitVec.ult_iff_toNat_lt, Nat.not_lt]) rfl rfl

theorem maxS_eq : (if u.slt v then v else u) = if u.toInt ≤ v.toInt then v else u := by
  simp only [BitVec.slt_iff_toInt_lt]
  obtain h | h | h := lt_trichotomy u.toInt v.toInt
  · rw [if_pos h, if_pos h.le]
  · rw [BitVec.eq_of_toInt_eq h, ite_self, ite_self]
  · rw [if_neg h.asymm, if_neg h.not_ge]

theorem maxU_eq : (if u.ult v then v else u) = if u.toNat ≤ v.toNat then v else u := by
  simp only [BitVec.ult_iff_toNat_lt]
  obtain h | h | h := lt_trichotomy u.toNat v.toNat
  · rw [if_pos h, if_pos h.le]
  · rw [BitVec.eq_of_toNat_eq h, ite_self, ite_self]
  · rw [if_neg h.asymm, if_neg h.not_ge]

end Values

/-- Settles O7: each row is `regReg` of an operation whose value the lemmas above give. -/
theorem integerTwoOperandResults : Obligations.IntegerTwoOperandResults := by
  intro b th d x y hi u v n gives
  have row : ∀ {i f r}, (∀ s, exec i s = onBlock s fun b => issue th false b (regReg th d x y f)) → f u v = r → gives i r :=
    issues_regReg hi
  exact ⟨row (exec_add th d x y) rfl, row (exec_sub th d x y) rfl, row (exec_mul th d x y) rfl,
    row (exec_mulh th d x y) (mulHigh_eq u v), row (exec_mulhu th d x y) (mulHighU_eq u v), row (exec_div th d x y) (divS_eq u v),
    row (exec_divu th d x y) (divU_eq u v), row (exec_rem th d x y) (remS_eq u v), row (exec_remu th d x y) (remU_eq u v),
    row (exec_andd th d x y) rfl, row (exec_orr th d x y) rfl, row (exec_xor th d x y) rfl, row (exec_andn th d x y) rfl,
    row (exec_sll th d x y) (shiftLeft_eq_ofNat u n), row (exec_srl th d x y) (ushiftRight_eq_ofNat u n),
    row (exec_sra th d x y) (sshiftRight_eq_ofInt u n), row (exec_minS th d x y) (minS_eq u v),
    row (exec_maxS th d x y) (maxS_eq u v), row (exec_minu th d x y) (minU_eq u v), row (exec_maxu th d x y) (maxU_eq u v)⟩

/-! ### Counts, extensions and immediates -/

section Counts
variable (u : U64)

/-- The zeros below bit `n`, counted downward: those bits are 0, and the bit below them, if any is left, is 1. -/
theorem zerosDown_spec : ∀ n, zerosDown u n ≤ n ∧ (∀ i, n - zerosDown u n ≤ i → i < n → u.getLsbD i = false)
    ∧ (zerosDown u n < n → u.getLsbD (n - 1 - zerosDown u n) = true)
  | 0 => ⟨le_rfl, fun i _ h => absurd h (Nat.not_lt_zero i), fun h => absurd h (Nat.lt_irrefl 0)⟩
  | n + 1 => by
    obtain ⟨bound, zeros, one⟩ := zerosDown_spec n
    rw [zerosDown]
    split
    case isTrue h => exact ⟨Nat.zero_le _, fun i _ _ => by omega, fun _ => h⟩
    case isFalse h =>
      refine ⟨by omega, fun i hl hu => ?_, fun hk => ?_⟩
      · obtain rfl | hn : i = n ∨ i < n := by omega
        · simpa using h
        · exact zeros i (by omega) hn
      · have := one (by omega)
        rwa [show n - 1 - zerosDown u n = n + 1 - 1 - (1 + zerosDown u n) by omega] at this

/-- The zeros from bit `i` on, counted upward over `n` bits. -/
theorem zerosFrom_spec : ∀ n i, zerosFrom u i n ≤ n ∧ (∀ j, i ≤ j → j < i + zerosFrom u i n → u.getLsbD j = false)
    ∧ (zerosFrom u i n < n → u.getLsbD (i + zerosFrom u i n) = true)
  | 0, i => ⟨le_rfl, fun j _ h => by simp [zerosFrom] at h; omega, fun h => absurd h (Nat.lt_irrefl 0)⟩
  | n + 1, i => by
    obtain ⟨bound, zeros, one⟩ := zerosFrom_spec n (i + 1)
    rw [zerosFrom]
    split
    case isTrue h => exact ⟨Nat.zero_le _, fun j _ _ => by omega, fun _ => h⟩
    case isFalse h =>
      refine ⟨by omega, fun j hl hu => ?_, fun hk => ?_⟩
      · obtain rfl | hn : j = i ∨ i < j := by omega
        · simpa using h
        · exact zeros j hn (by omega)
      · have := one (by omega)
        rwa [show i + 1 + zerosFrom u (i + 1) n = i + (1 + zerosFrom u (i + 1) n) by omega] at this

/-- A number whose bits from `n` on are 0 is below 2 ^ n. -/
theorem toNat_lt_two_pow {n : Nat} (h : ∀ i, n ≤ i → i < 64 → u.getLsbD i = false) : u.toNat < 2 ^ n := by
  refine Nat.lt_pow_two_of_testBit _ fun i hi => ?_
  rw [BitVec.testBit_toNat]
  obtain hb | hb := Nat.lt_or_ge i 64
  · exact h i hi hb
  · exact BitVec.getLsbD_of_ge u i hb

/-- A number is a multiple of 2 ^ n exactly when its bits below `n` are 0. -/
theorem two_pow_dvd_toNat_iff {n : Nat} : 2 ^ n ∣ u.toNat ↔ ∀ i < n, u.getLsbD i = false := by
  rw [Nat.dvd_iff_mod_eq_zero]
  refine ⟨fun h i hi => ?_, fun h => Nat.eq_of_testBit_eq fun i => ?_⟩
  · have := congrArg (Nat.testBit · i) h
    rwa [Nat.testBit_mod_two_pow, decide_eq_true hi, Bool.true_and, Nat.zero_testBit] at this
  · rw [Nat.testBit_mod_two_pow, Nat.zero_testBit, BitVec.testBit_toNat]
    by_cases hi : i < n <;> simp [hi, h]

theorem clz_spec : zerosDown u 64 ≤ 64 ∧ u.toNat < 2 ^ (64 - zerosDown u 64)
    ∧ (zerosDown u 64 < 64 → 2 ^ (63 - zerosDown u 64) ≤ u.toNat) := by
  obtain ⟨bound, zeros, one⟩ := zerosDown_spec u 64
  exact ⟨bound, toNat_lt_two_pow u zeros, fun h => Nat.ge_two_pow_of_testBit (one h)⟩

theorem ctz_spec : zerosFrom u 0 64 ≤ 64 ∧ 2 ^ zerosFrom u 0 64 ∣ u.toNat
    ∧ (zerosFrom u 0 64 < 64 → ¬ 2 ^ (zerosFrom u 0 64 + 1) ∣ u.toNat) := by
  obtain ⟨bound, zeros, one⟩ := zerosFrom_spec u 64 0
  simp only [Nat.zero_add, two_pow_dvd_toNat_iff] at zeros one ⊢
  refine ⟨bound, fun i => zeros i (Nat.zero_le i), fun h hz => ?_⟩
  rw [hz _ (Nat.lt_succ_self _)] at one
  exact absurd (one h) Bool.false_ne_true

theorem onesIn_eq (n : Nat) : onesIn u n = ((List.range n).filter fun i => u.toNat / 2 ^ i % 2 = 1).length := by
  induction n with
  | zero => rfl
  | succ n ih =>
    rw [onesIn, ih, List.range_succ, List.filter_append, List.length_append, BitVec.getLsbD, Nat.testBit_eq_decide_div_mod_eq]
    by_cases h : u.toNat / 2 ^ n % 2 = 1 <;> simp [h, b2n]

end Counts

/-- A field read as a two's-complement integer is the integer of the word it makes. -/
theorem sextInt_eq_toInt {w v : Nat} (hw : 0 < w) : sextInt w v = (BitVec.ofNat w v).toInt := by
  obtain ⟨k, rfl⟩ : ∃ k, w = k + 1 := ⟨w - 1, by omega⟩
  rw [sextInt, BitVec.toInt_eq_toNat_cond, BitVec.toNat_ofNat]
  refine if_congr ?_ rfl rfl
  rw [Nat.add_sub_cancel, Nat.pow_succ]
  omega

theorem signExtend_truncate {w : Nat} (hw : 0 < w) (u : U64) :
    (u.truncate w).signExtend 64 = BitVec.ofInt 64 (sextInt w u.toNat) := by
  rw [sextInt_eq_toInt hw, BitVec.ofNat_toNat]
  rfl

theorem zeroExtend_truncate (u : U64) : (u.truncate 32).zeroExtend 64 = BitVec.ofNat 64 (u.toNat % 2 ^ 32) :=
  BitVec.eq_of_toNat_eq (by simp)

/-- `lih` puts its immediate over the low word of gD. -/
theorem high_low_words (w : U32) (u : U64) : (w.zeroExtend 64 <<< 32) ||| (u.truncate 32).zeroExtend 64
    = BitVec.ofNat 64 (w.toNat * 2 ^ 32 + u.toNat % 2 ^ 32) := by
  refine BitVec.eq_of_toNat_eq ?_
  have low : u.toNat % 2 ^ 32 < 2 ^ 32 := Nat.mod_lt _ (by decide)
  have word : w.toNat < 2 ^ 32 := w.isLt
  have shifted : w.toNat <<< 32 < 2 ^ 64 := by rw [Nat.shiftLeft_eq]; omega
  rw [BitVec.toNat_or, zeroExtend_truncate, BitVec.toNat_shiftLeft, BitVec.zeroExtend, BitVec.toNat_setWidth, BitVec.toNat_ofNat,
    BitVec.toNat_ofNat, Nat.mod_eq_of_lt (by omega : w.toNat < 2 ^ 64), Nat.mod_eq_of_lt shifted,
    Nat.mod_eq_of_lt (by omega : u.toNat % 2 ^ 32 < 2 ^ 64), Nat.mod_eq_of_lt (by omega : _ + _ < 2 ^ 64),
    ← Nat.shiftLeft_eq, Nat.shiftLeft_add_eq_or_of_lt low]

/-- Settles O8: the rows of one word and of two, each by the value it writes. -/
theorem oneOperandAndImmediateResults : Obligations.OneOperandAndImmediateResults := by
  intro b th d x i m l w u
  refine ⟨?oneWord, ?twoWords⟩
  case oneWord =>
    intro hi gives
    have row : ∀ {c f r}, (∀ s, exec c s = onBlock s fun b => issue th false b (regOne th d x f)) → f u = r → gives c r :=
      issues_regOne hi
    obtain ⟨clz1, clz2, clz3⟩ := clz_spec u
    obtain ⟨ctz1, ctz2, ctz3⟩ := ctz_spec u
    exact ⟨row (exec_addi th d x i) rfl, row (exec_andi th d x i) (by rw [BitVec.ofNat_toNat]),
      row (exec_ori th d x i) (by rw [BitVec.ofNat_toNat]), row (exec_xori th d x i) (by rw [BitVec.ofNat_toNat]),
      row (exec_shiLeft th d x m) (shiftLeft_eq_ofNat u _), row (exec_shiLogicalRight th d x m) (ushiftRight_eq_ofNat u _),
      row (exec_shiArithRight th d x m) (sshiftRight_eq_ofInt u _),
      issues_finishG hi (exec_lui th d i) (BitVec.ofInt_mul i.toInt 65536).symm,
      ⟨_, clz1, clz2, clz3, row (exec_clz th d x) rfl⟩, ⟨_, ctz1, ctz2, ctz3, row (exec_ctz th d x) rfl⟩,
      row (exec_popc th d x) (congrArg _ (onesIn_eq u 64)),
      row (exec_sextB th d x) (signExtend_truncate (by decide) u), row (exec_sextH th d x) (signExtend_truncate (by decide) u),
      row (exec_sextW th d x) (signExtend_truncate (by decide) u), row (exec_zextW th d x) (zeroExtend_truncate u)⟩
  case twoWords =>
    intro hi gives
    exact ⟨issues_finishLong hi (exec_li th d l) rfl, issues_finishLong hi (exec_lih th d w) (high_low_words w _),
      issues_finishLong hi (exec_addil th d x w) rfl⟩

end Sys2Proof.Machine
end

section
/-! PROOFS. Registers, predicates and control flow (R97, R111, R113–R122): what a write of one register or predicate changes,
the values of compares and predicate logic, and where jumps go. -/

namespace Sys2Proof.Machine

/-! ### One update after another -/

theorem SMap.filter_place {α : Type} (k : Nat) (v : α) (m : SMap α) :
    (SMap.place k v m).filter (fun e => e.1 != k) = m.filter fun e => e.1 != k := by
  induction m with
  | nil => simp [SMap.place]
  | cons e m ih =>
    obtain ⟨k', v'⟩ := e
    rw [SMap.place]
    split
    · simp [List.filter_cons]
    · simp only [List.filter_cons, ih]

/-- The last value set at a key stands. -/
@[simp] theorem SMap.put_put {α : Type} [DecidableEq α] (d : α) (k : Nat) (v w : α) (m : SMap α) :
    SMap.put d k w (SMap.put d k v m) = SMap.put d k w m := by
  have rest : (SMap.put d k v m).filter (fun e => e.1 != k) = m.filter fun e => e.1 != k := by
    rw [SMap.put]
    split
    · simp
    · simp [SMap.filter_place]
  rw [SMap.put, rest, SMap.put]

@[simp] theorem Core.setThread_setThread (c : Core) (n : Nat) (v w : Thread) : (c.setThread n v).setThread n w = c.setThread n w := by
  simp [Core.setThread]

@[simp] theorem Block.setCore_setCore (b : Block) (c : Nat) (v w : Core) : (b.setCore c v).setCore c w = b.setCore c w := by
  simp [Block.setCore]

@[simp] theorem Block.setThread_setThread (b : Block) (th : Nat) (v w : Thread) :
    (b.setThread th v).setThread th w = b.setThread th w := by
  simp [Block.setThread, Block.modCore]

theorem Block.modThread_modThread (b : Block) (th : Nat) (f g : Thread → Thread) :
    (b.modThread th f).modThread th g = b.modThread th fun t => g (f t) := by
  simp [Block.modThread]

/-! ### A write of one register or predicate -/

theorem Thread.setP_eq (t : Thread) (p : Pred) (v : Bool) : t.setP p v = { t with p := (t.setP p v).p } := by
  unfold Thread.setP; split <;> rfl

/-- The mask of one predicate has that bit alone. -/
theorem getLsbD_maskOf (p q : Pred) : (1#8 <<< q.toNat).getLsbD p.toNat = decide (p = q) := by revert p q; decide

theorem getLsbD_writeBit (w : BitVec 8) (p q : Pred) (v : Bool) :
    (if v then w ||| (1#8 <<< q.toNat) else w &&& ~~~(1#8 <<< q.toNat)).getLsbD p.toNat = if p = q then v else w.getLsbD p.toNat := by
  have small : p.toNat < 8 := p.isLt
  cases v
  · rw [if_neg Bool.false_ne_true, BitVec.getLsbD_and, BitVec.getLsbD_not, getLsbD_maskOf]
    by_cases h : p = q <;> simp only [h, decide_true, decide_false, Bool.not_true, Bool.not_false, Bool.and_false, if_true, if_false]
    rw [decide_eq_true small, Bool.and_self, Bool.and_true]
  · rw [if_pos rfl, BitVec.getLsbD_or, getLsbD_maskOf]
    by_cases h : p = q <;> simp only [h, decide_true, decide_false, Bool.or_true, Bool.or_false, if_true, if_false]

theorem Thread.getP_setP (t : Thread) (q p : Pred) (v : Bool) :
    (t.setP q v).getP p = if p = q ∧ q ≠ 0 then v else t.getP p := by
  by_cases hq : q = 0
  · rw [Thread.setP, if_pos hq, if_neg fun h => h.2 hq]
  · rw [Thread.setP, if_neg hq, Thread.getP, Thread.getP, getLsbD_writeBit]
    by_cases hp : p = 0
    · rw [if_pos hp, if_pos hp, if_neg fun h : p = q ∧ q ≠ 0 => hq (h.1 ▸ hp)]
    · rw [if_neg hp, if_neg hp]
      exact if_congr (iff_self_and.2 fun _ => hq) rfl rfl

/-- Settles O9: both rows change one thread, and of it one register or predicate and the program counter. -/
theorem registerAndPredicateWritesChangeOne : Obligations.RegisterAndPredicateWritesChangeOne := by
  intro b th
  refine ⟨fun d v => ?register, fun pd v => ?predicate⟩
  case register =>
    simp only [Block.g, finishG, Block.thread_modThread_same]
    refine ⟨fun r => Thread.getG_setG .., ?_, ?_, onlyThread_modThread ..⟩ <;> rw [Thread.setG_eq] <;> rfl
  case predicate =>
    simp only [Block.thread_modThread_same]
    refine ⟨fun p => Thread.getP_setP .., ?_, ?_, onlyThread_modThread ..⟩ <;> rw [Thread.setP_eq] <;> rfl

/-! ### Compares, predicate logic and select -/

section Predicates
variable {b b' : Block} {th : Nat} {ps : List Pred} {i : Instr}

/-- An instruction whose predicates are ready takes its effect. -/
theorem issues_predWord {f : Block → Block} (hi : canIssue b th false = true) (hp : predsReady b th ps = true)
    (he : ∀ s, exec i s = onBlock s fun b => issueP th ps b f) (h : f b = b') : Issues th i b b' :=
  issues_of he (by rw [issueP_of f hi hp, h])

/-- A row that writes a predicate with a value it takes from its thread. -/
theorem issues_setP {f : Thread → Bool} {pd : Pred} {v : Bool} (hi : canIssue b th false = true) (hp : predsReady b th ps = true)
    (he : ∀ s, exec i s = onBlock s fun b => issueP th ps b fun b => b.modThread th fun t => (t.setP pd (f t)).next 4)
    (h : f (b.thread th) = v) : Issues th i b (b.modThread th fun t => (t.setP pd v).next 4) :=
  issues_predWord hi hp he (modThread_congr (by rw [h]))

/-- A row that combines a condition of the block into a predicate. -/
theorem issues_compare {f : Block → Bool} {k : Combine} {pd : Pred} {v : Bool} (hi : canIssue b th false = true)
    (hp : predsReady b th ps = true) (he : ∀ s, exec i s = onBlock s fun b => issueP th ps b fun b => compareInto th k pd (f b) b)
    (h : combine k ((b.thread th).getP pd) (f b) = v) : Issues th i b (b.modThread th fun t => (t.setP pd v).next 4) :=
  issues_predWord hi hp he (modThread_congr (by rw [h]))

end Predicates

/-- R115's conditions as relations of the values. -/
theorem condHolds_eq (c : Cond) (u v : U64) : condHolds c u v = match c with
    | .eq => decide (u = v) | .ne => decide (u ≠ v) | .lt => decide (u.toInt < v.toInt) | .ge => decide (v.toInt ≤ u.toInt)
    | .ltu => decide (u.toNat < v.toNat) | .geu => decide (v.toNat ≤ u.toNat)
    | .tst => decide (u &&& v ≠ 0) | .ntst => decide (u &&& v = 0) := by
  cases c with
  | lt | ltu => rfl
  | ge => simp only [condHolds, BitVec.slt, ← decide_not, Int.not_lt]
  | geu => simp only [condHolds, BitVec.ult, ← decide_not, Nat.not_lt]
  | eq | ntst => exact Bool.beq_eq_decide_eq ..
  | ne | tst => simp only [condHolds, bne, Bool.beq_eq_decide_eq, decide_not]

/-- Settles O10: a compare goes through `compareInto`, predicate logic through `predLogic`, `sel` through `finishG`. -/
theorem predicateAndSelectResults : Obligations.PredicateAndSelectResults := by
  intro b th k pd pa pb c d x y i hi t gives holds into
  have cond : ∀ u v, combine k (t.getP pd) (condHolds c u v) = into (holds u v) := fun u v => by
    rw [condHolds_eq]
    cases k <;> rfl
  refine ⟨fun h1 => ⟨issues_compare hi h1 (exec_cmp th k pd c x y) (cond ..), issues_compare hi h1 (exec_cmpi th k pd c x i) (cond ..),
      issues_setP hi h1 (exec_pset th pd pa pb) rfl, issues_setP hi h1 (exec_pclr th pd pa pb) rfl⟩,
    fun h2 => ⟨issues_setP hi h2 (exec_pnot th pd pa pb) rfl, issues_setP hi h2 (exec_pmov th pd pa pb) rfl⟩,
    fun h3 => ⟨issues_setP hi h3 (exec_pand th pd pa pb) rfl, issues_setP hi h3 (exec_por th pd pa pb) rfl,
      issues_setP hi h3 (exec_pxor th pd pa pb) rfl, issues_setP hi h3 (exec_pandn th pd pa pb) rfl⟩,
    fun h1 => issues_predWord hi h1 (exec_sel th d x y pa) (congrArg (finishG th d · b) ?_)⟩
  exact (apply_ite (b.g th) ..).symm

/-! ### Jumps -/

/-- Whether an address may be fetched does not depend on the thread's own state. -/
theorem fetchStatus_modThread (b : Block) (th va : Nat) (f : Thread → Thread) :
    fetchStatus (b.modThread th f) th va = fetchStatus b th va := by
  have core : (b.modThread th f).core (th / 16) = (b.core (th / 16)).setThread (th % 16) (f (b.thread th)) := by
    rw [Block.modThread, Block.core_setThread, if_pos rfl]
  have ctx : (b.modThread th f).ctxOf (th / 16) = b.ctxOf (th / 16) := by rw [Block.ctxOf, core]; rfl
  rw [fetchStatus, core, ctx]
  rfl

section Jumps
variable {b : Block} {th : Nat} {dest target : BitVec 48}

/-- A jump to a target that may be fetched moves the program counter there. -/
theorem jumpTo_of (ht : target &&& ~~~3#48 = dest) (h : fetchStatus b th dest.toNat = none) :
    jumpTo th target b = b.modThread th fun t => { t with pc := dest } := by
  subst ht
  simp only [jumpTo, fetchStatus_modThread, Block.thread_modThread_same, h]

/-- A jump that links writes the address of the next instruction to g31 first. -/
theorem jumpLink_of {link : Bool} {n : Nat} {f : Thread → Thread} (ht : target &&& ~~~3#48 = dest)
    (hf : f = if link then fun t => t.setG 31 (BitVec.ofNat 64 ((t.pc.toNat + n) % 2 ^ 48)) else id)
    (h : fetchStatus b th dest.toNat = none) :
    jumpLink th link n target b = b.modThread th fun t => { f t with pc := dest } := by
  subst hf
  cases link with
  | false => exact jumpTo_of ht h
  | true =>
    have next : ((b.thread th).pc + BitVec.ofNat 48 n).zeroExtend 64 = BitVec.ofNat 64 (((b.thread th).pc.toNat + n) % 2 ^ 48) := by
      rw [← BitVec.toNat_ofNat (((b.thread th).pc.toNat + n)) 48, BitVec.ofNat_toNat, BitVec.ofNat_add, BitVec.ofNat_toNat,
        BitVec.setWidth_eq]
    rw [jumpLink, if_pos rfl, next, jumpTo_of ht (by rwa [fetchStatus_modThread]), b.modThread_modThread]
    exact modThread_congr rfl

/-- The target of a word offset, as a number. -/
theorem jumpTarget_eq {w : Nat} (pc : BitVec 48) (off : BitVec w) :
    jumpTarget pc (off.signExtend 48) = BitVec.ofInt 48 (pc.toNat + 4 * off.toInt) := by
  rw [BitVec.ofInt_add, BitVec.ofInt_mul, BitVec.mul_comm, BitVec.ofInt_natCast, BitVec.ofNat_toNat, BitVec.setWidth_eq]
  rfl

end Jumps

/-- Settles O11: every row ends in `jumpTo`, after the link where it makes one. -/
theorem jumpsReachTheirTargets : Obligations.JumpsReachTheirTargets := by
  intro b th i w p sense link x t far goes linked
  have aim : ∀ {n : Nat} (off : BitVec n), jumpTarget t.pc (off.signExtend 48) &&& ~~~3#48 = far off.toInt := fun off =>
    congrArg (· &&& ~~~3#48) (jumpTarget_eq t.pc off)
  refine ⟨fun hi => ⟨fun hp => ⟨fun hs hf => ?taken, fun hs => ?passed⟩, fun hf => ?_, fun hf => ?_, fun hf => ?_⟩, fun hi hf => ?_⟩
  case taken => exact issues_predWord hi hp (exec_branch th sense p i) ((if_pos hs).trans (jumpTo_of (aim i) hf))
  case passed => exact issues_predWord hi hp (exec_branch th sense p i) (if_neg hs)
  · exact issues_word (exec_jump th i) hi (jumpLink_of (aim i) rfl hf)
  · exact issues_word (exec_call th i) hi (jumpLink_of (aim i) rfl hf)
  · exact issues_word (exec_jr th x link) hi (jumpLink_of rfl rfl hf)
  · exact issues_of (exec_jl th link w) (by rw [issue_of _ hi, jumpLink_of (aim w) rfl hf])

end Sys2Proof.Machine
end

section
/-! PROOFS. Traps (R109, R124–R126, R134, R147, R150–R155): the words that take one, and what taking one leaves of the block. -/

namespace Sys2Proof.Machine

/-! ### The words that trap -/

section Words
variable {b : Block} {th n : Nat} {i : Instr}

/-- A core of a compute die is no system core. -/
theorem isSystem_compute (h : th < 65536) : isSystem (th / 16) = false := decide_eq_false (by omega)

/-- A `sys` word outside the system class (R147). -/
theorem issues_sysWord_traps {f : Block → Block} (hi : canIssue b th false = true) (hth : th < 65536)
    (he : ∀ s, exec i s = onBlock s fun b => sysWord th b f) : Issues th i b (takeTrap th .privOp .ok 0 b) :=
  issues_of he (by rw [sysWord, issue_of _ hi, isSystem_compute hth, if_neg Bool.false_ne_true])

section Tile
variable {ea : U64} {bad : Core → Option Nat} {f : Block → Block}

theorem tileAccess_misaligned (hth : th < 65536) (ha : ea.toNat % n ≠ 0) :
    tileAccess th ea n bad f b = takeTrap th .misaligned .ok 0 b := by
  simp only [tileAccess, isSystem_compute hth, ha, Bool.false_eq_true, if_false, ne_eq, not_false_eq_true, if_true]

theorem tileAccess_beyond (hth : th < 65536) (ha : ea.toNat % n = 0) (hr : 0x7FFFF - n + 1 < ea.toNat) :
    tileAccess th ea n bad f b = takeTrap th .tsRange .ok 0 b := by
  simp only [tileAccess, isSystem_compute hth, ha, hr, Bool.false_eq_true, if_false, ne_eq, not_true, if_true]

end Tile

/-- An atomic at an address that is no multiple of its width. -/
theorem issues_amo_misaligned {op : AmoOp} {d x y : Reg} {wide : Bool} (hi : canIssue b th false = true)
    (ha : (b.g th x).toNat % (if wide then 8 else 4) ≠ 0) (he : ∀ s, exec i s = onBlock s fun b => amo op th d x y wide b) :
    Issues th i b (takeTrap th .misaligned .ok 0 b) :=
  issues_word he hi (if_pos ha)

end Words

/-- Settles O12: each word makes its check before it does anything else. -/
theorem trapsAreTaken : Obligations.TrapsAreTaken := by
  intro b th d x y size sx wide off hi ea n
  refine ⟨issues_word (exec_illegalOp th) hi rfl, issues_word (exec_thBrk th) hi rfl, fun hth => ?sys, fun ha i hm => ?misaligned,
    fun ha hth hr => ?beyond, fun ha => ?amo⟩
  case sys =>
    have row : ∀ {i f}, (∀ s, exec i s = onBlock s fun b => sysWord th b f) → Issues th i b (takeTrap th .privOp .ok 0 b) :=
      issues_sysWord_traps hi hth
    simp only [List.forall_mem_cons]
    exact ⟨row (exec_sysTstop th d x), row (exec_sysTsave th d x y), row (exec_sysTrest th d x y), row (exec_sysTgo th d x),
      row (exec_sysTfree th d x), row (exec_sysCtxbind th d x y), row (exec_sysPtroot th d x y), row (exec_sysTlbinv th d x y),
      row (exec_sysScrub th d x), List.forall_mem_nil _⟩
  case misaligned =>
    simp only [List.mem_cons, List.not_mem_nil, or_false] at hm
    obtain (rfl | rfl) | ⟨hth, rfl | rfl⟩ := hm
    · exact issues_word (exec_ldv th d x size sx off) hi (if_pos ha)
    · exact issues_word (exec_stv th d x size off) hi (if_pos ha)
    · exact issues_word (exec_ldt th d x size sx off) hi (tileAccess_misaligned hth ha)
    · exact issues_word (exec_stt th d x size off) hi (tileAccess_misaligned hth ha)
  case beyond =>
    simp only [List.forall_mem_cons]
    exact ⟨issues_word (exec_ldt th d x size sx off) hi (tileAccess_beyond hth ha hr),
      issues_word (exec_stt th d x size off) hi (tileAccess_beyond hth ha hr), List.forall_mem_nil _⟩
  case amo =>
    have row : ∀ {i op}, (∀ s, exec i s = onBlock s fun b => amo op th d x y wide b) → Issues th i b (takeTrap th .misaligned .ok 0 b) :=
      issues_amo_misaligned hi ha
    simp only [List.forall_mem_cons]
    exact ⟨row (exec_amoAdd th d x y wide), row (exec_amoAnd th d x y wide), row (exec_amoOr th d x y wide),
      row (exec_amoXor th d x y wide), row (exec_amoMin th d x y wide), row (exec_amoMax th d x y wide),
      row (exec_amoMinu th d x y wide), row (exec_amoMaxu th d x y wide), row (exec_amoSwap th d x y wide),
      row (exec_amoCas th d x y wide), List.forall_mem_nil _⟩

/-! ### What a trap leaves -/

/-- The outcome of R152's table. -/
def trapState (cause : TrapCause) (st : Status) : TState :=
  if cause = .brk then .stopped else if (cause = .memFault ∨ cause = .fetchFault) ∧ st = .notResident then .parked else .halted

/-- The trapping thread: it stops where it is, with why. -/
def Thread.trapped (cause : TrapCause) (st : Status) (va : Nat) (t : Thread) : Thread :=
  { t with cause := cause, status := st, faultVa := BitVec.ofNat 64 va, wait := .none, st := trapState cause st
           reason := if trapState cause st = .parked then .pager else t.reason }

theorem unposted_postHalt (th : Nat) (cause : TrapCause) (st : Status) (va : Nat) (b : Block) :
    (postHalt th cause st va b).unposted = b.unposted := by
  simp only [postHalt]
  split <;> exact unposted_postEvent ..

/-- A trap stops its thread, and posts a record at most. -/
theorem unposted_takeTrap (th : Nat) (cause : TrapCause) (st : Status) (va : Nat) (b : Block) :
    (takeTrap th cause st va b).unposted = (b.modThread th (Thread.trapped cause st va)).unposted := by
  unfold takeTrap
  split
  case h_1 => rfl
  case h_2 => rfl
  case h_3 => rfl
  case h_4 hbrk hmem hfetch =>
    have halted : trapState cause st = .halted := by
      rw [trapState, if_neg hbrk, if_neg]
      rintro ⟨rfl | rfl, rfl⟩
      exacts [hmem rfl rfl, hfetch rfl rfl]
    rw [unposted_postHalt]
    refine congrArg Block.unposted (modThread_congr ?_)
    rw [Thread.trapped, halted, if_neg (by decide)]

theorem takeTrap_cores (th : Nat) (cause : TrapCause) (st : Status) (va : Nat) (b : Block) :
    (takeTrap th cause st va b).cores = (b.modThread th (Thread.trapped cause st va)).cores :=
  congrArg (·.cores) (unposted_takeTrap th cause st va b)

/-- Settles O13: but for a posted record, a trap changes its thread, and of it neither registers nor program counter. -/
theorem trapStopsTheThreadAtItsInstruction : Obligations.TrapStopsTheThreadAtItsInstruction := by
  intro b th cause st va b' t t'
  have mine : t' = t.trapped cause st va := (thread_eq_of_cores (takeTrap_cores ..) th).trans (Block.thread_modThread_same ..)
  obtain ⟨others, cores, -⟩ := onlyThread_modThread b th (Thread.trapped cause st va)
  have posted := unposted_takeTrap th cause st va b
  rw [mine]
  refine ⟨rfl, rfl, rfl, rfl, rfl, rfl, rfl, fun n hn => (thread_eq_of_cores (takeTrap_cores ..) n).trans (others n hn), fun c => ?_,
    congrArg (·.mem.t1) posted, congrArg (·.mem.t2) posted⟩
  rw [← cores c, Block.core, Block.core, takeTrap_cores]

end Sys2Proof.Machine
end

section
/-! PROOFS. Tile store (R123–R128, R420): what an `ldt` reads and what an `stt` changes. -/

namespace Sys2Proof.Machine

section Access
variable {b : Block} {th n : Nat} {ea : U64} {bad : Core → Option Nat} {f : Block → Block}

/-- An access that is aligned, in range, outside the stream chambers and free of uncorrectable words takes its effect. -/
theorem tileAccess_passes (hth : th < 65536) (ha : ea.toNat % n = 0) (hr : ea.toNat ≤ 0x7FFFF - n + 1)
    (hs : (b.core (th / 16)).streamTouch ea.toNat n = none) (hb : bad (b.core (th / 16)) = none) : tileAccess th ea n bad f b = f b := by
  simp only [tileAccess, isSystem_compute hth, ha, Nat.not_lt.2 hr, hs, hb, Bool.false_eq_true, ne_eq, not_true, if_false]

end Access

/-- The value of `n` bytes, extended to a register; what `n` bytes spell needs no cut. -/
theorem extendTo64_leNat (n : Nat) (sx : Bool) (bs : List Byte) (h : bs.length = n) :
    extendTo64 n sx (leNat bs) = if sx then BitVec.ofInt 64 (sextInt (8 * n) (leNat bs)) else BitVec.ofNat 64 (leNat bs) := by
  subst h
  rw [extendTo64, Nat.mod_eq_of_lt (leNat_lt bs)]

/-- Settles O15: an access that passes its checks reads the bytes at its address. -/
theorem tileLoadReadsItsBytes : Obligations.TileLoadReadsItsBytes := by
  intro b th d x size sx off ea n c v hi hth ha hr hs hb
  refine issues_word (exec_ldt th d x size sx off) hi ((tileAccess_passes hth ha hr hs hb).trans ?_)
  exact congrArg (finishG th d · _) (extendTo64_leNat n sx _ (Mem.length_read ..))

/-! ### What an update of tile store leaves alone -/

/-- A block with its cores and basins put aside. -/
def Block.shell (b : Block) : Block := { b with cores := [], basins := [] }

@[simp] theorem shell_modThread (b : Block) (th : Nat) (f : Thread → Thread) : (b.modThread th f).shell = b.shell := rfl
@[simp] theorem shell_modCore (b : Block) (k : Nat) (f : Core → Core) : (b.modCore k f).shell = b.shell := rfl
@[simp] theorem shell_modBasin (b : Block) (k : Nat) (f : Basin → Basin) : (b.modBasin k f).shell = b.shell := rfl

theorem eq_of_shell {b b' : Block} (h : b'.shell = b.shell) : { b' with cores := b.cores, basins := b.basins } = b :=
  congrArg (fun s : Block => { s with cores := b.cores, basins := b.basins }) h

/-- A core with what an `stt` touches put aside. -/
def Core.shell (c : Core) : Core := { c with threads := [], ts := [], bad := [], tw := [], q := .init }

@[simp] theorem Core.shell_setThread (c : Core) (n : Nat) (t : Thread) : (c.setThread n t).shell = c.shell := rfl
@[simp] theorem Core.shell_markClash (c : Core) (own a n : Nat) : (c.markClash own a n).shell = c.shell := rfl
@[simp] theorem Core.shell_touchGuard (c : Core) (w : Bool) (a n : Nat) : (c.touchGuard w a n).shell = c.shell := rfl
@[simp] theorem Core.shell_tsWrite (c : Core) (a : Nat) (bs : List Byte) : (c.tsWrite a bs).shell = c.shell := rfl

theorem Core.eq_of_shell {c c' : Core} (h : c'.shell = c.shell) :
    { c' with threads := c.threads, ts := c.ts, bad := c.bad, tw := c.tw, q := c.q } = c :=
  congrArg (fun x : Core => { x with threads := c.threads, ts := c.ts, bad := c.bad, tw := c.tw, q := c.q }) h

/-! ### A store into tile store -/

/-- A change of a core that leaves its threads leaves every thread. -/
theorem thread_modCore (f : Core → Core) (h : ∀ c, (f c).threads = c.threads) (b : Block) (k n : Nat) :
    (b.modCore k f).thread n = b.thread n := by
  rw [Block.thread, Block.thread, Block.core_modCore]
  split
  · subst_vars; exact congrArg (SMap.get Thread.init (n % 16)) (h _)
  · rfl

/-- Bytes that land in a core's tile store, as the commands of its own engines note them (R420). -/
def Core.landed (core a : Nat) (bs : List Byte) (c : Core) : Core :=
  let landed := fun (l : List Cmd) => l.map (Cmd.noteLanded core a bs)
  { c with q := { c.q with mx := landed c.q.mx, cx := landed c.q.cx, vx := landed c.q.vx } }

@[simp] theorem Core.shell_landed (core a : Nat) (bs : List Byte) (c : Core) : (c.landed core a bs).shell = c.shell := rfl

/-- As the commands of the basin's engines note them. -/
def Basin.landed (core a : Nat) (bs : List Byte) (x : Basin) : Basin :=
  let landed := fun (l : List Cmd) => l.map (Cmd.noteLanded core a bs)
  { x with mv := landed x.mv, up := landed x.up, rd := landed x.rd }

section Landed
variable (core a : Nat) (bs : List Byte) (b : Block) (n : Nat)

theorem noteLanded_eq : Block.noteLanded core a bs b =
    (b.modCore core (Core.landed core a bs)).modBasin (basinOf core) (Basin.landed core a bs) := rfl

theorem core_noteLanded : (Block.noteLanded core a bs b).core n = if n = core then (b.core core).landed core a bs else b.core n := by
  rw [noteLanded_eq]
  exact Block.core_modCore ..

theorem basin_noteLanded : (Block.noteLanded core a bs b).basin n =
    if n = basinOf core then (b.basin (basinOf core)).landed core a bs else b.basin n := by
  rw [noteLanded_eq]
  exact Block.basin_modBasin ..

theorem thread_noteLanded : (Block.noteLanded core a bs b).thread n = b.thread n := by
  rw [noteLanded_eq]
  exact thread_modCore (Core.landed core a bs) (fun _ => rfl) ..

end Landed

/-- A core that stores bytes in its tile store: its transfers and its guarded commands take note. -/
def Core.stored (ea n : Nat) (bs : List Byte) (c : Core) : Core := ((c.markClash 4 ea n).touchGuard true ea n).tsWrite ea bs

/-- The block after an `stt`. -/
def tileStored (th ea n : Nat) (bs : List Byte) (b : Block) : Block :=
  (Block.noteLanded (th / 16) ea bs (b.modCore (th / 16) (Core.stored ea n bs))).modThread th fun t => t.next 4

section Store
variable {b : Block} {th ea n : Nat} {bs : List Byte}

/-- An `stt` that passes its checks. -/
theorem issues_stt {d x : Reg} {size : BitVec 2} {off : BitVec 11} (hi : canIssue b th false = true) (hth : th < 65536)
    (he : (effAddr b th x size off).toNat = ea) (hn : sizeBytes size = n) (ha : ea % n = 0) (hr : ea ≤ 0x7FFFF - n + 1)
    (hs : (b.core (th / 16)).streamTouch ea n = none) (hb : (b.core (th / 16)).tsWriteBad ea n = none) :
    Issues th (.stt th d x size off) b (tileStored th ea n (leBytes n (b.g th d).toNat) b) := by
  subst he hn
  exact issues_word (exec_stt th d x size off) hi (tileAccess_passes hth ha hr hs hb)

theorem tileStored_thread : (tileStored th ea n bs b).thread th = (b.thread th).next 4 := by
  rw [tileStored, Block.thread_modThread_same, thread_noteLanded, thread_modCore (Core.stored ea n bs) fun _ => rfl]

theorem tileStored_thread_other {k : Nat} (h : k ≠ th) : (tileStored th ea n bs b).thread k = b.thread k := by
  rw [tileStored, Block.modThread, Block.thread_setThread_other _ _ _ _ h, thread_noteLanded, thread_modCore (Core.stored ea n bs) fun _ => rfl]

theorem tileStored_core : (tileStored th ea n bs b).core (th / 16) =
    (((b.core (th / 16)).stored ea n bs).landed (th / 16) ea bs).setThread (th % 16) ((b.thread th).next 4) := by
  rw [tileStored, Block.modThread, Block.core_setThread, if_pos rfl, core_noteLanded, if_pos rfl, Block.core_modCore, if_pos rfl,
    thread_noteLanded, thread_modCore (Core.stored ea n bs) fun _ => rfl]

theorem tileStored_core_other {k : Nat} (h : k ≠ th / 16) : (tileStored th ea n bs b).core k = b.core k := by
  rw [tileStored, Block.modThread, Block.core_setThread, if_neg h, core_noteLanded, if_neg h, Block.core_modCore, if_neg h]

theorem tileStored_basin (k : Nat) : (tileStored th ea n bs b).basin k =
    if k = basinOf (th / 16) then (b.basin k).landed (th / 16) ea bs else b.basin k := by
  refine (basin_noteLanded ..).trans ?_
  split
  · subst_vars; rfl
  · rfl

/-- Nothing but a core and a basin changes. -/
theorem tileStored_shell : (tileStored th ea n bs b).shell = b.shell := by simp [tileStored, noteLanded_eq]

end Store


/-- Settles O16: an `stt` leaves `tileStored`, whose tile store holds the bytes written over what it held. -/
theorem tileStoreWritesItsBytesOnly : Obligations.TileStoreWritesItsBytesOnly := by
  intro b th d x size off ea n c hi hth ha hr hs hb
  have len : (leBytes n (b.g th d).toNat).length = n := length_leBytes ..
  have done : Issues th (.stt th d x size off) b (tileStored th ea n (leBytes n (b.g th d).toNat) b) := issues_stt hi hth rfl rfl ha hr hs hb
  generalize leBytes n (b.g th d).toNat = bs at len done
  obtain ⟨b', hb'⟩ : ∃ b', b' = tileStored th ea n bs b := ⟨_, rfl⟩
  have mine : b'.thread th = (b.thread th).next 4 := hb' ▸ tileStored_thread
  obtain ⟨rest, tile⟩ : (b'.core (th / 16)).shell = c.shell ∧ (b'.core (th / 16)).ts = c.ts.write ea bs := by
    rw [hb', tileStored_core]
    exact ⟨by simp [Core.stored, c], rfl⟩
  have shell : b'.shell = b.shell := hb' ▸ tileStored_shell
  rw [← hb'] at done
  refine ⟨b', done, ?_⟩
  rw [tile, mine]
  refine ⟨len ▸ Mem.read_write_same bs c.ts ea, fun a h => Mem.byte_write_outside bs c.ts ea a (by rwa [len]),
    fun k hk => hb' ▸ tileStored_core_other hk, congrArg (·.mem) shell, rfl, rfl, rfl, fun k hk => hb' ▸ tileStored_thread_other hk,
    Core.eq_of_shell rest, fun k => ?basin, eq_of_shell shell⟩
  rw [hb', tileStored_basin]
  split <;> rfl

end Sys2Proof.Machine
end

section
/-! PROOFS. Stores of `stv` and the bytes of T1 (R126, R127, R131, R200, R549): what may change when stores become visible, and
when the bytes of one of them stand in memory. -/

namespace Sys2Proof.Machine

/-! ### What work on T1 leaves alone -/

/-- All that work on T1 can do to the cores, T2, the stores under way and the codewords with errors: stores land, and codewords
that are written shed their errors. -/
structure Lands (b b' : Block) : Prop where
  cores : b'.cores = b.cores
  t2 : b'.mem.t2 = b.mem.t2
  stores : b'.stores ⊆ b.stores
  bad : b'.mem.t1Bad ⊆ b.mem.t1Bad

theorem Lands.of_eq {b b' : Block} (cores : b'.cores = b.cores) (t2 : b'.mem.t2 = b.mem.t2) (stores : b'.stores = b.stores)
    (bad : b'.mem.t1Bad = b.mem.t1Bad) : Lands b b' :=
  ⟨cores, t2, stores ▸ List.Subset.refl _, bad ▸ List.Subset.refl _⟩

theorem Lands.refl (b : Block) : Lands b b := .of_eq rfl rfl rfl rfl

theorem Lands.trans {b₁ b₂ b₃ : Block} (h : Lands b₁ b₂) (h' : Lands b₂ b₃) : Lands b₁ b₃ :=
  ⟨h'.cores.trans h.cores, h'.t2.trans h.t2, List.Subset.trans h'.stores h.stores, List.Subset.trans h'.bad h.bad⟩

theorem Lands.thread {b b' : Block} (h : Lands b b') (n : Nat) : b'.thread n = b.thread n := thread_eq_of_cores h.cores n

theorem lands_foldl {α : Type} {f : Block → α → Block} (h : ∀ b x, Lands b (f b x)) (l : List α) (b : Block) :
    Lands b (l.foldl f b) :=
  List.foldlRecOn l f (Lands.refl b) fun s hs x _ => hs.trans (h s x)

/-- A block with posted records and the error counts put aside. -/
def Block.uncounted (b : Block) : Block := { b.unposted with gl := Block.reset.gl }

theorem lands_freeBelow (n : Nat) (b : Block) : Lands b (b.freeBelow n).2 := .of_eq rfl rfl rfl rfl
theorem lands_modBasin (k : Nat) (f : Basin → Basin) (b : Block) : Lands b (b.modBasin k f) := .of_eq rfl rfl rfl rfl

theorem lands_of_uncounted {b b' : Block} (h : b'.uncounted = b.uncounted) : Lands b b' :=
  .of_eq (congrArg (·.cores) h) (congrArg (·.mem.t2) h) (congrArg (·.stores) h) (congrArg (·.mem.t1Bad) h)

/-- Counting corrections changes counts and posts records. -/
theorem uncounted_t1Met (pa n : Nat) (b : Block) : (t1Met pa n b).uncounted = b.uncounted := by
  refine foldl_keeps Block.uncounted _ (fun s e => ?_) _ _
  split
  · exact congrArg (fun s : Block => { s with gl := Block.reset.gl }) (unposted_postFirmware ..)
  · rfl

theorem lands_t1Met (pa n : Nat) (b : Block) : Lands b (t1Met pa n b) := lands_of_uncounted (uncounted_t1Met ..)

@[simp] theorem t1Met_t1 (pa n : Nat) (b : Block) : (t1Met pa n b).mem.t1 = b.mem.t1 :=
  congrArg (·.mem.t1) (uncounted_t1Met pa n b)

theorem lands_t1Correct (a : Nat) (b : Block) : Lands b (t1Correct a b) := by
  obtain ⟨cores, t2, stores, bad⟩ := lands_t1Met a 32 b
  exact ⟨cores, t2, stores, bad⟩

theorem lands_t1Write (pa : Nat) (bs : List Byte) (b : Block) : Lands b (t1Write pa bs b) := by
  unfold t1Write
  split
  · exact .refl b
  · obtain ⟨cores, t2, stores, bad⟩ := lands_foldl (fun s e => lands_t1Correct e.1 s) (partIn b.mem.t1Bad pa bs.length) b
    exact ⟨cores, t2, stores, fun e he => bad (List.mem_filter.1 he).1⟩

theorem lands_landed (slot : Nat) (prev : Bool) (b : Block) : Lands b (landed slot prev b) := by
  unfold landed; split <;> exact .of_eq rfl rfl rfl rfl

theorem lands_inflight (slot : Nat) (prev : Bool) (b : Block) : Lands b (inflight slot prev b) := by
  unfold inflight; split <;> exact .of_eq rfl rfl rfl rfl

theorem lands_landStore (x : Store) (b : Block) : Lands b (landStore x b) := by
  have erased : Lands b { b with stores := b.stores.erase x } := ⟨rfl, rfl, List.erase_subset, fun _ h => h⟩
  exact (erased.trans (lands_t1Write ..)).trans (lands_landed ..)

theorem lands_landWhere (p : Store → Bool) (b : Block) : Lands b (landWhere p b) := lands_foldl (fun s x => lands_landStore x s) _ b

theorem lands_landSeen (p : Store → Bool) (b : Block) : Lands b (landSeen p b) := by
  refine lands_foldl (fun s x => ?_) _ b
  simp only []
  split
  · exact lands_freeBelow 2 s
  · exact (lands_freeBelow 2 s).trans (lands_landStore ..)

theorem lands_landLook (pa n : Nat) (b : Block) : Lands b (landLook pa n b) := lands_landSeen ..

theorem lands_noteShard (u k c va : Nat) (old new : List Byte) (b : Block) : Lands b (noteShard u k c va old new b) := by
  simp only [noteShard]; split <;> exact .of_eq rfl rfl rfl rfl

theorem lands_setDirty (k : Option Nat) (c va : Nat) (x : Xlate) (b : Block) : Lands b (setDirty k c va x b) := by
  have wrote : ∀ bs, Lands b (if x.leafAddr = noTable then b else t1Write x.leafAddr bs b) := fun bs => by
    split
    · exact .refl b
    · exact lands_t1Write ..
  unfold setDirty
  split
  · exact .refl b
  · obtain ⟨cores, t2, stores, bad⟩ := wrote (leBytes 8 (BitVec.ofNat 64 (leNat (t1Data b x.leafAddr 8)) ||| 0x200).toNat)
    cases k with
    | none => exact ⟨cores, t2, stores, bad⟩
    | some k => exact ⟨cores, t2, stores, bad⟩

/-! ### Translation works on T1 too -/

theorem lands_ptrFill (die ctx level va : Nat) (l : U64) (b : Block) : Lands b (ptrFill die ctx level va l b) := by
  simp only [ptrFill]
  split <;> exact .of_eq rfl rfl rfl rfl

theorem lands_ptrFills (die ctx va : Nat) (trail : List (Nat × Nat × U64)) (b : Block) : Lands b (ptrFills die ctx va trail b) := by
  refine lands_foldl (fun s e => ?_) _ b
  split
  · exact lands_ptrFill ..
  · exact .refl s

theorem lands_tlbFill (k ctx va : Nat) (big : Bool) (l : U64) (b : Block) : Lands b (tlbFill k ctx va big l b) := .of_eq rfl rfl rfl rfl

theorem lands_walkMet (s : Block) (die ctx va : Nat) (cached : Bool) (trail : List (Nat × Nat × U64)) :
    Lands s (walkMet s die ctx va cached trail) := by
  refine lands_foldl (fun s e => ?_) _ s
  split
  · exact .refl s
  · exact lands_t1Met ..

theorem lands_walkerWalk (die ctx va : Nat) (b : Block) : Lands b (walkerWalk die ctx va b).2 := by
  simp only [walkerWalk]
  split
  · split <;> exact lands_walkMet ..
  · split <;> exact (lands_freeBelow 2 b).trans (lands_walkMet ..)

theorem lands_lookup (k : Option Nat) (ctx va : Nat) (b : Block) : Lands b (lookup k ctx va b).2 := by
  have seen := lands_landSeen (fun x => isSystem (x.th / 16)) b
  cases k with
  | none => exact seen.trans (lands_foldl (fun s (e : Nat × Nat × U64) => lands_t1Met e.2.1 8 s) _ _)
  | some k =>
    simp only [lookup]
    split
    · split
      · exact seen
      · split
        · exact seen.trans (lands_freeBelow 2 _)
        · exact (seen.trans (lands_freeBelow 2 _)).trans (lands_walkerWalk ..)
    · exact (seen.trans (lands_modBasin ..)).trans (lands_walkerWalk ..)

theorem lands_fillFrom (k : Option Nat) (ctx va : Nat) (l : U64) (big : Bool) (f : Found) (b : Block) :
    Lands b (fillFrom k ctx va l big f b) := by
  unfold fillFrom
  split
  · exact (lands_ptrFills ..).trans (lands_tlbFill ..)
  · exact .refl b

theorem lands_translate (k : Option Nat) (ctx va acc : Nat) (b : Block) : Lands b (translate k ctx va acc b).2 := by
  have found := lands_lookup k ctx va b
  simp only [translate]
  split
  · exact found
  · split
    · exact found
    · exact found.trans (lands_fillFrom ..)

theorem lands_of_translate {k : Option Nat} {ctx va acc : Nat} {b b' : Block} {r : Except XErr Xlate}
    (h : translate k ctx va acc b = (r, b')) : Lands b b' := by
  have page := lands_translate k ctx va acc b
  rwa [h] at page

theorem lands_translateAll (k : Option Nat) (ctx acc stop : Nat) (vas : List Nat) (skip : Nat) (b : Block) :
    Lands b (translateAll k ctx acc stop vas skip b).2 := by
  induction vas generalizing skip b with
  | nil => exact .refl b
  | cons va vas ih =>
    rw [translateAll]
    split
    · exact ih ..
    · split <;> next h => exact (lands_of_translate h).trans (ih ..)

/-- The context of a core is its core's. -/
theorem ctxOf_eq_of_cores {b b' : Block} (h : b'.cores = b.cores) (c : Nat) : b'.ctxOf c = b.ctxOf c := by
  simp only [Block.ctxOf, Block.core, h]

/-! ### Which stores are under way -/

@[simp] theorem t1Met_stores (pa n : Nat) (b : Block) : (t1Met pa n b).stores = b.stores :=
  congrArg (·.stores) (uncounted_t1Met pa n b)

@[simp] theorem t1Correct_stores (a : Nat) (b : Block) : (t1Correct a b).stores = b.stores := t1Met_stores ..

@[simp] theorem t1Write_stores (pa : Nat) (bs : List Byte) (b : Block) : (t1Write pa bs b).stores = b.stores := by
  unfold t1Write
  split
  · rfl
  · exact foldl_keeps Block.stores _ (fun s (e : Nat × SymErrs) => t1Correct_stores e.1 s) _ _

@[simp] theorem landed_stores (slot : Nat) (prev : Bool) (b : Block) : (landed slot prev b).stores = b.stores := by
  unfold landed; split <;> rfl

@[simp] theorem inflight_stores (slot : Nat) (prev : Bool) (b : Block) : (inflight slot prev b).stores = b.stores := by
  unfold inflight; split <;> rfl

@[simp] theorem noteShard_stores (u k c va : Nat) (old new : List Byte) (b : Block) :
    (noteShard u k c va old new b).stores = b.stores := by
  simp only [noteShard]; split <;> rfl

@[simp] theorem landStore_stores (x : Store) (b : Block) : (landStore x b).stores = b.stores.erase x := by simp [landStore]

/-- The stores that `p` names are under way no more; every store under way was so before. -/
theorem mem_stores_landWhere {p : Store → Bool} {b : Block} {x : Store} (h : x ∈ (landWhere p b).stores) :
    x ∈ b.stores ∧ p x = false := by
  have left : (landWhere p b).stores = b.stores.diff (b.stores.filter p) := by
    rw [List.diff_eq_foldl, landWhere, ← List.foldl_hom Block.stores]
    exact fun s x => (landStore_stores x s).symm
  refine ⟨(lands_landWhere p b).stores h, Bool.eq_false_iff.2 fun hp => ?_⟩
  have count := List.count_pos_iff.2 h
  rw [left, List.count_diff, List.count_filter hp, Nat.sub_self] at count
  exact absurd count (Nat.lt_irrefl 0)

/-! ### When a store's bytes stand in memory -/

/-- A write leaves every byte outside its range that no codeword it corrects holds. -/
theorem t1Write_byte {b : Block} {pa a : Nat} {bs : List Byte} (ha : a < pa ∨ pa + bs.length ≤ a)
    (hc : ∀ e ∈ b.mem.t1Bad, a < e.1 ∨ e.1 + 32 ≤ a) : (t1Write pa bs b).mem.t1.byte a = b.mem.t1.byte a := by
  unfold t1Write
  split
  · rfl
  · refine (Mem.byte_write_outside _ _ _ _ ha).trans ?_
    refine List.foldlRecOn (motive := fun s : Block => s.mem.t1.byte a = b.mem.t1.byte a) _ _ rfl fun s hs e he => ?_
    have bad : e ∈ b.mem.t1Bad := (List.mem_filter.1 (List.mem_filter.1 he).1).1
    refine (Mem.byte_write_outside _ _ _ _ ?_).trans ((congrArg (Mem.byte · a) (t1Met_t1 ..)).trans hs)
    rw [length_t1Data]
    exact hc e bad

/-- No codeword of a store's bytes that it would change in part is uncorrectable. -/
def Store.writable (y : Store) (b : Block) : Prop := t1WriteBad b y.pa y.bytes.length = none

/-- The bytes of a store stand in memory, in codewords without errors. -/
def Store.made (y : Store) (b : Block) : Prop :=
  b.mem.t1.read y.pa y.bytes.length = y.bytes ∧ wrongIn b.mem.t1Bad y.pa y.bytes.length = []

theorem wrongIn_eq_nil {m : SMap SymErrs} {pa n : Nat} : wrongIn m pa n = [] ↔ ∀ e ∈ m, pa + n ≤ e.1 ∨ e.1 + 32 ≤ pa := by
  simp only [wrongIn, List.filter_eq_nil_iff, Bool.and_eq_true, decide_eq_true_eq, not_and_or, Nat.not_lt]

theorem wrongIn_nil_of_subset {m m' : SMap SymErrs} {pa n : Nat} (hs : m' ⊆ m) (h : wrongIn m pa n = []) : wrongIn m' pa n = [] :=
  wrongIn_eq_nil.2 fun e he => wrongIn_eq_nil.1 h e (hs he)

section Made
variable {b b' : Block} {x y : Store}

theorem Store.writable_of_subset (hs : b'.mem.t1Bad ⊆ b.mem.t1Bad) (h : y.writable b) : y.writable b' := by
  simp only [writable, t1WriteBad, firstBad, partIn, wrongIn, Option.map_eq_none_iff, List.find?_eq_none, List.mem_filter] at h ⊢
  exact fun e ⟨⟨he, hw⟩, hp⟩ => h e ⟨⟨hs he, hw⟩, hp⟩

/-- A store that can be written stands in memory once it lands. -/
theorem Store.made_landStore (h : y.writable b) : y.made (landStore y b) := by
  have bad : t1WriteBad { b with stores := b.stores.erase y } y.pa y.bytes.length = none := h
  simp only [made, landStore, landed_mem]
  refine ⟨t1Write_reads rfl bad, ?_⟩
  rw [t1Write, if_neg (by simp [bad]), wrongIn_eq_nil]
  intro e he
  have := (List.mem_filter.1 he).2
  simp only [Bool.not_eq_true', Bool.and_eq_false_iff, decide_eq_false_iff_not, Nat.not_lt] at this
  omega

/-- A store that lands elsewhere leaves it there. -/
theorem Store.made_landStore_far (hf : x.meets y.pa y.bytes.length = false) (h : y.made b) : y.made (landStore x b) := by
  obtain ⟨reads, sound⟩ := h
  have bad : (landStore x b).mem.t1Bad ⊆ b.mem.t1Bad := (lands_landStore x b).bad
  refine ⟨Eq.trans ?_ reads, wrongIn_nil_of_subset bad sound⟩
  rw [Mem.read_eq, Mem.read_eq, landStore, landed_mem]
  simp only [Store.meets, Bool.and_eq_false_iff, decide_eq_false_iff_not, Nat.not_lt] at hf
  refine List.map_congr_left fun i hi => t1Write_byte (b := { b with stores := b.stores.erase x }) ?_ fun e he => ?_
  · have := List.mem_range.1 hi
    omega
  · have := wrongIn_eq_nil.1 sound e he
    have := List.mem_range.1 hi
    omega

/-- Stores land one after another, each this one or elsewhere: once this one has landed, its bytes stay. -/
theorem Store.made_landAll {l : List Store} (hl : ∀ x ∈ l, x = y ∨ x.meets y.pa y.bytes.length = false) (hw : y.writable b)
    (h : y.made b ∨ y ∈ l) : y.made (l.foldl (fun b x => landStore x b) b) := by
  induction l generalizing b with
  | nil => exact h.resolve_right List.not_mem_nil
  | cons x l ih =>
    refine ih (fun z hz => hl z (List.mem_cons_of_mem _ hz)) (Store.writable_of_subset (lands_landStore x b).bad hw) ?_
    obtain rfl | far := hl x List.mem_cons_self
    · exact .inl (made_landStore hw)
    · obtain h | h := h
      · exact .inl (made_landStore_far far h)
      · obtain rfl | h := List.mem_cons.1 h
        · exact .inl (made_landStore hw)
        · exact .inr h

/-- Once a thread's stores are made, so is the one that is all it has under way to its bytes, if it was not made before. -/
theorem Store.made_landOwn {th : Nat} (hown : ∀ x ∈ b.stores, x.th = th → x.meets y.pa y.bytes.length = true → x = y)
    (hth : y.th = th) (hw : y.writable b) (h : y.made b ∨ y ∈ b.stores) : y.made (landOwn th b) := by
  refine made_landAll (fun x hx => ?_) hw (h.imp_right fun hy => List.mem_filter.2 ⟨hy, by simp [hth]⟩)
  obtain ⟨hx, ht⟩ := List.mem_filter.1 hx
  by_cases hm : x.meets y.pa y.bytes.length = true
  · exact .inl (hown x hx (by simpa using ht) hm)
  · exact .inr (Bool.eq_false_iff.2 hm)

/-- One store of a look: it lands or it does not. -/
theorem landSeen_step (x : Store) (b : Block) (P : Block → Prop) (hs : P (b.freeBelow 2).2) (hl : P (landStore x (b.freeBelow 2).2)) :
    P (let (n, s) := b.freeBelow 2; if n = 0 || storeBlocked s x then s else landStore x s) := by
  simp only []
  split
  · exact hs
  · exact hl

/-- A look at the bytes of the last store under way: it is made, or it is still under way. -/
theorem Store.made_landLook {pre : List Store} (hb : b.stores = pre ++ [y])
    (hpre : ∀ x ∈ pre, x.meets y.pa y.bytes.length = true → x ≠ y) (hm : y.meets y.pa y.bytes.length = true) (hw : y.writable b) :
    y.made (landLook y.pa y.bytes.length b) ∨ y ∈ (landLook y.pa y.bytes.length b).stores := by
  have split : b.stores.filter (fun x => x.meets y.pa y.bytes.length) = pre.filter (fun x => x.meets y.pa y.bytes.length) ++ [y] := by
    rw [hb, List.filter_append, List.filter_singleton, hm]; rfl
  rw [landLook, landSeen, split, List.foldl_append]
  generalize hs : List.foldl _ b _ = s
  have waits : y.writable s ∧ y ∈ s.stores := by
    rw [← hs]
    refine List.foldlRecOn (motive := fun s => y.writable s ∧ y ∈ s.stores) _ _ ⟨hw, by simp [hb]⟩ fun s ⟨hw, hy⟩ x hx => ?_
    obtain ⟨hx, hxm⟩ := List.mem_filter.1 hx
    refine landSeen_step x s (fun s => y.writable s ∧ y ∈ s.stores) ⟨hw, hy⟩ ⟨writable_of_subset (lands_landStore ..).bad hw, ?_⟩
    rw [landStore_stores]
    exact (List.mem_erase_of_ne (Ne.symm (hpre x hx hxm))).2 hy
  exact landSeen_step y s (fun s => y.made s ∨ y ∈ s.stores) (.inr waits.2) (.inl (made_landStore waits.1))

end Made

end Sys2Proof.Machine
end

section
/-! PROOFS. Loads and stores of device memory (R104, R123, R126, R127, R131, R466, R523, R545). -/

namespace Sys2Proof.Machine

/-! ### `ldv` -/

@[simp] theorem inflight_mem (slot : Nat) (prev : Bool) (b : Block) : (inflight slot prev b).mem = b.mem := by
  unfold inflight; split <;> rfl

section Load
variable {b b₁ : Block} {th d va pa n slot : Nat} {sx prev : Bool}

/-- A read whose translation succeeds goes on with its page, whatever moves. -/
theorem threadXlate_read {p : Xlate} {f : Xlate → Block → Block}
    (hx : translate (tlbOf (th / 16)) ((b.ctxOf (th / 16)).getD 0xFFFF) va accRead b = (.ok p, b₁)) :
    threadXlate th va n accRead f b = f p b₁ := by
  simp [threadXlate, hx]

/-- A thread that waits for something, its access in flight. -/
theorem waitFor_effect (w : WaitOp) (b : Block) : ((waitFor th w b).thread th) = { b.thread th with st := .waiting, wait := w } :=
  Block.thread_modThread_same ..

/-- The block in which a load's value stands in gD, before those who waited for the access. -/
def loaded (th d pa n slot : Nat) (sx prev : Bool) (s : Block) : Block :=
  landed slot prev ((t1Met pa n s).modThread th (finishAccess d (extendTo64 n sx (leNat (t1Data s pa n)))))

/-- The data of a load whose codewords can be read. -/
theorem dataReturn_load (hw : (b.thread th).wait = .load d va pa n sx prev slot) (hb : t1BadIn (landLook pa n b) pa n = none) :
    dataReturn th b = accessOver th (loaded th d pa n slot sx prev (landLook pa n b)) := by
  simp only [dataReturn, hw, hb]
  rfl

theorem lands_landMine (th pa n : Nat) (b : Block) : Lands b (landMine th pa n b) := lands_landWhere ..

theorem Thread.release_pc (t : Thread) : t.release.pc = t.pc := by
  unfold Thread.release; split <;> rfl

theorem finishAccess_pc (d : Nat) (v : U64) (t : Thread) : (finishAccess d v t).pc = t.pc + 4 := by
  rw [finishAccess, Thread.setG_eq]
  split
  · rfl
  · exact Thread.release_pc ..

theorem loaded_thread (s : Block) : (loaded th d pa n slot sx prev s).thread th
    = finishAccess d (extendTo64 n sx (leNat (t1Data s pa n))) (s.thread th) := by
  rw [loaded, thread_eq_of_cores (landed_cores ..), Block.thread_modThread_same, (lands_t1Met pa n s).thread]

theorem loaded_thread_other (s : Block) {k : Nat} (hk : k ≠ th) : (loaded th d pa n slot sx prev s).thread k = s.thread k := by
  rw [loaded, thread_eq_of_cores (landed_cores ..), Block.modThread, Block.thread_setThread_other _ _ _ _ hk,
    (lands_t1Met pa n s).thread]

end Load

/-- A thread that waits for no access of others is left alone as one ends. -/
theorem accessOver_thread_other {b : Block} {th k : Nat} (hst : (b.thread th).st = .ready) (hw : (b.thread th).wait = .none)
    (hk : ∀ l r, (b.thread k).wait ≠ .inval l r) : (accessOver th b).thread k = b.thread k := by
  have ready : ((b.mapThreads (invalStep th)).thread th).st = .ready := by
    rw [Block.thread_mapThreads (invalStep_of_none rfl), invalStep_of_none hw, hst]
  rw [accessOver_eq, answerTstop_ready ready, Block.thread_mapThreads (invalStep_of_none rfl), invalStep]
  split
  case h_1 h => exact absurd h (hk _ _)
  case h_2 => rfl

/-- Settles O18: the word lands its own earlier stores and waits; the returning data passes through error correction alone. -/
theorem deviceLoadReturnsItsBytes : Obligations.DeviceLoadReturnsItsBytes := by
  refine ⟨fun b b₁ th d x size sx off p => ?_, fun b th d va pa n slot sx prev hth hst hw hs hp => ?_⟩
  case refine_1 =>
    intro ea n hi ha hx
    refine ⟨_, issues_word (exec_ldv th d x size sx off) hi ((if_neg (not_not_intro ha)).trans (threadXlate_read hx)), ?_⟩
    rw [thread_eq_of_cores (inflight_cores ..), waitFor_effect, inflight_mem, (lands_landMine ..).thread]
    exact ⟨rfl, rfl, rfl, rfl, rfl⟩
  case refine_2 =>
    intro s hb v
    have look : Lands b s := lands_landLook pa n b
    refine ⟨fun hc => by simp [v, t1Data, hc, readThrough], _, does_ldvDataReturn hth hst (dataReturn_load hw hb), ?_⟩
    have mine := loaded_thread (th := th) (d := d) (pa := pa) (n := n) (slot := slot) (sx := sx) (prev := prev) s
    obtain ⟨ready, idle, regs⟩ := finishAccess_ready (d := d) (v := extendTo64 n sx v) hs hp
    rw [look.thread] at mine
    rw [← mine] at ready idle regs
    obtain ⟨kept, mem⟩ := accessOver_ready ready idle
    rw [kept, mem]
    refine ⟨ready, mine ▸ finishAccess_pc .., regs, fun k hk hinval => ?others, ?t1, ?t2⟩
    case others =>
      have same := (loaded_thread_other (d := d) (pa := pa) (n := n) (slot := slot) (sx := sx) (prev := prev) s hk).trans (look.thread k)
      rw [← same]
      exact accessOver_thread_other ready idle fun l r => same ▸ hinval l r
    case t1 => rw [loaded, landed_mem]; exact t1Met_t1 ..
    case t2 => rw [loaded, landed_mem]; exact (lands_t1Met pa n s).t2.trans look.t2

/-! ### `stv` -/

section Store
variable {b b₁ b₂ s : Block} {th ctx ea n k : Nat} {x y : Store} {p : Xlate}

/-- The block with a new store under way: the thread's earlier ones to its bytes have landed, and others have looked. -/
def storeWaiting (k : Nat) (y : Store) (b : Block) : Block :=
  let s := landLook y.pa y.bytes.length (landMine y.th y.pa y.bytes.length b)
  let s := noteShard 1 k y.ctx y.va (Mem.read s.mem.t1 y.pa y.bytes.length) y.bytes s
  inflight y.slot y.prev { s with stores := s.stores ++ [y] }

/-- The block after an `stv` that makes the store `y`. -/
def storeIssued (k : Nat) (y : Store) (b : Block) : Block :=
  (landLook y.pa y.bytes.length (storeWaiting k y b)).modThread y.th fun t => t.next 4

/-- The store that an `stv` makes. -/
def storeOf (b₁ : Block) (th ctx ea n : Nat) (d : Reg) (p : Xlate) : Store :=
  { th := th, ctx := ctx, va := ea, pa := p.pa, bytes := leBytes n (b₁.g th d).toNat, slot := leafSlot p.leaf, prev := prevEpochOf b₁ p.leaf }

/-- An `stv` whose access translates, to a page that does not move and codewords it can write. -/
theorem issues_stv {d x : Reg} {size : BitVec 2} {off : BitVec 11} (hi : canIssue b th false = true)
    (he : (effAddr b th x size off).toNat = ea) (hn : sizeBytes size = n) (hc : (b.ctxOf (th / 16)).getD 0xFFFF = ctx)
    (ha : ea % n = 0) (hm : writeHeld b ctx ea n accWrite = false) (hx : translate (tlbOf (th / 16)) ctx ea accWrite b = (.ok p, b₁))
    (hb : t1WriteBad (setDirty (tlbOf (th / 16)) ctx ea p b₁) p.pa n = none) :
    Issues th (.stv th d x size off) b
      (storeIssued (basinOf (th / 16)) (storeOf b₁ th ctx ea n d p) (setDirty (tlbOf (th / 16)) ctx ea p b₁)) := by
  subst he hn hc
  have ctx : b₁.ctxOf (th / 16) = b.ctxOf (th / 16) := ctxOf_eq_of_cores (lands_of_translate hx).cores _
  refine issues_word (exec_stv th d x size off) hi ((if_neg (not_not_intro ha)).trans ((threadXlate_of hm hx).trans ?_))
  simp only [ctx, hb, storeIssued, storeWaiting, storeOf, length_leBytes]

/-! What an `stv` leaves alone, but for its bytes. -/

/-- The stores under way before the new one. -/
theorem storeWaiting_stores (k : Nat) (y : Store) (b : Block) : ∃ pre, (storeWaiting k y b).stores = pre ++ [y]
    ∧ ∀ x ∈ pre, x ∈ b.stores ∧ (x.th == y.th && x.meets y.pa y.bytes.length) = false := by
  refine ⟨_, (inflight_stores ..).trans (congrArg (· ++ [y]) (noteShard_stores ..)), fun x hx => ?_⟩
  exact mem_stores_landWhere ((lands_landLook ..).stores hx)

theorem storeWaiting_same (k : Nat) (y : Store) (b : Block) : (storeWaiting k y b).cores = b.cores
    ∧ (storeWaiting k y b).mem.t2 = b.mem.t2 ∧ (storeWaiting k y b).mem.t1Bad ⊆ b.mem.t1Bad := by
  have mine : Lands b (landMine y.th y.pa y.bytes.length b) := lands_landMine ..
  have noted := (mine.trans (lands_landLook y.pa y.bytes.length _)).trans (lands_noteShard 1 k y.ctx y.va
    (Mem.read (landLook y.pa y.bytes.length (landMine y.th y.pa y.bytes.length b)).mem.t1 y.pa y.bytes.length) y.bytes _)
  simp only [storeWaiting, inflight_cores, inflight_mem]
  exact ⟨noted.cores, noted.t2, noted.bad⟩

theorem storeIssued_thread : (storeIssued k y b).thread y.th = (b.thread y.th).next 4 := by
  rw [storeIssued, Block.thread_modThread_same, thread_eq_of_cores ((landLook_cores ..).trans (storeWaiting_same k y b).1)]

theorem storeIssued_thread_other {j : Nat} (h : j ≠ y.th) : (storeIssued k y b).thread j = b.thread j := by
  rw [storeIssued, Block.modThread, Block.thread_setThread_other _ _ _ _ h,
    thread_eq_of_cores ((landLook_cores ..).trans (storeWaiting_same k y b).1)]

theorem storeIssued_t2 : (storeIssued k y b).mem.t2 = b.mem.t2 :=
  (lands_landLook ..).t2.trans (storeWaiting_same k y b).2.1

/-- The bytes of the store are in memory once its thread's stores are (R131, R200). -/
theorem storeIssued_made (hm : y.meets y.pa y.bytes.length = true) (hw : y.writable b) :
    y.made (landOwn y.th (storeIssued k y b)) := by
  obtain ⟨pre, stores, earlier⟩ := storeWaiting_stores k y b
  obtain ⟨-, -, bad⟩ := storeWaiting_same k y b
  have hw' : y.writable (storeWaiting k y b) := Store.writable_of_subset bad hw
  have look := lands_landLook y.pa y.bytes.length (storeWaiting k y b)
  refine Store.made_landOwn (fun x hx ht hxm => ?_) rfl (Store.writable_of_subset look.bad hw') (Store.made_landLook stores ?_ hm hw')
  · have hx := look.stores hx
    rw [stores, List.mem_append, List.mem_singleton] at hx
    refine hx.resolve_left fun hx => ?_
    have := (earlier x hx).2
    simp [ht, hxm] at this
  · rintro x hx hxm rfl
    have := (earlier x hx).2
    simp [hxm] at this

/-! Where no other store is under way and no codeword holds errors, only the bytes written change. -/

/-- A write to sound codewords leaves host memory alone: it posts no record. -/
theorem t1Write_host {pa : Nat} {bs : List Byte} (hn : bs.length = n) (h : wrongIn b.mem.t1Bad pa n = []) :
    (t1Write pa bs b).mem.host = b.mem.host := by
  subst hn
  have part : partIn b.mem.t1Bad pa bs.length = [] := by simp [partIn, h]
  simp only [t1Write, t1WriteBad, part]
  rfl

theorem landWhere_none {f : Store → Bool} (h : b.stores = []) : landWhere f b = b := by simp [landWhere, h]
theorem landSeen_none {f : Store → Bool} (h : b.stores = []) : landSeen f b = b := by simp [landSeen, h]

/-- Block `s` differs from `b` in T1 and host memory by the bytes of a store at most, which stand in sound codewords. -/
structure Store.confined (y : Store) (b s : Block) : Prop where
  sound : wrongIn s.mem.t1Bad y.pa y.bytes.length = []
  bytes : ∀ a, a < y.pa ∨ y.pa + y.bytes.length ≤ a → s.mem.t1.byte a = b.mem.t1.byte a
  host : s.mem.host = b.mem.host

theorem Store.confined_landStore (h : y.confined b s) : y.confined b (landStore y s) := by
  have sound : wrongIn { s with stores := s.stores.erase y }.mem.t1Bad y.pa y.bytes.length = [] := h.sound
  refine ⟨wrongIn_nil_of_subset (lands_landStore y s).bad h.sound, fun a ha => ?_, ?_⟩ <;> rw [landStore, landed_mem]
  · exact (t1Write_elsewhere rfl sound ha).trans (h.bytes a ha)
  · exact (t1Write_host rfl sound).trans h.host

theorem storeIssued_confined (hb : b.stores = []) (hs : wrongIn b.mem.t1Bad y.pa y.bytes.length = []) :
    y.confined b (storeIssued k y b) := by
  have mem : (storeWaiting k y b).mem = b.mem := by
    rw [storeWaiting, inflight_mem, landMine, landWhere_none hb, landLook, landSeen_none hb]
    exact noteShard_mem ..
  have stores : ∀ x ∈ (storeWaiting k y b).stores, x = y := by
    obtain ⟨pre, stores, earlier⟩ := storeWaiting_stores k y b
    intro x hx
    rw [stores, List.mem_append, List.mem_singleton] at hx
    exact hx.resolve_left fun hx => by simpa [hb] using (earlier x hx).1
  have start : y.confined b (storeWaiting k y b) := ⟨by rwa [mem], fun a _ => by rw [mem], by rw [mem]⟩
  have looked : y.confined b (landLook y.pa y.bytes.length (storeWaiting k y b)) := by
    refine List.foldlRecOn (motive := y.confined b) _ _ start fun s h x hx => ?_
    obtain rfl := stores x (List.mem_filter.1 hx).1
    have taken : x.confined b (s.freeBelow 2).2 := ⟨h.sound, h.bytes, h.host⟩
    exact landSeen_step x s (x.confined b) taken (Store.confined_landStore taken)
  exact ⟨looked.sound, looked.bytes, looked.host⟩

/-- Setting DIRTY in a sound table entry changes that entry alone. -/
theorem setDirty_elsewhere {c va : Nat} {q : Option Nat} (hs : wrongIn b.mem.t1Bad p.leafAddr 8 = []) :
    (∀ a, a < p.leafAddr ∨ p.leafAddr + 8 ≤ a → (setDirty q c va p b).mem.t1.byte a = b.mem.t1.byte a)
      ∧ (setDirty q c va p b).mem.host = b.mem.host := by
  have wrote : ∀ v, (∀ a, a < p.leafAddr ∨ p.leafAddr + 8 ≤ a →
      (if p.leafAddr = noTable then b else t1Write p.leafAddr (leBytes 8 v) b).mem.t1.byte a = b.mem.t1.byte a)
      ∧ (if p.leafAddr = noTable then b else t1Write p.leafAddr (leBytes 8 v) b).mem.host = b.mem.host := fun v => by
    split
    · exact ⟨fun _ _ => rfl, rfl⟩
    · exact ⟨fun a ha => t1Write_elsewhere (length_leBytes ..) hs ha, t1Write_host (length_leBytes ..) hs⟩
  unfold setDirty
  split
  · exact ⟨fun _ _ => rfl, rfl⟩
  · cases q <;> exact wrote _

end Store

/-- Settles O19: the word's store stands in memory once its thread's stores are, whoever looked before. -/
theorem deviceStoreWritesItsBytesOnly : Obligations.DeviceStoreWritesItsBytesOnly := by
  intro b b₁ th d x size off p ea n ctx b₂ hi ha hm hx hb
  obtain ⟨y, hy⟩ : ∃ y, y = storeOf b₁ th ctx ea n d p := ⟨_, rfl⟩
  have done : Issues th (.stv th d x size off) b (storeIssued (basinOf (th / 16)) y b₂) := hy ▸ issues_stv hi rfl rfl rfl ha hm hx hb
  have len : y.bytes.length = n := hy ▸ length_leBytes ..
  have issuer : y.th = th := hy ▸ rfl
  have place : y.pa = p.pa := hy ▸ rfl
  have dirty : Lands b₁ b₂ := lands_setDirty ..
  have own : y.meets y.pa y.bytes.length = true := by
    have := Nat.two_pow_pos size.toNat
    simp only [Store.meets, len, Bool.and_self, decide_eq_true_eq]
    omega
  have made := storeIssued_made (k := basinOf (th / 16)) own (show y.writable b₂ by rwa [Store.writable, len, place])
  refine ⟨_, done, ?_⟩
  subst issuer
  rw [Store.made, len, place] at made
  refine ⟨made.1.trans (hy ▸ rfl), fun none sound leaf => ?_, storeIssued_t2.trans dirty.t2, ?_, ?_, fun k hk => ?_⟩
  · obtain ⟨-, bytes, host⟩ := storeIssued_confined (y := y) (k := basinOf (y.th / 16)) (List.subset_nil.1 (none ▸ dirty.stores))
      (by rw [len, place]; exact wrongIn_nil_of_subset dirty.bad sound)
    obtain ⟨entry, host'⟩ := setDirty_elsewhere (b := b₁) (p := p) (c := ctx) (va := ea) (q := tlbOf (y.th / 16)) leaf
    rw [len, place] at bytes
    exact ⟨fun a ho hl => (bytes a ho).trans (entry a hl), host.trans host'⟩
  · rw [storeIssued_thread, dirty.thread]; rfl
  · rw [storeIssued_thread, dirty.thread]; rfl
  · exact (storeIssued_thread_other hk).trans (dirty.thread k)

end Sys2Proof.Machine
end

section
/-! PROOFS. Instruction-cache fills (R104, R122, R1009, R1016): the line that arrives, and the thread that goes on. -/

namespace Sys2Proof.Machine

/-! ### The pages of an access -/

/-- An access of some bytes begins with the page of its first. -/
theorem unitsOf_cons (va n : Nat) : ∃ rest, unitsOf va n = va :: rest := by
  rw [unitsOf, List.range_succ_eq_map]
  exact ⟨_, List.map_cons ..⟩

/-- A failure is one, whichever of two comes first. -/
theorem firstFailure_ne_none (a : XErr × Nat) (o : Option (XErr × Nat)) : firstFailure a o ≠ none := by
  unfold firstFailure
  split
  · split <;> exact Option.some_ne_none _
  · exact Option.some_ne_none _

/-- An access that passes its checks has a first page. -/
theorem translateAccess_parts {k : Option Nat} {ctx acc va n : Nat} {b : Block} (h : (translateAccess k ctx acc va n b).1.1 = none) :
    ∃ p ps, (translateAccess k ctx acc va n b).1.2 = p :: ps := by
  obtain ⟨rest, units⟩ := unitsOf_cons va n
  rw [translateAccess, units, translateAll, if_neg (Nat.not_lt_zero va)] at h ⊢
  split at h
  · exact ⟨_, _, rfl⟩
  · exact absurd (show firstFailure _ _ = none from h) (firstFailure_ne_none _ _)

theorem lands_translateAccess (k : Option Nat) (ctx acc va n : Nat) (b : Block) : Lands b (translateAccess k ctx acc va n b).2 :=
  lands_translateAll ..

/-! ### A line that arrives -/

section Install
variable {c ctx va : Nat} {data : List Byte} {b : Block}

/-- The line stands in the core's cache, in whichever way. -/
theorem icInstall_core : ∃ others set way, (icInstall c ctx va data b).core c =
    { b.core c with icache := others ++ [{ ctx := ctx, va := va, set := set, way := way, data := data }] } :=
  ⟨_, _, _, (Block.core_modCore ..).trans (if_pos rfl)⟩

theorem icInstall_thread (n : Nat) : (icInstall c ctx va data b).thread n = b.thread n :=
  thread_modCore _ (by exact fun _ => rfl) ..

theorem icInstall_mem : (icInstall c ctx va data b).mem = b.mem := rfl

end Install

section Fill
variable {b b₁ s : Block} {th va last ctx line : Nat} {ecc : Bool} {p : Part} {ps : List Part}

/-- The block in which a line read in block `s` stands in the cache of the thread's core and its thread goes on. -/
def lineFilled (th ctx va line : Nat) (s : Block) : Block :=
  (icInstall (th / 16) ctx (va / 64 * 64) (t1Data s line 64) (t1Met line 64 s)).modThread th fun t =>
    if t.st = .waiting then t.release else t

theorem fetchLine_arrives (hc : (b.ctxOf (th / 16)).getD 0xFFFF = ctx)
    (hx : translateAccess (tlbOf (th / 16)) ctx accExec va (last + 4 - va) b = ((none, p :: ps), b₁)) (hl : p.x.pa / 64 * 64 = line)
    (hs : landLook line 64 b₁ = s) (hb : t1BadIn s line 64 = none) : fetchLine th va last ecc b = lineFilled th ctx va line s := by
  subst hc hl hs
  simp only [fetchLine, hx, hb]
  rfl

theorem lineFilled_thread : (lineFilled th ctx va line s).thread th =
    if (s.thread th).st = .waiting then (s.thread th).release else s.thread th := by
  rw [lineFilled, Block.thread_modThread_same, icInstall_thread, (lands_t1Met line 64 s).thread]

theorem lineFilled_thread_other {k : Nat} (hk : k ≠ th) : (lineFilled th ctx va line s).thread k = s.thread k := by
  rw [lineFilled, Block.modThread, Block.thread_setThread_other _ _ _ _ hk, icInstall_thread, (lands_t1Met line 64 s).thread]

theorem lineFilled_cache : ∃ others set way, ((lineFilled th ctx va line s).core (th / 16)).icache =
    others ++ [{ ctx := ctx, va := va / 64 * 64, set := set, way := way, data := t1Data s line 64 }] := by
  obtain ⟨others, set, way, core⟩ := icInstall_core (c := th / 16) (ctx := ctx) (va := va / 64 * 64) (data := t1Data s line 64)
    (b := t1Met line 64 s)
  refine ⟨others, set, way, ?_⟩
  rw [lineFilled, Block.modThread, Block.core_setThread, if_pos rfl, core]
  rfl

/-! ### The row, by what its thread does -/

theorem does_icacheFill_waiting (hth : th < 65664) (hst : (b.thread th).st = .waiting) (hw : (b.thread th).wait = .fetch va ecc last) :
    Does (.icacheFill th) b
      (fetchLine th (if va = (b.thread th).pc.toNat / 64 * 64 then (b.thread th).pc.toNat else va) last ecc b) :=
  does_within (exec_icacheFill th) (decide_eq_true hth) (by simp only [hst, hw])

theorem does_icacheFill_ready (hth : th < 65664) (hst : (b.thread th).st = .ready) : Does (.icacheFill th) b
    (if (b.core (th / 16)).holdsLine ((b.ctxOf (th / 16)).getD 0xFFFF) (b.thread th).pc.toNat then b
      else fetchLine th (b.thread th).pc.toNat (b.thread th).pc.toNat false b) :=
  does_within (exec_icacheFill th) (decide_eq_true hth) (by simp only [hst])

theorem does_icacheFill_idle (hth : th < 65664) (hst : (b.thread th).st ≠ .ready)
    (hw : ∀ va ecc last, (b.thread th).wait ≠ .fetch va ecc last) : Does (.icacheFill th) b b := by
  refine does_within (exec_icacheFill th) (decide_eq_true hth) ?_
  dsimp only
  split
  case h_1 h => exact absurd h (hw _ _ _)
  case h_2 h => exact absurd h hst
  case h_3 => rfl

end Fill

theorem Thread.release_g (t : Thread) : t.release.g = t.g := by
  unfold Thread.release; split <;> rfl

theorem Thread.release_st (t : Thread) : t.release.st = if t.pagerDue then .parked else .ready := by
  unfold Thread.release; split <;> rfl

/-- What a line that arrives for a thread leaves, in a block `s` that work on T1 made of `b`. -/
theorem lineFilled_effect {b s : Block} {th ctx va line : Nat} (hl : Lands b s) :
    let t := b.thread th
    let b' := lineFilled th ctx va line s
    (b'.thread th).st = (if t.st = .waiting then (if t.pagerDue then TState.parked else .ready) else t.st)
      ∧ (b'.thread th).pc = t.pc ∧ (b'.thread th).g = t.g ∧ (b'.core (th / 16)).holdsLine ctx va = true
      ∧ (∃ l ∈ (b'.core (th / 16)).icache, l.ctx = ctx ∧ l.va = va / 64 * 64 ∧ l.data = t1Data s line 64)
      ∧ b'.mem.t1 = s.mem.t1 ∧ b'.mem.t2 = b.mem.t2 ∧ ∀ k, k ≠ th → b'.thread k = b.thread k := by
  intro t b'
  obtain ⟨others, set, way, cache⟩ := lineFilled_cache (th := th) (ctx := ctx) (va := va) (line := line) (s := s)
  have mine := lineFilled_thread (th := th) (ctx := ctx) (va := va) (line := line) (s := s)
  rw [hl.thread] at mine
  rw [mine, Core.holdsLine, cache]
  refine ⟨?_, ?_, ?_, by simp, ⟨_, List.mem_append_right _ (List.mem_singleton_self _), rfl, rfl, rfl⟩, t1Met_t1 .., ?_,
    fun k hk => (lineFilled_thread_other hk).trans (hl.thread k)⟩
  · split
    · exact Thread.release_st _
    · rfl
  · split
    · exact Thread.release_pc _
    · rfl
  · split
    · exact Thread.release_g _
    · rfl
  · exact (lands_t1Met line 64 s).t2.trans hl.t2

/-- Settles O21: whoever needs the line, what arrives is `lineFilled`. -/
theorem instructionCacheFillReleasesTheThread : Obligations.InstructionCacheFillReleasesTheThread := by
  intro b th hth t core ctx pc fills
  have arrives : ∀ va last ecc, Does (.icacheFill th) b (fetchLine th va last ecc b) → fills va last := by
    intro va last ecc done _ hr hb
    obtain ⟨p, ps, parts⟩ := translateAccess_parts hr
    have hx : translateAccess (tlbOf core) ctx accExec va (last + 4 - va) b
        = ((none, p :: ps), (translateAccess (tlbOf core) ctx accExec va (last + 4 - va) b).2) := Prod.ext (Prod.ext hr parts) rfl
    simp only [parts, List.head?_cons, Option.map_some, Option.getD_some] at hb ⊢
    rw [fetchLine_arrives rfl hx rfl rfl hb] at done
    exact ⟨_, done, lineFilled_effect ((lands_translateAccess ..).trans (lands_landLook ..))⟩
  have held : t.st = .ready → _ := does_icacheFill_ready hth
  refine ⟨?all, fun va ecc last hst hw => arrives _ _ ecc (does_icacheFill_waiting hth hst hw), fun hst hm => arrives _ _ false ?miss,
    fun hst hh => ?hit, fun hst hw => does_icacheFill_idle hth hst hw⟩
  case all => exact ⟨_, does_within (exec_icacheFill th) (decide_eq_true hth) rfl⟩
  case miss =>
    have := held hst
    rwa [if_neg (Bool.eq_false_iff.1 hm)] at this
  case hit =>
    have := held hst
    rwa [if_pos hh] at this

end Sys2Proof.Machine
end

section
/-! PROOFS. Threads (R96, R135–R140, R190–R206): thread control, wakes, identities, and the waits for engine commands. -/

namespace Sys2Proof.Machine

/-! ### Thread control and wakes -/

section Control
variable {b : Block} {th n : Nat} {d x y : Reg}

/-- A park takes a pending wake and goes on. -/
theorem parkThread_wake {r : ParkReason} {limit : U64} (h : (b.thread th).wake = true) :
    parkThread th r limit b = b.modThread th fun t => ({ t with wake := false }).next 4 :=
  modThread_congr (if_pos h)

theorem parkThread_waits {r : ParkReason} {limit : U64} (h : (b.thread th).wake = false) :
    parkThread th r limit b = b.modThread th fun t => { t with st := .parked, reason := r, parkArg := limit } :=
  modThread_congr (if_neg (by simp [h]))

/-- `th.start` on a FREE thread gives it the caller's registers. -/
theorem issues_thStart_free (hi : canIssue b th false = true) (hn : th / 16 * 16 + (b.g th x).toNat % 16 = n)
    (hst : (b.thread n).st = .free) : Issues th (.thStart th d x y) b (finishG th d 0 (b.setThread n
      { Thread.init with g := (b.thread th).g, pc := BitVec.ofNat 48 (b.g th y).toNat &&& ~~~3#48, st := .ready })) := by
  subst hn
  exact issues_word (exec_thStart th d x y) hi (if_neg (not_not_intro hst))

theorem issues_thStart_busy (hi : canIssue b th false = true) (hn : th / 16 * 16 + (b.g th x).toNat % 16 = n)
    (hst : (b.thread n).st ≠ .free) : Issues th (.thStart th d x y) b (finishG th d 1 b) := by
  subst hn
  exact issues_word (exec_thStart th d x y) hi (if_pos hst)

end Control

/-- Settles O22: each row is one change of its thread, and `th.start` and `th.wake` one of another of the core. -/
theorem threadControlEffects : Obligations.ThreadControlEffects := by
  intro b th d x y hi t n target
  exact ⟨fun h => ⟨issues_word (exec_thPark th) hi (parkThread_wake h), issues_word (exec_thParkt th x) hi (parkThread_wake h)⟩,
    fun h => ⟨issues_word (exec_thPark th) hi (parkThread_waits h), issues_word (exec_thParkt th x) hi (parkThread_waits h)⟩,
    issues_word (exec_thWake th x) hi rfl, issues_thStart_free hi rfl, issues_thStart_busy hi rfl,
    issues_word (exec_thExit th) hi rfl, issues_word (exec_thYield th) hi rfl⟩

/-- Settles O23: the one change of `wakeThread` ends a park or keeps the wake. -/
theorem wakesAreNeverLost : Obligations.WakesAreNeverLost := by
  intro b n t b'
  refine ⟨fun hpark hp => ?ends, fun hpark => ?kept, onlyThread_modThread ..⟩
  case ends =>
    have mine : b'.thread n = (t.next 4).release := by
      refine (Block.thread_modThread_same ..).trans (if_pos ?_)
      simpa using hpark
    rw [mine, release_ready (by exact hp)]
    exact ⟨rfl, rfl, rfl⟩
  case kept =>
    have stays : ∀ u : Thread, u.st = t.st → u.reason = t.reason →
        ¬ (u.st = .parked && (u.reason = .park || u.reason = .parkt)) = true := fun u hs hr => by simpa [hs, hr] using hpark
    have mine : b'.thread n = { t with wake := true } :=
      (Block.thread_modThread_same ..).trans (if_neg (stays _ rfl rfl))
    rw [mine]
    refine ⟨rfl, modThread_congr ((if_neg ?_).trans ?_), rfl, rfl⟩ <;> rw [mine]
    · exact stays _ rfl rfl
    · rfl

/-! ### Identities -/

section Identity
variable {b : Block} {th : Nat} {d : Reg}

theorem coreIndex_eq (b : Block) (c : Nat) : coreIndex b c =
    ((((b.ctxOf c).bind b.context).map fun x => (x.cores.filter fun k => decide (k < c)).length).getD 0) := by
  unfold coreIndex
  cases (b.ctxOf c).bind b.context <;> rfl

/-- The tick a thread reads, at most 1 µs old (R96, R140). -/
theorem tick_eq (b : Block) (c : Nat) : ∃ n ≤ 100,
    tick b c = (BitVec.ofNat 64 (if isSystem c then b.gl.timebase.toNat - n
      else (b.gl.timebase.toNat - n) / 2 ^ 17 + (((b.ctxOf c).bind b.context).map (·.tickOffset)).getD 0), b.spent 1) := by
  refine ⟨Config.freeNat b.freeCtr % 101, Nat.le_of_lt_succ (Nat.mod_lt _ (by decide)), ?_⟩
  generalize hn : Config.freeNat b.freeCtr % 101 = n
  have small : (b.gl.timebase.toNat - n) % 2 ^ 64 = b.gl.timebase.toNat - n :=
    Nat.mod_eq_of_lt (lt_of_le_of_lt (Nat.sub_le ..) b.gl.timebase.isLt)
  simp only [tick, fabricTime, Block.freeBelow, hn, BitVec.toNat_ofNat, small]
  split
  · rfl
  · refine Prod.ext ?_ rfl
    change BitVec.ofNat 64 (_ + match (b.ctxOf c).bind b.context with
      | some c => c.tickOffset
      | none => 0) = _
    cases (b.ctxOf c).bind b.context <;> rfl

end Identity

/-- Settles O25: every selector writes gD with its value; TICK takes a free value. -/
theorem identityReads : Obligations.IdentityReads := by
  intro b th d hi c gives
  obtain ⟨n, bound, read⟩ := tick_eq b c
  refine ⟨issues_word (exec_rdst th d .context) hi rfl, issues_word (exec_rdst th d .thread) hi rfl,
    issues_word (exec_rdst th d .threadLocal) hi rfl, issues_word (exec_rdst th d .core) hi rfl,
    issues_word (exec_rdst th d .partition) hi rfl, issues_word (exec_rdst th d .pc) hi ?pc,
    issues_word (exec_rdst th d .coreInContext) hi ?index, n, bound, issues_word (exec_rdst th d .tick) hi ?tick⟩
  case pc => exact congrArg (finishG th d · b) (BitVec.ofNat_toNat ..).symm
  case index => exact congrArg (fun v => finishG th d (BitVec.ofNat 64 v) b) (coreIndex_eq b c)
  case tick => exact congrArg (fun r : U64 × Block => finishG th d r.1 r.2) read

/-! ### `sy.wait` -/

section Wait
variable {b : Block} {th : Nat} {d x : Reg} {k : Nat} {st : Status}

/-- What `sy.wait` makes of a ticket. -/
def waitOn (th : Nat) (d : Reg) (ticket : Nat) (b : Block) : TicketIs → Block
  | .null => finishG th d (BitVec.ofNat 64 Status.ok.code) b
  | .invalid | .stale => finishG th d (BitVec.ofNat 64 Status.internal.code) b
  | .done st => finishG th d (BitVec.ofNat 64 st.code) b
  | .waiting index => b.modThread th fun t =>
      { t with st := .parked, reason := .sywait, parkArg := BitVec.ofNat 64 ticket, wait := .ticket (ticket / 4096) index d.toNat }

theorem issues_syWait {ticket : Nat} {r : TicketIs} (hi : canIssue b th false = true) (ht : (b.g th x).toNat % 65536 = ticket)
    (hr : ticketIs b (th / 16) ticket = r) : Issues th (.syWait th d x) b (waitOn th d ticket b r) := by
  subst ht hr
  refine issues_word (exec_syWait th d x) hi ?_
  dsimp only
  cases ticketIs b (th / 16) ((b.g th x).toNat % 65536) <;> rfl

theorem waitOn_waiting (b : Block) (ticket index : Nat) : ((waitOn th d ticket b (.waiting index)).thread th).st = .parked
    ∧ ((waitOn th d ticket b (.waiting index)).thread th).wait = .ticket (ticket / 4096) index d.toNat
    ∧ onlyThread th b (waitOn th d ticket b (.waiting index)) := by
  refine ⟨?_, ?_, onlyThread_modThread ..⟩ <;> rw [waitOn, Block.thread_modThread_same]

end Wait

/-! ### `sy.fence` -/

@[simp] theorem t1Met_basins (pa n : Nat) (b : Block) : (t1Met pa n b).basins = b.basins :=
  congrArg (·.basins) (uncounted_t1Met pa n b)

@[simp] theorem t1Correct_basins (a : Nat) (b : Block) : (t1Correct a b).basins = b.basins := t1Met_basins ..

@[simp] theorem t1Write_basins (pa : Nat) (bs : List Byte) (b : Block) : (t1Write pa bs b).basins = b.basins := by
  unfold t1Write
  split
  · rfl
  · exact foldl_keeps Block.basins _ (fun s (e : Nat × SymErrs) => t1Correct_basins e.1 s) _ _

@[simp] theorem landed_basins (slot : Nat) (prev : Bool) (b : Block) : (landed slot prev b).basins = b.basins := by
  unfold landed; split <;> rfl

@[simp] theorem landStore_basins (x : Store) (b : Block) : (landStore x b).basins = b.basins := by simp [landStore]

theorem landWhere_basins (p : Store → Bool) (b : Block) : (landWhere p b).basins = b.basins :=
  foldl_keeps Block.basins _ (fun s x => landStore_basins x s) _ b

theorem allQueues_landOwn (th : Nat) (b : Block) : allQueues (landOwn th b) = allQueues b := by
  rw [allQueues, allQueues, landOwn, landWhere_cores, landWhere_basins]

/-- The memories and the stores under way. -/
def Block.stored (b : Block) : Memories × List Store := (b.mem, b.stores)

@[simp] theorem stored_setQueue (q : QueueRef) (l : List Cmd) (b : Block) : (b.setQueue q l).stored = b.stored := by
  cases q <;> rfl

@[simp] theorem stored_modCmd (q : QueueRef) (id : Nat) (f : Cmd → Cmd) (b : Block) : (b.modCmd q id f).stored = b.stored :=
  stored_setQueue ..

theorem stored_requestPass (q : QueueRef) (c : Cmd) (b : Block) : (requestPass q c b).stored = b.stored := by
  simp only [requestPass]
  split
  · exact stored_modCmd ..
  · exact stored_modCmd ..

/-- Closing a group of submissions touches queues alone. -/
theorem stored_closeGroup (core id : Nat) (b : Block) : (closeGroup core id b).stored = b.stored := by
  unfold closeGroup
  split
  · rfl
  · rename_i g _
    have counted : (b.modCore core (·.modQ fun x =>
      { x with groups := x.groups.filter fun y => y.id != id
               groupsFull := if g.rows = 16 then x.groupsFull + 1 else x.groupsFull
               groupsShort := if g.rows = 16 then x.groupsShort else x.groupsShort + 1 })).stored = b.stored := rfl
    dsimp only
    split
    · exact counted
    · rw [apply_ite Block.stored, stored_requestPass, ite_self, stored_modCmd]
      exact (foldl_keeps Block.stored _ (fun s x => stored_modCmd ..) _ _).trans counted

section Fence
variable {b : Block} {th : Nat} {scope : FenceScope} {mine : List (QueueRef × Cmd)}

/-- A fence that waits for no command. -/
theorem fence_passes (hm : (allQueues b).filter (fun e => e.2.thread == th) = mine) (h : scope = .st ∨ mine = []) :
    fence th scope b = (landOwn th b).modThread th fun t => t.next 4 := by
  subst hm
  rw [fence, allQueues_landOwn]
  refine if_pos ?_
  simpa using h

/-- A fence that waits for the commands of its thread. -/
theorem fence_waits (hm : (allQueues b).filter (fun e => e.2.thread == th) = mine) (hs : scope ≠ .st) (hn : mine ≠ []) :
    ((fence th scope b).thread th).st = .parked ∧ ((fence th scope b).thread th).wait = .fence (mine.map fun e => e.2.id)
      ∧ (fence th scope b).stored = (landOwn th b).stored := by
  subst hm
  simp only [fence, allQueues_landOwn]
  rw [if_neg (by simpa using ⟨hs, by simpa using hn⟩), Block.thread_modThread_same]
  refine ⟨rfl, congrArg WaitOp.fence (List.map_map ..), ?_⟩
  exact foldl_keeps Block.stored _ (fun s g => stored_closeGroup ..) _ _

end Fence

/-- Settles O26: `sy.wait` by what its ticket names, `sy.fence` by the commands of its thread; the stores land either way. -/
theorem waitAndFenceEffects : Obligations.WaitAndFenceEffects := by
  intro b th d x scope hi ticket mine gives
  have wait : ∀ {r}, ticketIs b (th / 16) ticket = r → Issues th (.syWait th d x) b (waitOn th d ticket b r) := issues_syWait hi rfl
  have landed : ∀ x ∈ (landOwn th b).stores, x.th ≠ th := fun x hx => by simpa using (mem_stores_landWhere hx).2
  refine ⟨fun h => wait (r := .null) (if_pos h), fun h => ?bad, fun st h => wait h, fun k h => ⟨_, wait h, waitOn_waiting ..⟩,
    fun h => issues_word (exec_syFence th scope) hi (fence_passes rfl h), fun hs hn => ?fence, landed⟩
  case bad => rcases h with h | h <;> exact wait h
  case fence =>
    obtain ⟨parked, waits, stored⟩ := fence_waits (b := b) rfl hs hn
    have stores : (fence th scope b).stores = (landOwn th b).stores := congrArg Prod.snd stored
    exact ⟨_, issues_word (exec_syFence th scope) hi rfl, parked, waits, stores ▸ landed, congrArg (·.1.t1) stored⟩

end Sys2Proof.Machine
end


section
/-! PROOFS. The save record of a thread: the words it is made of and the numbers that pack its state. -/
namespace Sys2Proof.Machine

/-! ### Words in a list of bytes -/

theorem leNat_leBytes (n w : Nat) : leNat (leBytes n w) = w % 256 ^ n := by
  induction n generalizing w with
  | zero => simp [leBytes, leNat, Nat.mod_one]
  | succ n ih => simp [leBytes, leNat, ih, Nat.pow_succ', Nat.mod_mul]

theorem length_words (ws : List Nat) : (ws.flatMap (leBytes 8)).length = 8 * ws.length := by
  induction ws with
  | nil => rfl
  | cons w ws ih => simp [ih]; omega

/-- A word that stands in a list of words, behind which other bytes may follow. -/
theorem fld_words (ws : List Nat) (z : List Byte) (i : Nat) (h : i < ws.length) :
    fld (ws.flatMap (leBytes 8) ++ z) (8 * i) 8 = ws[i] % 2 ^ 64 := by
  induction ws generalizing i with
  | nil => contradiction
  | cons w ws ih =>
    rw [List.flatMap_cons, List.append_assoc]
    cases i with
    | zero => rw [fld, Nat.mul_zero, List.drop_zero, List.take_left' (length_leBytes 8 w), leNat_leBytes]; rfl
    | succ i =>
      rw [List.getElem_cons_succ, ← ih i (Nat.lt_of_succ_lt_succ h), fld, fld, Nat.mul_succ, Nat.add_comm, ← List.drop_drop,
        List.drop_left' (length_leBytes 8 w)]

/-! ### The codes of a record -/

theorem trapOfCode_code (c : TrapCause) : trapOfCode c.code = some c := by cases c <;> rfl
theorem reasonOfCode_code (r : ParkReason) : reasonOfCode r.code = some r := by cases r <;> rfl
theorem Status.ofCode_code (s : Status) : Status.ofCode s.code = some s := by cases s <;> rfl

theorem TrapCause.code_lt (c : TrapCause) : c.code < 64 := by cases c <;> decide
theorem ParkReason.code_lt (r : ParkReason) : r.code < 16 := by cases r <;> decide
theorem Status.code_lt (s : Status) : s.code < 256 := by cases s <;> decide
theorem TState.code_lt (s : TState) : s.code < 6 := by cases s <;> decide
theorem TState.code_pos {s : TState} (h : s ≠ .free) : 0 < s.code := by
  cases s with
  | free => contradiction
  | ready | waiting | parked | stopped | halted => decide

/-- TSTATE (R163). -/
def Thread.tstate (t : Thread) : Nat :=
  (t.p ||| 1#8).toNat + t.st.code * 2 ^ 8 + b2n t.wake * 2 ^ 11 + t.cause.code * 2 ^ 12 + t.status.code * 2 ^ 18 + t.reason.code * 2 ^ 26

/-- The fields of TSTATE do not overlap: each reads as it was packed. -/
theorem tstate_fields (t : Thread) : t.tstate / 2 ^ 30 = 0 ∧ t.tstate % 256 = (t.p ||| 1#8).toNat ∧ bitsOf t.tstate 8 3 = t.st.code
    ∧ bitsOf t.tstate 11 1 = b2n t.wake ∧ bitsOf t.tstate 12 6 = t.cause.code ∧ bitsOf t.tstate 18 8 = t.status.code
    ∧ bitsOf t.tstate 26 4 = t.reason.code := by
  have hp := (t.p ||| 1#8).isLt
  have hst := t.st.code_lt
  have hw : b2n t.wake < 2 := by cases t.wake <;> decide
  have hcause := t.cause.code_lt
  have hstatus := t.status.code_lt
  have hreason := t.reason.code_lt
  simp only [bitsOf_eq, Thread.tstate]
  omega

/-- Bit 0 of TSTATE is 1: p0 reads true. -/
theorem tstate_bit0 (t : Thread) : bitOf t.tstate 0 = true := by
  have low : bitOf (t.p ||| 1#8).toNat 0 = true := by rw [bitOf_toNat, BitVec.getLsbD_or]; exact Bool.or_true _
  obtain ⟨_, byte, _⟩ := tstate_fields t
  rw [bitOf_zero, decide_eq_true_iff] at low ⊢
  omega

/-! ### The record -/

/-- The words of a save record. -/
def Thread.recordWords (t : Thread) : List Nat :=
  [t.pc.toNat, t.tstate, t.faultVa.toNat, t.parkArg.toNat] ++ (List.range 31).map fun i => (t.getG (BitVec.ofNat 5 (i + 1))).toNat

theorem saveRecord_words (t : Thread) : saveRecord t = t.recordWords.flatMap (leBytes 8) ++ zeros 40 := by
  simp [saveRecord, Thread.recordWords, Thread.tstate, List.flatMap_map]

theorem length_recordWords (t : Thread) : t.recordWords.length = 35 := by simp [Thread.recordWords]

theorem fld_saveRecord (t : Thread) (i : Nat) (h : i < 35) :
    fld (saveRecord t) (8 * i) 8 = t.recordWords[i]'(by rwa [length_recordWords]) % 2 ^ 64 := by
  simp only [saveRecord_words]
  exact fld_words ..

theorem fld_saveRecord_reg (t : Thread) (i : Nat) (h : i < 31) :
    fld (saveRecord t) (0x20 + 8 * i) 8 = (t.getG (BitVec.ofNat 5 (i + 1))).toNat := by
  rw [show 0x20 + 8 * i = 8 * (i + 4) by omega, fld_saveRecord t _ (by omega)]
  simpa [Thread.recordWords] using (t.getG (BitVec.ofNat 5 (i + 1))).isLt

theorem allZero_saveRecord (t : Thread) : allZero (saveRecord t) 0x118 40 = true := by
  rw [saveRecord_words, allZero, List.drop_left' (by rw [length_words, length_recordWords])]
  decide

/-- What a map filled from 1 on reads. -/
theorem get_fill (f : Nat → U64) (n k : Nat) :
    SMap.get 0 k ((List.range n).foldl (fun m i => SMap.put 0 (i + 1) (f i) m) []) = if 0 < k ∧ k ≤ n then f (k - 1) else 0 := by
  induction n with
  | zero => simp; omega
  | succ n ih =>
    rw [List.range_succ, List.foldl_append, List.foldl_cons, List.foldl_nil, SMap.get_put, ih]
    split
    · subst_vars; simp
    · congr 1; simp; omega

/-- The g registers of a record are those of its thread. -/
theorem get_recordRegs (t : Thread) {r : Reg} (h : r ≠ 0) : SMap.get 0 r.toNat (recordRegs (saveRecord t)) = t.getG r := by
  have pos : 0 < r.toNat := Nat.pos_of_ne_zero fun e => h (BitVec.eq_of_toNat_eq e)
  have le : r.toNat ≤ 31 := Nat.le_of_lt_succ r.isLt
  rw [recordRegs, get_fill, if_pos ⟨pos, le⟩, fld_saveRecord_reg t _ (by omega), Nat.sub_add_cancel pos]
  simp

/-- The thread that a record brings back, with the registers `g`. -/
def Thread.restored (t : Thread) (g : SMap U64) : Thread :=
  { Thread.init with
    g := g, p := (t.p ||| 1#8) &&& 0xFE#8, pc := t.pc, wake := t.wake, st := .stopped, reason := t.reason,
    cause := t.cause, status := t.status, faultVa := t.faultVa, parkArg := t.parkArg }

theorem readRecord_saveRecord (t : Thread) (hpc : t.pc.toNat % 4 = 0) (hst : t.st ≠ .free) :
    readRecord (saveRecord t) = some (t.restored (recordRegs (saveRecord t))) := by
  obtain ⟨high, hp, hcode, hwake, hcause, hstatus, hreason⟩ := tstate_fields t
  have pcLt := t.pc.isLt
  have word0 : fld (saveRecord t) 0 8 = t.pc.toNat :=
    (fld_saveRecord t 0 (by decide)).trans (Nat.mod_eq_of_lt (by simp [Thread.recordWords]; omega))
  have word1 : fld (saveRecord t) 8 8 = t.tstate :=
    (fld_saveRecord t 1 (by decide)).trans (Nat.mod_eq_of_lt (by simp [Thread.recordWords]; omega))
  have word2 : fld (saveRecord t) 0x10 8 = t.faultVa.toNat := (fld_saveRecord t 2 (by decide)).trans (Nat.mod_eq_of_lt t.faultVa.isLt)
  have word3 : fld (saveRecord t) 0x18 8 = t.parkArg.toNat := (fld_saveRecord t 3 (by decide)).trans (Nat.mod_eq_of_lt t.parkArg.isLt)
  have pos := TState.code_pos hst
  have lt := t.st.code_lt
  have wake : bitOf t.tstate 11 = t.wake := by rw [bitOf, hwake]; cases t.wake <;> rfl
  have accepted : (t.pc.toNat / 2 ^ 48 ≠ 0 || t.pc.toNat % 4 ≠ 0 || t.tstate / 2 ^ 30 ≠ 0 || !allZero (saveRecord t) 0x118 40
      || t.st.code = 0 || 6 ≤ t.st.code || !bitOf t.tstate 0) = false := by
    rw [allZero_saveRecord, tstate_bit0]
    simp
    omega
  simp only [readRecord, word0, word1, word2, word3, hcode, hcause, hreason, hstatus, hp, wake, trapOfCode_code, reasonOfCode_code,
    Status.ofCode_code, BitVec.ofNat_toNat, BitVec.setWidth_eq]
  rw [if_neg (by simpa using accepted)]
  rfl

theorem restored_kept (t : Thread) (g : SMap U64) : (t.restored g).pc = t.pc ∧ (t.restored g).wake = t.wake ∧ (t.restored g).cause = t.cause
    ∧ (t.restored g).status = t.status ∧ (t.restored g).reason = t.reason ∧ (t.restored g).faultVa = t.faultVa
    ∧ (t.restored g).parkArg = t.parkArg := ⟨rfl, rfl, rfl, rfl, rfl, rfl, rfl⟩

theorem restored_getG (t : Thread) {g : SMap U64} (h : ∀ r : Reg, r ≠ 0 → SMap.get 0 r.toNat g = t.getG r) (r : Reg) :
    (t.restored g).getG r = t.getG r := by
  by_cases zero : r = 0
  · rw [Thread.getG, Thread.getG, if_pos zero, if_pos zero]
  · rw [Thread.getG, if_neg zero]
    exact h r zero

/-- Each predicate but p0 keeps its bit when bit 0 is set and cleared. -/
theorem restored_getP (t : Thread) (g : SMap U64) (k : Pred) : (t.restored g).getP k = t.getP k := by
  have bits : ∀ k : Pred, k ≠ 0 → (1#8).getLsbD k.toNat = false ∧ (0xFE#8).getLsbD k.toNat = true := by decide
  by_cases zero : k = 0
  · rw [Thread.getP, Thread.getP, if_pos zero, if_pos zero]
  · rw [Thread.getP, Thread.getP, if_neg zero, if_neg zero, Thread.restored, BitVec.getLsbD_and, BitVec.getLsbD_or, (bits k zero).1,
      (bits k zero).2, Bool.or_false, Bool.and_true]

theorem length_saveRecord (t : Thread) : (saveRecord t).length = 320 := by
  simp [saveRecord_words, length_words, length_recordWords, zeros, -List.length_flatMap]

/-- Settles O28: each word and each packed field of the record reads as it was written. -/
theorem saveRecordRoundTrip : Obligations.SaveRecordRoundTrip := by
  intro t hpc hst
  obtain ⟨pc, wake, cause, status, reason, faultVa, parkArg⟩ := restored_kept t (recordRegs (saveRecord t))
  exact ⟨_, readRecord_saveRecord t hpc hst, rfl, restored_getG t fun _ => get_recordRegs t, restored_getP t _, pc, wake, cause, status,
    reason, faultVa, parkArg, length_saveRecord t⟩

end Sys2Proof.Machine
end


section
/-! PROOFS. Engine words (R141–R145, R181, R209): the outcomes their shared form can have, and each row's unit, code and checks. -/

namespace Sys2Proof.Machine

section EngWord
variable {b b₁ : Block} {th unit code : Nat} {a : Reg} {entry : Block → List Byte → Entry}
  {enter : QueueRef → List Byte → Entry → Block → Block} {q : QueueRef} {block : List Byte}

/-- A unit that is not valid on the core. -/
theorem engWord_noUnit (hq : queueOf (th / 16) unit = none) :
    engWord th a unit code entry enter b = takeTrap th .illegalOp .ok 0 b := by
  simp only [engWord, hq]

variable (hq : queueOf (th / 16) unit = some q) (ht : blockTrap th (b.g th a) = none)
include hq ht

/-- A full queue. -/
theorem engWord_full (hd : q.depth ≤ (b.queue q).length) : engWord th a unit code entry enter b = parkOnQueue th q b := by
  simp only [engWord, hq, ht, if_pos hd]

variable (hd : (b.queue q).length < q.depth) (hr : readBlock th (b.g th a) b = (some block, b₁))
include hd hr

theorem engWord_turn (hg : grantState b₁ q (fld block 8 4) = some false) : engWord th a unit code entry enter b =
    enter q block (if headerOk block unit code then entry b₁ block else .bad .internal) (grantTaken q (fld block 8 4) b₁) := by
  simp only [engWord, hq, ht, if_neg (Nat.not_le.2 hd), hr, hg]

theorem engWord_repeated (hg : grantState b₁ q (fld block 8 4) = some true) :
    engWord th a unit code entry enter b = enter q block (.bad .internal) b₁ := by
  simp only [engWord, hq, ht, if_neg (Nat.not_le.2 hd), hr, hg]

theorem engWord_early (hg : grantState b₁ q (fld block 8 4) = none) : engWord th a unit code entry enter b = parkOnQueue th q b₁ := by
  simp only [engWord, hq, ht, if_neg (Nat.not_le.2 hd), hr, hg]

end EngWord

/-- What O30 says of one row: each outcome of its word. -/
def EngIssues (b : Block) (th : Nat) (a : Reg) (i : Instr) (unit code : Nat) (entry : Block → List Byte → Entry)
    (enter : QueueRef → List Byte → Entry → Block → Block) : Prop :=
  (queueOf (th / 16) unit = none → Issues th i b (takeTrap th .illegalOp .ok 0 b))
    ∧ ∀ q, queueOf (th / 16) unit = some q → blockTrap th (b.g th a) = none →
      (q.depth ≤ (b.queue q).length → Issues th i b (parkOnQueue th q b))
      ∧ ((b.queue q).length < q.depth → ∀ block b₁, readBlock th (b.g th a) b = (some block, b₁) →
        (grantState b₁ q (fld block 8 4) = some false →
          Issues th i b (enter q block (if headerOk block unit code then entry b₁ block else .bad .internal)
            (grantTaken q (fld block 8 4) b₁)))
        ∧ (grantState b₁ q (fld block 8 4) = some true → Issues th i b (enter q block (.bad .internal) b₁))
        ∧ (grantState b₁ q (fld block 8 4) = none → Issues th i b (parkOnQueue th q b₁)))

section Rows
variable {b : Block} {th unit code : Nat} {a : Reg} {pk : Pred} {i : Instr} {entry : Block → List Byte → Entry}
  {enter : QueueRef → List Byte → Entry → Block → Block} {f : Block → BlockResult}

/-- A row that issues an engine word has the outcomes of that word. -/
theorem engIssues_of (hi : canIssue b th false = true) (hp : predsReady b th [pk] = true) (he : ∀ s, exec i s = onBlock s f)
    (hf : f b = issueP th [pk] b (engWord th a unit code entry enter)) : EngIssues b th a i unit code entry enter := by
  have goes : ∀ {b'}, engWord th a unit code entry enter b = b' → Issues th i b b' := fun h =>
    issues_of he (by rw [hf, issueP_of _ hi hp, h])
  exact ⟨fun hq => goes (engWord_noUnit hq), fun q hq ht => ⟨fun hd => goes (engWord_full hq ht hd), fun hd block b₁ hr =>
    ⟨fun hg => goes (engWord_turn hq ht hd hr hg), fun hg => goes (engWord_repeated hq ht hd hr hg),
      fun hg => goes (engWord_early hq ht hd hr hg)⟩⟩⟩

/-- The first row of a unit enters a reserved code with INTERNAL. -/
theorem issueFirst_reserved {d : Reg} {own : Nat} {k : BitVec 8} (hk : k.toNat ∉ unitCodes unit) (hown : own ∈ unitCodes unit) :
    issueFirst th d a pk unit own k f b = issueEng th d a pk unit k.toNat (fun _ _ => .bad .internal) b := by
  rw [issueFirst, if_neg (ne_of_mem_of_not_mem hown hk).symm, if_neg (by simpa using hk)]

/-- The first row of a unit with its own code. -/
theorem engIssues_first {d : Reg} {k : BitVec 8} (hi : canIssue b th false = true) (hp : predsReady b th [pk] = true)
    (he : ∀ s, exec i s = onBlock s (issueFirst th d a pk unit code k f))
    (hf : f b = issueP th [pk] b (engWord th a unit code entry enter)) (hk : k.toNat = code) : EngIssues b th a i unit code entry enter :=
  engIssues_of hi hp he ((if_pos hk).trans hf)

/-- The first row of a unit with a code that the unit reserves. -/
theorem engIssues_reserved {d : Reg} {k : BitVec 8} {own : Nat} (hi : canIssue b th false = true) (hp : predsReady b th [pk] = true)
    (he : ∀ s, exec i s = onBlock s (issueFirst th d a pk unit own k f)) (hown : own ∈ unitCodes unit) (hk : k.toNat ∉ unitCodes unit) :
    EngIssues b th a i unit k.toNat (fun _ _ => .bad .internal) (enterCmd th d pk unit k.toNat) :=
  engIssues_of hi hp he (issueFirst_reserved hk hown)

end Rows

/-- Settles O30: every row issues the shared engine word with its unit's checks. -/
theorem engineCommandsEnterTheirQueues : Obligations.EngineCommandsEnterTheirQueues := by
  intro b th d a pk hi hp
  have eng {i unit code entry enter f} := @engIssues_of b th unit code a pk i entry enter f hi hp
  have first {i unit code entry enter f k} := @engIssues_first b th unit code a pk i entry enter f d k hi hp
  have reserved {i unit f k own} := @engIssues_reserved b th unit a pk i f d k own hi hp
  exact ⟨⟨first (exec_mxFwd th d a ⟨pk, _⟩) rfl rfl, eng (exec_mxRev th d a pk) rfl, eng (exec_mxFwd3 th d a pk) rfl,
      eng (exec_mxRev3 th d a pk) rfl, eng (exec_mxDrain th d a pk) rfl⟩,
    ⟨first (exec_cxDown th d a ⟨pk, _⟩) rfl rfl, eng (exec_cxBack th d a pk) rfl, eng (exec_cxGrad th d a pk) rfl⟩,
    ⟨first (exec_mvFwd th d a ⟨pk, _⟩) rfl rfl, eng (exec_mvRev th d a pk) rfl, eng (exec_mvFwd3 th d a pk) rfl⟩,
    ⟨first (exec_vxRun th d a ⟨pk, _⟩) rfl rfl, eng (exec_vxStep th d a pk) rfl, eng (exec_vxTload th d a pk) rfl,
      eng (exec_vxComb th d a pk) rfl, eng (exec_vxMov th d a pk) rfl, eng (exec_vxAdd th d a pk) rfl,
      eng (exec_vxSub th d a pk) rfl, eng (exec_vxMul th d a pk) rfl, eng (exec_vxFma th d a pk) rfl,
      eng (exec_vxDiv th d a pk) rfl, eng (exec_vxRecip th d a pk) rfl, eng (exec_vxSqrt th d a pk) rfl,
      eng (exec_vxRsqrt th d a pk) rfl, eng (exec_vxExp th d a pk) rfl, eng (exec_vxExp2 th d a pk) rfl,
      eng (exec_vxLog th d a pk) rfl, eng (exec_vxLog2 th d a pk) rfl, eng (exec_vxMin th d a pk) rfl,
      eng (exec_vxMax th d a pk) rfl, eng (exec_vxAbs th d a pk) rfl, eng (exec_vxNeg th d a pk) rfl,
      eng (exec_vxClamp th d a pk) rfl, eng (exec_vxCvt th d a pk) rfl, eng (exec_vxLut th d a pk) rfl,
      eng (exec_vxShuf th d a pk) rfl, eng (exec_vxRsum th d a pk) rfl, eng (exec_vxRmax th d a pk) rfl,
      eng (exec_vxRmin th d a pk) rfl⟩,
    ⟨first (exec_twArm th d a ⟨pk, _⟩) rfl rfl, eng (exec_twFlip th d a pk) rfl, eng (exec_twPair th d a pk) rfl⟩,
    ⟨first (exec_atRun th d a ⟨pk, _⟩) rfl rfl, eng (exec_atBack th d a pk) rfl, eng (exec_atMerge th d a pk) rfl⟩,
    ⟨first (exec_upTake th d a ⟨pk, _⟩) rfl rfl, eng (exec_upNorm th d a pk) rfl, eng (exec_upApply th d a pk) rfl,
      eng (exec_upDigest th d a pk) rfl⟩,
    ⟨first (exec_rdSum th d a ⟨pk, _⟩) rfl rfl, eng (exec_rdClose th d a pk) rfl, eng (exec_rdHash th d a pk) rfl⟩,
    ⟨first (exec_tmMove th d a ⟨pk, _⟩) rfl rfl, eng (exec_tmLayer th d a pk) rfl⟩,
    first (exec_ckRun th d a ⟨pk, _⟩) rfl rfl, fun k =>
    ⟨reserved (exec_mxFwd th d a ⟨pk, k⟩) (by decide), reserved (exec_cxDown th d a ⟨pk, k⟩) (by decide),
      reserved (exec_mvFwd th d a ⟨pk, k⟩) (by decide), reserved (exec_vxRun th d a ⟨pk, k⟩) (by decide),
      reserved (exec_twArm th d a ⟨pk, k⟩) (by decide), reserved (exec_atRun th d a ⟨pk, k⟩) (by decide),
      reserved (exec_upTake th d a ⟨pk, k⟩) (by decide), reserved (exec_rdSum th d a ⟨pk, k⟩) (by decide),
      reserved (exec_tmMove th d a ⟨pk, k⟩) (by decide), reserved (exec_ckRun th d a ⟨pk, k⟩) (by decide)⟩⟩

end Sys2Proof.Machine
end


section
/-! PROOFS. Entering a queue (R141, R174, R188, R189): what the queues hold of a command, and what entering leaves as it is. -/

namespace Sys2Proof.Machine

/-! ### Queues -/

/-- The command queues of a core. -/
def CoreQueues.lists (x : CoreQueues) : List (List Cmd) := [x.mx, x.cx, x.vx, x.tw, x.rd, x.tm, x.ck]

/-- The command queues of a basin. -/
def Basin.lists (x : Basin) : List (List Cmd) := [x.mv, x.up, x.rd, x.tm]

section Queues
variable {b : Block} {q : QueueRef}

theorem queue_of_lists {b' : Block} (hc : ∀ c, (b'.core c).q.lists = (b.core c).q.lists) (hb : ∀ n, (b'.basin n).lists = (b.basin n).lists)
    (q : QueueRef) : b'.queue q = b.queue q := by
  simp only [CoreQueues.lists, Basin.lists, List.cons.injEq] at hc hb
  cases q <;> simp only [Block.queue, hc, hb]

theorem queue_modCore (c : Nat) {f : Core → Core} (h : ∀ x, (f x).q.lists = x.q.lists) (q : QueueRef) :
    (b.modCore c f).queue q = b.queue q := by
  refine queue_of_lists (fun d => ?_) (by exact fun _ => rfl) q
  rw [Block.core_modCore]
  split
  · subst_vars; exact h _
  · rfl

theorem queue_modBasin (n : Nat) {f : Basin → Basin} (h : ∀ x, (f x).lists = x.lists) (q : QueueRef) :
    (b.modBasin n f).queue q = b.queue q := by
  refine queue_of_lists (by exact fun _ => rfl) (fun m => ?_) q
  rw [Block.basin_modBasin]
  split
  · subst_vars; exact h _
  · rfl

theorem queue_modThread (th : Nat) (f : Thread → Thread) : (b.modThread th f).queue q = b.queue q :=
  queue_modCore _ (by exact fun _ => rfl) q

@[simp] theorem queue_setQueue_same (l : List Cmd) : (b.setQueue q l).queue q = l := by
  cases q <;> simp [Block.setQueue, Block.queue, Core.modQ, Block.core_modCore, Block.basin_modBasin]

theorem queue_modCmd (id : Nat) (f : Cmd → Cmd) : (b.modCmd q id f).queue q = (b.queue q).map fun c => if c.id = id then f c else c :=
  queue_setQueue_same _

theorem queue_setGate (u : GateRef) (g : Gate) (q : QueueRef) : (b.setGate u g).queue q = b.queue q :=
  match u with
  | .core _ false | .core _ true => queue_modCore _ (by exact fun _ => rfl) q
  | .basin _ false | .basin _ true => queue_modBasin _ (by exact fun _ => rfl) q

end Queues

/-- Entering a unit that is not ON sets its gate and nothing else. -/
theorem gateEnter_eq (q : QueueRef) (b : Block) : gateEnter q b = b ∨ ∃ u g, gateEnter q b = b.setGate u g := by
  unfold gateEnter
  split
  · exact .inl rfl
  · dsimp only
    split
    · exact .inr ⟨_, _, rfl⟩
    · exact .inr ⟨_, _, rfl⟩
    · exact .inl rfl

/-! ### Commands -/

/-- What a command keeps from its entry on. -/
def Cmd.named (c : Cmd) : Nat × Nat × Nat × List Byte × Nat × Nat × Nat × Option Status × Nat :=
  (c.id, c.unit, c.code, c.block, c.index, c.thread, c.core, c.refuse, c.pk)

theorem named_modCmd {b : Block} {q : QueueRef} {id : Nat} {f : Cmd → Cmd} (h : ∀ c, (f c).named = c.named) :
    ((b.modCmd q id f).queue q).map Cmd.named = (b.queue q).map Cmd.named := by
  rw [queue_modCmd, List.map_map]
  refine List.map_congr_left fun c _ => ?_
  rw [Function.comp_apply, apply_ite Cmd.named, h, ite_self]

theorem named_requestPass (q : QueueRef) (c : Cmd) (b : Block) :
    ((requestPass q c b).queue q).map Cmd.named = (b.queue q).map Cmd.named := by
  simp only [requestPass]
  split
  · exact named_modCmd (by exact fun _ => rfl)
  · exact (congrArg _ (queue_modBasin _ (by exact fun _ => rfl) q)).trans (named_modCmd (by exact fun _ => rfl))

theorem queue_gateEnter (p q : QueueRef) (b : Block) : (gateEnter p b).queue q = b.queue q := by
  obtain h | ⟨u, g, h⟩ := gateEnter_eq p b <;> rw [h]
  exact queue_setGate ..

/-! ### What queues and gates are no part of -/

/-- The threads of a core, its tile store and its counts of commands. -/
def Core.front (c : Core) : SMap Thread × Mem × SMap Nat := (c.threads, c.ts, c.q.entered)

/-- The fronts of the cores, and the memories. -/
def Block.front (b : Block) : (Nat → SMap Thread × Mem × SMap Nat) × Memories := (fun c => (b.core c).front, b.mem)

section Front
variable {b : Block}

theorem front_modCore (c : Nat) {f : Core → Core} (h : ∀ x, (f x).front = x.front) : (b.modCore c f).front = b.front := by
  refine Prod.ext (funext fun d => ?_) rfl
  show ((b.modCore c f).core d).front = (b.core d).front
  rw [Block.core_modCore]
  split
  · subst_vars; exact h _
  · rfl

theorem front_setQueue (q : QueueRef) (l : List Cmd) : (b.setQueue q l).front = b.front := by
  cases q with
  | mx | cx | vx | tw | sysRd | sysTm | sysCk => exact front_modCore _ (by exact fun _ => rfl)
  | mv | up | rd | tm => rfl

theorem front_setGate (u : GateRef) (g : Gate) : (b.setGate u g).front = b.front :=
  match u with
  | .core _ false | .core _ true => front_modCore _ (by exact fun _ => rfl)
  | .basin _ false | .basin _ true => rfl

theorem front_gateEnter (q : QueueRef) : (gateEnter q b).front = b.front := by
  obtain h | ⟨u, g, h⟩ := gateEnter_eq q b <;> rw [h]
  exact front_setGate ..

theorem front_requestPass (q : QueueRef) (c : Cmd) : (requestPass q c b).front = b.front := by
  simp only [requestPass]
  split
  · exact front_setQueue ..
  · exact front_setQueue ..

end Front

/-! ### Entering -/

/-- The unit's count moves on by the command that takes the number `n`. -/
def CoreQueues.counted (unit n : Nat) (x : CoreQueues) : CoreQueues :=
  { x with entered := SMap.put 0 unit (n + 1) x.entered
           done := pruneDone unit (n + 1) x.done ++ [{ unit := unit, index := n, status := none }] }

/-- The thread takes the ticket of command `n` of a unit and goes on. -/
def Thread.ticketed (d : Reg) (pk : Pred) (unit n : Nat) (t : Thread) : Thread :=
  { (t.setG d (BitVec.ofNat 64 (unit * 4096 + n % 4096))).next 4 with
    pPend := if pk = 0 then t.pPend else t.pPend ||| (1#8 <<< pk.toNat) }

/-- A STEP change still to complete uses up free values and nothing else. -/
theorem stepAtEntry_snd (core : Nat) (b : Block) : ∃ k, (stepAtEntry core b).2 = { b with freeCtr := k } := by
  unfold stepAtEntry
  split
  · exact ⟨_, rfl⟩
  · exact ⟨_, rfl⟩

/-- The command's ticket is taken, before it stands in its queue. -/
def Block.ticketTaken (b : Block) (k th : Nat) (d : Reg) (pk : Pred) (unit : Nat) : Block :=
  let n := (b.core (th / 16)).entered unit
  ({ b with freeCtr := k, nextId := b.nextId + 1 }.modCore (th / 16) (·.modQ (·.counted unit n))).modThread th
    (·.ticketed d pk unit n)

section Enter
variable {b : Block} {th unit code : Nat} {d : Reg} {pk : Pred} {q : QueueRef} {block : List Byte} {e : Entry}

/-- ENTERING: the ticket is taken, the command stands last in its queue, its unit is woken, and a heavy command may ask for its pass. -/
theorem enterCmd_eq : ∃ k c, let s := b.ticketTaken k th d pk unit; let s := gateEnter q (s.setQueue q (s.queue q ++ [c]))
    c.named = (b.nextId, unit, code, block, (b.core (th / 16)).entered unit, th, th / 16, e.refuse, pk.toNat)
      ∧ (enterCmd th d pk unit code q block e b = s ∨ enterCmd th d pk unit code q block e b = requestPass q c s) := by
  obtain ⟨k, hk⟩ := stepAtEntry_snd (th / 16) b
  dsimp only [enterCmd]
  generalize stepAtEntry (th / 16) b = p at hk ⊢
  obtain ⟨step, s⟩ := p
  subst hk
  exact ⟨k, _, rfl, (ite_eq_or_eq _ _ _).symm⟩

theorem named_enterCmd : ((enterCmd th d pk unit code q block e b).queue q).map Cmd.named = (b.queue q).map Cmd.named
    ++ [(b.nextId, unit, code, block, (b.core (th / 16)).entered unit, th, th / 16, e.refuse, pk.toNat)] := by
  obtain ⟨k, c, hc, h⟩ := @enterCmd_eq b th unit code d pk q block e
  have last : ∀ s : Block, ((gateEnter q (s.setQueue q (s.queue q ++ [c]))).queue q).map Cmd.named = (s.queue q).map Cmd.named ++ [c.named] :=
    fun s => by rw [queue_gateEnter, queue_setQueue_same, List.map_append, List.map_singleton]
  have taken : (b.ticketTaken k th d pk unit).queue q = b.queue q := (queue_modThread ..).trans (queue_modCore _ (by exact fun _ => rfl) q)
  rw [← hc, ← taken, ← last]
  rcases h with h | h
  · rw [h]
  · rw [h, named_requestPass]

theorem front_enterCmd : ∃ k, (enterCmd th d pk unit code q block e b).front = (b.ticketTaken k th d pk unit).front := by
  obtain ⟨k, c, -, h⟩ := @enterCmd_eq b th unit code d pk q block e
  refine ⟨k, ?_⟩
  rcases h with h | h
  · rw [h, front_gateEnter, front_setQueue]
  · rw [h, front_requestPass, front_gateEnter, front_setQueue]

end Enter

/-! ### The ticket -/

section Ticket
variable {b b' : Block}

theorem core_of_front (h : b'.front = b.front) (c : Nat) : (b'.core c).front = (b.core c).front := congrFun (congrArg Prod.fst h) c

theorem thread_of_front (h : b'.front = b.front) (n : Nat) : b'.thread n = b.thread n :=
  congrArg (fun x : SMap Thread × Mem × SMap Nat => SMap.get Thread.init (n % 16) x.1) (core_of_front h (n / 16))

theorem entered_of_front (h : b'.front = b.front) (c unit : Nat) : (b'.core c).entered unit = (b.core c).entered unit :=
  congrArg (fun x : SMap Thread × Mem × SMap Nat => SMap.get 0 unit x.2.2) (core_of_front h c)

theorem ts_of_front (h : b'.front = b.front) (c : Nat) : (b'.core c).ts = (b.core c).ts := congrArg (·.2.1) (core_of_front h c)

variable (b : Block) (k th : Nat) (d : Reg) (pk : Pred) (unit : Nat)

theorem thread_ticketTaken (n : Nat) : (b.ticketTaken k th d pk unit).thread n
    = if n = th then (b.thread th).ticketed d pk unit ((b.core (th / 16)).entered unit) else b.thread n := by
  have counted : ∀ m, ({ b with freeCtr := k, nextId := b.nextId + 1 }.modCore (th / 16)
      (·.modQ (·.counted unit ((b.core (th / 16)).entered unit)))).thread m = b.thread m :=
    thread_modCore _ (by exact fun _ => rfl) _ _
  split
  · subst_vars
    rw [Block.ticketTaken, Block.thread_modThread_same, counted]
  · rw [Block.ticketTaken, (onlyThread_modThread ..).1 n ‹_›, counted]

theorem Core.entered_counted (c : Core) (n m : Nat) (t : Thread) : ((c.modQ (·.counted unit n)).setThread m t).entered unit = n + 1 :=
  SMap.get_put_same 0 unit (n + 1) c.q.entered

theorem entered_ticketTaken : ((b.ticketTaken k th d pk unit).core (th / 16)).entered unit = (b.core (th / 16)).entered unit + 1 := by
  rw [Block.ticketTaken, Block.modThread, Block.core_setThread, if_pos rfl, Block.core_modCore, if_pos rfl]
  exact Core.entered_counted ..

theorem ts_ticketTaken (c : Nat) : ((b.ticketTaken k th d pk unit).core c).ts = (b.core c).ts := by
  have counted : ∀ m, (({ b with freeCtr := k, nextId := b.nextId + 1 }.modCore (th / 16)
      (·.modQ (·.counted unit ((b.core (th / 16)).entered unit)))).core m).ts = (b.core m).ts := fun m => by
    rw [Block.core_modCore]
    split
    · subst_vars; rfl
    · rfl
  exact (congrArg Core.ts ((onlyThread_modThread ..).2.1 c)).trans (counted c)

end Ticket

/-- Settles O31: the queue holds one named command more, and what is no part of the queues is as the ticket leaves it. -/
theorem enteringTakesTheNextTicket : Obligations.EnteringTakesTheNextTicket := by
  intro b th d pk unit code q block e _ b' n t t'
  have named := @named_enterCmd b th unit code d pk q block e
  obtain ⟨k, front⟩ := @front_enterCmd b th unit code d pk q block e
  have self : t' = t.ticketed d pk unit n := (thread_of_front front th).trans ((thread_ticketTaken ..).trans (if_pos rfl))
  have length : (b'.queue q).length = (b.queue q).length + 1 := by simpa using congrArg List.length named
  refine ⟨length, ?last, (entered_of_front front _ _).trans (entered_ticketTaken ..), ?g, ?pc, ?p, ?st, ?pPend,
    fun m hm => (thread_of_front front m).trans ((thread_ticketTaken ..).trans (if_neg hm)), congrArg Prod.snd front,
    fun c => (ts_of_front front c).trans (ts_ticketTaken ..)⟩
  case last =>
    have last := congrArg List.getLast? named
    rw [List.getLast?_map, List.getLast?_concat] at last
    obtain ⟨c, hc, fields⟩ := Option.map_eq_some_iff.1 last
    simp only [Cmd.named, Prod.mk.injEq] at fields
    obtain ⟨id, unit, code, block, index, thread, core, refuse, pk⟩ := fields
    exact ⟨c, hc, id, unit, code, block, index, thread, core, refuse, pk⟩
  case g => rw [self]; rfl
  all_goals rw [self, Thread.ticketed, Thread.setG_eq] <;> rfl

end Sys2Proof.Machine
end
